-- ==== Sys2Proof/Word.lean ====
section
/-!
DEFINITION. Word.lean: the word types of the Y12 (R5, R6) and the one container used for sparse state.
-/
namespace Sys2Proof

/-- A 64-bit register, token payload or doubleword of memory. -/
abbrev Word := BitVec 64

/-- A byte of memory (R6). -/
abbrev Byte := BitVec 8

/-- A token (R42): `none` is the null token, `some v` carries the 64-bit value `v`. -/
abbrev Token := Option Word

/-- Sparse data by number: a list of key and value pairs whose keys rise strictly. -/
abbrev Table (α : Type) := List (Nat × α)

end Sys2Proof
end

