-- ==== Sys2Proof/Machine/Bits.lean ====
section
/-!
DEFINITION. Machine/Bits.lean: bit fields, sign extension, clamping and byte order (R5, R6, R10, R11).
Bit manipulation is done on natural numbers and narrowed at the end.
-/
namespace Sys2Proof.Machine

/-- x<hi:lo> of R5. -/
def bits (x hi lo : Nat) : Nat := x / 2 ^ lo % 2 ^ (hi + 1 - lo)

/-- x<i> of R5. -/
def bit (x i : Nat) : Bool := x / 2 ^ i % 2 == 1

/-- The signed value of the `n` low bits of `x`. -/
def toSigned (x n : Nat) : Int :=
  let v := x % 2 ^ n
  if v < 2 ^ (n - 1) then (v : Int) else (v : Int) - (2 ^ n : Nat)

/-- The `n` low bits of `v` in two's complement. -/
def ofInt (v : Int) (n : Nat) : Nat := (v % ((2 ^ n : Nat) : Int)).toNat

/-- A token payload from a natural number, modulo 2^64. -/
def word (n : Nat) : Word := BitVec.ofNat 64 n

/-- sext(x, n): the `n`-bit value `x` sign-extended to 64 bits. -/
def sext (x n : Nat) : Word := word (ofInt (toSigned x n) 64)

/-- zext(x, n). -/
def zext (x n : Nat) : Word := word (x % 2 ^ n)

/-- satS(x, n): the clamped value, and whether the clamp changed it. -/
def satS (x : Int) (n : Nat) : Int × Bool :=
  let hi : Int := ((2 ^ (n - 1) : Nat) : Int) - 1
  let lo : Int := -((2 ^ (n - 1) : Nat) : Int)
  if x > hi then (hi, true) else if x < lo then (lo, true) else (x, false)

/-- satU(x, n). -/
def satU (x : Int) (n : Nat) : Int × Bool :=
  let hi : Int := ((2 ^ n : Nat) : Int) - 1
  if x > hi then (hi, true) else if x < 0 then (0, true) else (x, false)

/-- The `n` little-endian bytes of `v`, lowest address first (R6). -/
def toBytes (v : Nat) : Nat → List Byte
  | 0 => []
  | n + 1 => BitVec.ofNat 8 v :: toBytes (v / 256) n

/-- The value of little-endian bytes, lowest address first (R6). -/
def ofBytes : List Byte → Nat
  | [] => 0
  | b :: bs => b.toNat + 256 * ofBytes bs

/-- The numbers `lo`, `lo + 1`, … , `n` of them. -/
def span (lo : Nat) : Nat → List Nat
  | 0 => []
  | n + 1 => lo :: span (lo + 1) n

end Sys2Proof.Machine
end

