-- ==== Sys2Proof/Machine/Flags.lean ====
section
/-!
DEFINITION. Machine/Flags.lean: how the flags of an instance reach FLAGS (R72, R275). The flags of single operations are computed
beside their results (Machine/Numbers.lean, FloatOps.lean, Operands.lean).
-/
namespace Sys2Proof.Machine

/-- FLAGS at commit: `base` is FLAGS after any CSRW of it in the instance; flags of washes that ended late come last. -/
def flagsAtCommit (base clear raised late : BitVec 5) : BitVec 5 := (base &&& ~~~clear) ||| raised ||| late

/-- FLAGS when the instance ends in a trap: the clear set is not applied. -/
def flagsAtTrap (base raised late : BitVec 5) : BitVec 5 := base ||| raised ||| late

end Sys2Proof.Machine
end

