-- ==== Sys2Proof/Machine/Numbers.lean ====
section
/-!
DEFINITION. Machine/Numbers.lean: the number formats, exact arithmetic and rounding of chapter 03 (R58–R74).
A value is an exact fraction; it is rounded once, at the end.
-/
namespace Sys2Proof.Machine

/-- Rounding modes of Table 2-4: 0 RNE, 1 RZ, 2 RU, 3 RD. -/
inductive Round where
  | rne | rz | ru | rd
  deriving DecidableEq, Repr

def Round.ofBits (n : Nat) : Round :=
  match n % 4 with
  | 0 => .rne
  | 1 => .rz
  | 2 => .ru
  | _ => .rd

/-- The number formats of Table 3-1. -/
inductive Fmt where
  | f32 | f16 | bf16 | d8 | d4 | i8 | i16 | i32 | i64 | none
  deriving DecidableEq, Repr

/-- Format codes (R58); the reserved codes name no format. -/
def Fmt.ofCode (n : Nat) : Option Fmt :=
  match n with
  | 0 => some .f32
  | 1 => some .f16
  | 2 => some .bf16
  | 3 => some .d8
  | 4 => some .d4
  | 5 => some .i8
  | 6 => some .i16
  | 7 => some .i32
  | 8 => some .i64
  | 15 => some .none
  | _ => Option.none

def Fmt.code : Fmt → Nat
  | .f32 => 0
  | .f16 => 1
  | .bf16 => 2
  | .d8 => 3
  | .d4 => 4
  | .i8 => 5
  | .i16 => 6
  | .i32 => 7
  | .i64 => 8
  | .none => 15

/-- Width in bits (Table 3-1). -/
def Fmt.width : Fmt → Nat
  | .f32 => 32
  | .f16 => 16
  | .bf16 => 16
  | .d8 => 8
  | .d4 => 4
  | .i8 => 8
  | .i16 => 16
  | .i32 => 32
  | .i64 => 64
  | .none => 8

def Fmt.isInt : Fmt → Bool
  | .i8 | .i16 | .i32 | .i64 => true
  | _ => false

def Fmt.isBin : Fmt → Bool
  | .f32 | .f16 | .bf16 => true
  | _ => false

/-- Exponent and fraction widths of the binary formats (R60). -/
def Fmt.expBits : Fmt → Nat
  | .f16 => 5
  | _ => 8

def Fmt.fracBits : Fmt → Nat
  | .f16 => 10
  | .bf16 => 7
  | _ => 23

/-- The default NaN of each format (R60). -/
def Fmt.nan : Fmt → Nat
  | .f16 => 0x7E00
  | .bf16 => 0x7FC0
  | .d8 => 0x80
  | .d4 => 0x8
  | _ => 0x7FC00000

/-- A value: a NaN, an infinity, a signed zero, or plus or minus `n / d` with `n` and `d` above 0. -/
inductive Num where
  | nan (signalling : Bool)
  | inf (neg : Bool)
  | zero (neg : Bool)
  | fin (neg : Bool) (n d : Nat)
  deriving DecidableEq, Repr

/-- The five flags of Table 3-6. -/
abbrev Flags := BitVec 5

def flagNV : Flags := 16
def flagDZ : Flags := 8
def flagOF : Flags := 4
def flagUF : Flags := 2
def flagNX : Flags := 1

/-- An integer result that is clamped, or overflows: NX accompanies every case of OF (Table 3-7). -/
def flagClamp : Flags := flagOF ||| flagNX

def flagIf (c : Bool) (f : Flags) : Flags := if c then f else 0

/-- A value and the flags its computation raised. -/
abbrev Flagged (α : Type) := α × Flags

def Num.isNan : Num → Bool
  | .nan _ => true
  | _ => false

def Num.isSig : Num → Bool
  | .nan s => s
  | _ => false

def Num.neg : Num → Bool
  | .nan _ => false
  | .inf n => n
  | .zero n => n
  | .fin n _ _ => n

def Num.negate : Num → Num
  | .nan s => .nan s
  | .inf n => .inf (!n)
  | .zero n => .zero (!n)
  | .fin n a b => .fin (!n) a b

/-- `m × 2^e` as a positive fraction. -/
def scale2 (neg : Bool) (m : Nat) (e : Int) : Num :=
  if m == 0 then .zero neg
  else if e < 0 then .fin neg m (2 ^ (-e).toNat) else .fin neg (m * 2 ^ e.toNat) 1

/-- The value of a binary code (R60). -/
def decodeBin (f : Fmt) (c : Nat) : Num :=
  let fb := f.fracBits
  let eb := f.expBits
  let bias : Int := ((2 ^ (eb - 1) - 1 : Nat) : Int)
  let frac := c % 2 ^ fb
  let e := c / 2 ^ fb % 2 ^ eb
  let neg := c / 2 ^ (fb + eb) % 2 == 1
  if e == 2 ^ eb - 1 then
    if frac == 0 then .inf neg else .nan (frac / 2 ^ (fb - 1) == 0)
  else if e == 0 then scale2 neg frac (1 - bias - (fb : Int))
  else scale2 neg (frac + 2 ^ fb) ((e : Int) - bias - (fb : Int))

/-- Quotient of a magnitude rounded to an integer, and whether it was inexact (R68). -/
def roundQuot (n d : Nat) (neg : Bool) (rm : Round) : Nat × Bool :=
  let q := n / d
  let r := n % d
  if r == 0 then (q, false)
  else
    let up := match rm with
      | .rne => 2 * r > d || (2 * r == d && q % 2 == 1)
      | .rz => false
      | .ru => !neg
      | .rd => neg
    (if up then q + 1 else q, true)

/-- floor(log2(n / d)). -/
def floorLog2 (n d : Nat) : Int :=
  let e : Int := (n.log2 : Int) - (d.log2 : Int)
  let ge := if e ≥ 0 then n ≥ d * 2 ^ e.toNat else n * 2 ^ (-e).toNat ≥ d
  if ge then e else e - 1

/-- Round `n / d` to a multiple of 2^e: the multiple's count, and whether it was inexact. -/
def roundAt (n d : Nat) (e : Int) (neg : Bool) (rm : Round) : Nat × Bool :=
  if e ≥ 0 then roundQuot n (d * 2 ^ e.toNat) neg rm
  else roundQuot (n * 2 ^ (-e).toNat) d neg rm

def signBit (f : Fmt) (neg : Bool) : Nat := if neg then 2 ^ (f.width - 1) else 0

/-- The code of an infinity, and of the largest finite magnitude. -/
def infCode (f : Fmt) : Nat := (2 ^ f.expBits - 1) * 2 ^ f.fracBits

/-- Round a positive or negative magnitude into a binary format (R68, R70, R71). -/
def roundBin (f : Fmt) (rm : Round) (fo neg : Bool) (n d : Nat) : Flagged Nat :=
  let fb := f.fracBits
  let bias : Int := ((2 ^ (f.expBits - 1) - 1 : Nat) : Int)
  let emin : Int := 1 - bias
  let x := floorLog2 n d
  let xs := if x < emin then emin else x
  let (q, nx) := roundAt n d (xs - (fb : Int)) neg rm
  let code := (xs + bias - 1).toNat * 2 ^ fb + q
  if code ≥ infCode f then
    let toInf := match rm with
      | .rne => true
      | .rz => false
      | .ru => !neg
      | .rd => neg
    (signBit f neg + (if toInf then infCode f else infCode f - 1), flagOF ||| flagNX)
  else
    let tiny := x < emin &&
      !((roundAt n d (x - (fb : Int)) neg rm).1 == 2 ^ (fb + 1) && x + 1 ≥ emin)
    if fo && code < 2 ^ fb && code != 0 then (signBit f neg, flagUF ||| flagNX)
    else (signBit f neg + code, flagIf (nx && tiny) flagUF ||| flagIf nx flagNX)

/-- The FP32 image of a magnitude `s × 10^e / k`, as the fraction RNE gives (R62). -/
def decimalImage (num den : Nat) : Nat := (roundBin .f32 .rne false false num den).1

/-- The exact decimal value of a D8 magnitude field (Table 3-2). -/
def d8Exact (m : Nat) : Nat × Nat :=
  let p := m.log2
  let (e, f, wf) : Int × Nat × Nat :=
    match p with
    | 6 => ((m / 16 % 4 : Nat) - 2, m % 16, 4)
    | 5 => (let E := m / 4 % 8; if E < 4 then (E : Int) - 6 else (E : Int) - 2, m % 4, 2)
    | 4 => (let E := m % 16; if E < 8 then (E : Int) - 14 else (E : Int) - 2, 0, 0)
    | 3 => (let E := m % 8; if E < 4 then (E : Int) - 18 else (E : Int) + 10, 0, 0)
    | 2 => (let E := m % 4; if E < 2 then (E : Int) - 20 else (E : Int) + 16, 0, 0)
    | 1 => (if m % 2 == 0 then -21 else 20, 0, 0)
    | _ => (-22, 0, 0)
  let n := 2 ^ wf + 9 * f
  if e ≥ 0 then (n * 10 ^ e.toNat, 2 ^ wf) else (n, 2 ^ wf * 10 ^ (-e).toNat)

/-- The exact decimal value of a D4 magnitude field (R64). -/
def d4Exact (m : Nat) : Nat × Nat :=
  match m with
  | 1 => (1, 1000)
  | 2 => (1, 100)
  | 3 => (10, 1)
  | 4 => (1, 10)
  | 5 => (55, 100)
  | 6 => (1, 1)
  | _ => (55, 10)

/-- The FP32 image of a decimal code's magnitude field; 0 for zero. -/
def decImage (f : Fmt) (m : Nat) : Nat :=
  if m == 0 then 0
  else
    let (n, d) := if f == .d8 then d8Exact m else d4Exact m
    decimalImage n d

/-- decodeD8(c) and decodeD4(c) of Table 0-2, as FP32 codes (R62, R64). -/
def decodeDec (f : Fmt) (c : Nat) : Nat :=
  let half := 2 ^ (f.width - 1)
  let m := c % half
  let s := c / half % 2
  if m == 0 then (if s == 1 then Fmt.nan .f32 else 0) else s * 2 ^ 31 + decImage f m

/-- The value of a code of a floating-point or decimal format; of an integer format, its signed value. -/
def decodeNum (f : Fmt) (v : Nat) : Num :=
  match f with
  | .d8 | .d4 => decodeBin .f32 (decodeDec f (v % 2 ^ f.width))
  | .f32 | .f16 | .bf16 => decodeBin f (v % 2 ^ f.width)
  | _ =>
    let x := toSigned v f.width
    if x == 0 then .zero false else .fin (x < 0) x.natAbs 1

/-- FI (R71): a subnormal operand of a binary format counts as zero of its sign. -/
def isSubnormal (f : Fmt) (c : Nat) : Bool :=
  f.isBin && c / 2 ^ f.fracBits % 2 ^ f.expBits == 0 && c % 2 ^ f.fracBits != 0

def operand (f : Fmt) (fi : Bool) (v : Nat) : Num :=
  let c := v % 2 ^ f.width
  if fi && isSubnormal f c then .zero (c / 2 ^ (f.width - 1) % 2 == 1) else decodeNum f c

/-- Compare two magnitudes: n1 / d1 ≤ n2 / d2. -/
def fracLe (n1 d1 n2 d2 : Nat) : Bool := n1 * d2 ≤ n2 * d1

/-- Magnitude fields of a decimal format with their images as fractions, ascending by field. -/
def decCandidates (f : Fmt) : List (Nat × Nat × Nat) :=
  (span 1 (2 ^ (f.width - 1) - 1)).filterMap fun m =>
    match decodeBin .f32 (decImage f m) with
    | .fin _ n d => some (m, n, d)
    | _ => none

/-- The candidate of largest magnitude not above `n / d`: zero at worst. -/
def decBelow (c : List (Nat × Nat × Nat)) (n d : Nat) : Nat × Nat × Nat :=
  c.foldl (fun best x => if fracLe x.2.1 x.2.2 n d && fracLe best.2.1 best.2.2 x.2.1 x.2.2 then x else best) (0, 0, 1)

/-- The candidate of smallest magnitude not below `n / d`, if any. -/
def decAbove (c : List (Nat × Nat × Nat)) (n d : Nat) : Option (Nat × Nat × Nat) :=
  c.foldl (fun best x =>
    if fracLe n d x.2.1 x.2.2 then
      match best with
      | none => some x
      | some b => if fracLe x.2.1 x.2.2 b.2.1 b.2.2 then some x else best
    else best) none

/-- The code of a rounded magnitude: a zero result is code 0x00 (R63 item 4). -/
def decCode (f : Fmt) (neg : Bool) (m : Nat) : Nat := if m == 0 then 0 else signBit f neg + m

/-- Whether `n / d` lies below every positive image. -/
def belowAll (c : List (Nat × Nat × Nat)) (n d : Nat) : Bool := (decBelow c n d).1 == 0

/-- Round a magnitude into D8 or D4 (R63). -/
def roundDec (f : Fmt) (rm : Round) (neg : Bool) (n d : Nat) : Flagged Nat :=
  let c := decCandidates f
  match decAbove c n d with
  | none => (decCode f neg 3, flagOF ||| flagNX)
  | some hi =>
    let lo := decBelow c n d
    if lo.2.1 * d == n * lo.2.2 then (decCode f neg lo.1, 0)
    else
      -- twice the distances, over one denominator: x - lo and hi - x
      let dl := (n * lo.2.2 - lo.2.1 * d) * hi.2.2
      let dh := (hi.2.1 * d - n * hi.2.2) * lo.2.2
      let pickHi := match rm with
        | .rne => dh < dl || (dh == dl && hi.1 % 2 == 0 && lo.1 % 2 == 1)
        | .rz => false
        | .ru => !neg
        | .rd => neg
      let m := if pickHi then hi.1 else lo.1
      (decCode f neg m, flagNX ||| flagIf (belowAll c n d) flagUF)

/-- The largest magnitude field of D4 and D8: 3 in both (R61, R64). -/
def roundInf (f : Fmt) (neg : Bool) : Flagged Nat :=
  match f with
  | .d8 | .d4 => (decCode f neg 3, flagOF ||| flagNX)
  | _ => (signBit f neg + infCode f, 0)

/-- round(x, fmt, mode) into a floating-point or decimal format, as a code, with its flags (R63, R68, R70). NV for a
signalling operand is raised by the caller, except into D8 and D4 where R63 names it too. -/
def roundNum (f : Fmt) (rm : Round) (fo : Bool) : Num → Flagged Nat
  | .nan s => (f.nan, flagIf (s && !f.isBin) flagNV)
  | .inf neg => roundInf f neg
  | .zero neg => (if f.isBin then signBit f neg else 0, 0)
  | .fin neg n d => if f.isBin then roundBin f rm fo neg n d else roundDec f rm neg n d

/-- Round to an integer under a mode (R77): the integer, and whether it was inexact. -/
def roundInt (rm : Round) (neg : Bool) (n d : Nat) : Int × Bool :=
  let (q, nx) := roundQuot n d neg rm
  (if neg then -(q : Int) else (q : Int), nx)

/-! ## Exact arithmetic -/

/-- The exact product; `true` for 0 × ∞ (R70). -/
def mulNum (a b : Num) : Num × Bool :=
  let neg := a.neg != b.neg
  match a, b with
  | .nan s, .nan t => (.nan (s || t), false)
  | .nan s, _ => (.nan s, false)
  | _, .nan s => (.nan s, false)
  | .inf _, .zero _ | .zero _, .inf _ => (.nan false, true)
  | .inf _, _ | _, .inf _ => (.inf neg, false)
  | .zero _, _ | _, .zero _ => (.zero neg, false)
  | .fin _ n d, .fin _ m e => (.fin neg (n * m) (d * e), false)

/-- Sum of two signed fractions. -/
def addFrac (x y : Int × Nat) : Int × Nat :=
  if x.2 % y.2 == 0 then (x.1 + y.1 * (x.2 / y.2 : Nat), x.2)
  else if y.2 % x.2 == 0 then (x.1 * (y.2 / x.2 : Nat) + y.1, y.2)
  else (x.1 * y.2 + y.1 * x.2, x.2 * y.2)

def Num.frac : Num → Int × Nat
  | .fin neg n d => (if neg then -(n : Int) else n, d)
  | _ => (0, 1)

def ofFrac (x : Int × Nat) : Num := .fin (x.1 < 0) x.1.natAbs x.2

/-- The exact sum of R74: NaN when an addend is one or both infinities occur, with NV for a signalling addend and
for both infinities, whether or not a quiet NaN stands beside them (Table 3-7). -/
def sumNum (rm : Round) (l : List Num) : Num × Flags :=
  let sig := l.any Num.isSig
  let pinf := l.any (fun x => x == .inf false)
  let ninf := l.any (fun x => x == .inf true)
  if l.any Num.isNan || (pinf && ninf) then (.nan false, flagIf (sig || (pinf && ninf)) flagNV)
  else if pinf then (.inf false, 0)
  else if ninf then (.inf true, 0)
  else
    let s := l.foldl (fun acc x => addFrac acc x.frac) (0, 1)
    if s.1 != 0 then (ofFrac s, 0)
    else if l.all (fun x => x == .zero true) then (.zero true, 0)
    else if l.all (fun x => x == .zero false) then (.zero false, 0)
    else (.zero (rm == .rd), 0)

/-- -1, 0 or 1 as `a` is below, equal to or above `b`; zeros are equal. NaNs compare equal and must be tested first. -/
def cmpNum (a b : Num) : Int :=
  let key : Num → Int × Nat := fun x => x.frac
  match a, b with
  | .inf true, .inf true => 0
  | .inf false, .inf false => 0
  | .inf true, _ => -1
  | _, .inf true => 1
  | .inf false, _ => 1
  | _, .inf false => -1
  | _, _ =>
    let x := key a
    let y := key b
    let l := x.1 * y.2
    let r := y.1 * x.2
    if l < r then -1 else if l == r then 0 else 1

/-- Order with −0 below +0 (R100). -/
def ltNum (a b : Num) : Bool :=
  match a, b with
  | .zero n, .zero m => n && !m
  | _, _ => cmpNum a b < 0

end Sys2Proof.Machine
end

