-- ==== Sys2Proof/Syntax.lean ====
section
/-!
DEFINITION. Syntax.lean: the instructions and events of spec/opcode_table.json, one constructor per row.

An encoded instruction carries the fields of its row: `t` and `v` targets 1 and 2, `p` the predicate mode, and the
other fields under the letters the table uses. An event has no encoding; it carries plain data that say which stroke,
unit, chain or queue entry it happens to, and what the outside world supplies (log entry 4).
-/
namespace Sys2Proof

/-! ## What events carry -/

/-- What a peer module asks of this module's memory (R413). -/
inductive PeerAccess where
  | read
  | write
  /-- operation 0–6, or 7 for ACAS, and operands B and C -/
  | atomic (op : Nat) (b c : Word)
  /-- AFADD with its index and operand, AFINIT with release and index base -/
  | afadd (index : Nat) (b : BitVec 32)
  | afinit (rel : Bool) (base : BitVec 32)
  /-- accesses that wait for the SC token -/
  | scRead
  | scWrite
  deriving DecidableEq, Repr

/-- A message between peers (R411): a channel word, an access of memory, of an instruction or a copy, with its tier, physical address, size and data, the
reply to one, or the delivery of a squash (R323) with the number of its action at the owner, the record, the floors and the member place. -/
inductive PeerMsg where
  | word (place word : Word)
  | access (a : PeerAccess) (tier pa n : Nat) (data : List Byte)
  /-- 0 with the data of a served access, or the trap code of a refused one -/
  | reply (code : Nat) (data : List Byte)
  | squash (act record q s low : Nat) (member : Word)
  /-- a member has absorbed a squash of this module -/
  | absorbed (act : Nat) (member : Word)
  deriving DecidableEq, Repr

/-- A Wydal flit (R411): the sender's peer number, its header and its messages. Its CRC-64 comes beside it. -/
structure Flit where
  peer : Nat
  seq : BitVec 12
  ack : BitVec 12
  credits : Nat
  kind : Nat
  msgs : List PeerMsg
  deriving DecidableEq, Repr

/-- A link whose lanes can be spared (R422): a die link 0–16, or a Wydal port 0–15. -/
inductive LinkId where
  | die (n : Nat)
  | wydal (port : Nat)
  deriving DecidableEq, Repr

/-- A runtime stroke that the firmware places at bring-up (R347, R427). -/
structure BootStroke where
  unit : Nat
  slot : Nat
  pc : BitVec 80
  regs : Nat
  chbase : Nat
  chans : Nat
  prio : Nat
  wbase : Nat
  wsize : Nat
  deriving DecidableEq, Repr

/-- What the firmware image sets up at bring-up (R427): register words by code, slab and index, and the first strokes. -/
structure Boot where
  regs : List (Nat × Nat × Nat × Word)
  strokes : List BootStroke
  deriving DecidableEq, Repr

inductive Instr where
  /-- R85: Sends a general register's value as it stood at instance start to up to two targets. -/
  | get (t v : BitVec 9) (r : BitVec 7)
  /-- R85: Records a token's value to be written to a general register at commit. -/
  | put (p : BitVec 2) (r : BitVec 7)
  /-- R85: Sends a sign-extended 14-bit immediate. -/
  | movi (t : BitVec 9) (p : BitVec 2) (i : BitVec 14)
  /-- R85: Passes the token on port A to up to two targets. -/
  | mov (t v : BitVec 9) (p : BitVec 2)
  /-- R85: Sends the null token. -/
  | null (t : BitVec 9) (p : BitVec 2)
  /-- R85: Takes the oldest token of a bound in-port, waiting for one if none is there. -/
  | recv (t : BitVec 9) (p : BitVec 2) (n : BitVec 6)
  /-- R85: Sends A or B according to the control operand C. -/
  | sel (t v : BitVec 9)
  /-- R85: Passes A once a token, whose value is ignored, is also present on B. -/
  | gate (t v : BitVec 9) (p : BitVec 2)
  /-- R87: Exit that sets the next PC to the block address plus a word offset. -/
  | bra (x : BitVec 3) (p : BitVec 2) (f : BitVec 20)
  /-- R87: Exit to the address on A plus a word offset, within the stroke's region. -/
  | bri (x : BitVec 3) (p : BitVec 2) (f : BitVec 20)
  /-- R87: Exit that acts as BRA and records a return prediction. -/
  | call (x : BitVec 3) (p : BitVec 2) (f : BitVec 20)
  /-- R87: Exit that acts as BRI with predicted target. -/
  | ret (x : BitVec 3) (p : BitVec 2) (f : BitVec 20)
  /-- R87: Exit that ends the stroke at commit and hands its status to the folio. -/
  | exit (x : BitVec 3) (p : BitVec 2) (f : BitVec 20)
  /-- R88: Loop generator emitting iteration indices and last-iteration markers in a stream-mode block. -/
  | ctr (t v : BitVec 9) (a s : BitVec 1)
  /-- R85: Sends the block address plus a signed word offset. -/
  | movx (t : BitVec 9) (p : BitVec 2) (i : BitVec 14)
  /-- R93: Integer addition at the selected width and view. -/
  | add (t v : BitVec 9) (p w : BitVec 2) (u : BitVec 1)
  /-- R93: Integer subtraction. -/
  | sub (t v : BitVec 9) (p w : BitVec 2) (u : BitVec 1)
  /-- R95: 64-bit addition of a sign-extended immediate. -/
  | addi (t : BitVec 9) (p : BitVec 2) (i : BitVec 14)
  /-- R93: Integer multiplication, low half. -/
  | mul (t v : BitVec 9) (p w : BitVec 2) (u : BitVec 1)
  /-- R93: High half of the double-width integer product. -/
  | mulh (t v : BitVec 9) (p w : BitVec 2) (u : BitVec 1)
  /-- R94: Truncating integer division with defined zero-divisor and overflow results. -/
  | div (t v : BitVec 9) (p w : BitVec 2) (u s : BitVec 1)
  /-- R94: Integer remainder with the sign of the dividend. -/
  | rem (t v : BitVec 9) (p w : BitVec 2) (u s : BitVec 1)
  /-- R93: Integer negation. -/
  | neg (t v : BitVec 9) (p w : BitVec 2) (u : BitVec 1)
  /-- R93: Bitwise and. -/
  | and (t v : BitVec 9) (p w : BitVec 2) (u : BitVec 1)
  /-- R93: Bitwise or. -/
  | or (t v : BitVec 9) (p w : BitVec 2) (u : BitVec 1)
  /-- R93: Bitwise exclusive or. -/
  | xor (t v : BitVec 9) (p w : BitVec 2) (u : BitVec 1)
  /-- R93: A and not B. -/
  | andn (t v : BitVec 9) (p w : BitVec 2) (u : BitVec 1)
  /-- R95: 64-bit and with a sign-extended immediate. -/
  | andi (t : BitVec 9) (p : BitVec 2) (i : BitVec 14)
  /-- R95: 64-bit or with a sign-extended immediate. -/
  | ori (t : BitVec 9) (p : BitVec 2) (i : BitVec 14)
  /-- R95: 64-bit exclusive or with a sign-extended immediate. -/
  | xori (t : BitVec 9) (p : BitVec 2) (i : BitVec 14)
  /-- R93: Bitwise complement. -/
  | not (t v : BitVec 9) (p w : BitVec 2) (u : BitVec 1)
  /-- R93: Logical left shift by B mod W. -/
  | shl (t v : BitVec 9) (p w : BitVec 2) (u : BitVec 1)
  /-- R93: Logical right shift by B mod W. -/
  | shr (t v : BitVec 9) (p w : BitVec 2) (u : BitVec 1)
  /-- R93: Arithmetic right shift by B mod W. -/
  | asr (t v : BitVec 9) (p w : BitVec 2) (u : BitVec 1)
  /-- R95: Left shift by an immediate amount at a chosen width. -/
  | shli (t : BitVec 9) (p : BitVec 2) (u : BitVec 1) (w : BitVec 2) (n : BitVec 6)
  /-- R95: Logical right shift by an immediate amount. -/
  | shri (t : BitVec 9) (p : BitVec 2) (u : BitVec 1) (w : BitVec 2) (n : BitVec 6)
  /-- R95: Arithmetic right shift by an immediate amount. -/
  | asri (t : BitVec 9) (p : BitVec 2) (u : BitVec 1) (w : BitVec 2) (n : BitVec 6)
  /-- R93: Counts leading zeros. -/
  | clz (t v : BitVec 9) (p w : BitVec 2) (u : BitVec 1)
  /-- R93: Counts one bits. -/
  | popc (t v : BitVec 9) (p w : BitVec 2) (u : BitVec 1)
  /-- R93: Integer comparison delivering 0 or 1 under a selected condition. -/
  | cmp (t v : BitVec 9) (p w : BitVec 2) (u : BitVec 1) (f : BitVec 2)
  /-- R93: Integer minimum. -/
  | min (t v : BitVec 9) (p w : BitVec 2) (u : BitVec 1)
  /-- R93: Integer maximum. -/
  | max (t v : BitVec 9) (p w : BitVec 2) (u : BitVec 1)
  /-- R96: Extracts a bit field. -/
  | bfx (t v : BitVec 9) (p : BitVec 2) (u : BitVec 1)
  /-- R96: Inserts a bit field. -/
  | bfi (t v : BitVec 9)
  /-- R97: Forms an address A plus a shifted index. -/
  | lea (t v : BitVec 9) (p : BitVec 2) (x : BitVec 1) (k : BitVec 3)
  /-- R93: Saturating integer addition. -/
  | adds (t v : BitVec 9) (p w : BitVec 2) (u s : BitVec 1)
  /-- R93: Saturating integer subtraction. -/
  | subs (t v : BitVec 9) (p w : BitVec 2) (u s : BitVec 1)
  /-- R99: FP32 addition, rounded once. -/
  | fadd (t v : BitVec 9) (p : BitVec 2) (s i o : BitVec 1) (r : BitVec 2)
  /-- R99: FP32 subtraction, rounded once. -/
  | fsub (t v : BitVec 9) (p : BitVec 2) (s i o : BitVec 1) (r : BitVec 2)
  /-- R99: FP32 multiplication, rounded once. -/
  | fmul (t v : BitVec 9) (p : BitVec 2) (s i o : BitVec 1) (r : BitVec 2)
  /-- R99: FP32 fused multiply-add, rounded once. -/
  | ffma (t v : BitVec 9) (s i o : BitVec 1) (r : BitVec 2)
  /-- R100: FP32 minimum under the number or propagating NaN policy. -/
  | fmin (t v : BitVec 9) (p : BitVec 2) (s i o q : BitVec 1)
  /-- R100: FP32 maximum under the number or propagating NaN policy. -/
  | fmax (t v : BitVec 9) (p : BitVec 2) (s i o q : BitVec 1)
  /-- R101: Inverts the sign bit, keeping NaN payloads. -/
  | fneg (t v : BitVec 9) (p : BitVec 2)
  /-- R101: Clears the sign bit, keeping NaN payloads. -/
  | fabs (t v : BitVec 9) (p : BitVec 2)
  /-- R102: FP32 comparison EQ, LT, LE or UN delivering 0 or 1. -/
  | fcmp (t v : BitVec 9) (p : BitVec 2) (s i : BitVec 1) (c : BitVec 2)
  /-- R80: Reports the class of an FP32, FP16, BF16 or D8 operand as one set bit. -/
  | fclass (t v : BitVec 9) (p c : BitVec 2)
  /-- R103: Packed addition of four 16-bit floating-point elements. -/
  | padd (t : BitVec 9) (f : BitVec 4) (p : BitVec 2) (s i o : BitVec 1) (r : BitVec 2)
  /-- R103: Packed multiplication of four 16-bit elements. -/
  | pmul (t : BitVec 9) (f : BitVec 4) (p : BitVec 2) (s i o : BitVec 1) (r : BitVec 2)
  /-- R103: Packed fused multiply-add of four 16-bit elements. -/
  | pfma (t : BitVec 9) (f : BitVec 4) (s i o : BitVec 1) (r : BitVec 2)
  /-- R75: Four-element dot product plus an FP32 addend, rounded once. -/
  | pdot (t : BitVec 9) (f : BitVec 4) (s i o : BitVec 1) (r : BitVec 2)
  /-- R99: Correctly rounded reciprocal. -/
  | rcp (t v : BitVec 9) (p : BitVec 2) (s i o : BitVec 1) (r : BitVec 2)
  /-- R99: Correctly rounded reciprocal square root. -/
  | rsq (t v : BitVec 9) (p : BitVec 2) (s i o : BitVec 1) (r : BitVec 2)
  /-- R99: Correctly rounded power of two. -/
  | exp2 (t v : BitVec 9) (p : BitVec 2) (s i o : BitVec 1) (r : BitVec 2)
  /-- R99: Correctly rounded base-2 logarithm. -/
  | log2 (t v : BitVec 9) (p : BitVec 2) (s i o : BitVec 1) (r : BitVec 2)
  /-- R99: Correctly rounded hyperbolic tangent. -/
  | tanh (t v : BitVec 9) (p : BitVec 2) (s i o : BitVec 1) (r : BitVec 2)
  /-- R77: Converts a token between two format codes. -/
  | cvt (t : BitVec 9) (x y : BitVec 4) (p : BitVec 2) (s i o : BitVec 1) (r : BitVec 2)
  /-- R78: Rounds an FP32 value stochastically with a random token. -/
  | srnd (t : BitVec 9) (y : BitVec 4) (p : BitVec 2) (s i o : BitVec 1)
  /-- R81: Reads FLAGS as at instance start under a mask. -/
  | rdflg (t : BitVec 9) (p : BitVec 2) (m : BitVec 14)
  /-- R81: Reads FLAGS and adds a mask to the clear set applied at commit. -/
  | clrflg (t : BitVec 9) (p : BitVec 2) (m : BitVec 14)
  /-- R79: Emits 32-bit random tokens from a register key and counter. -/
  | rngn (t : BitVec 9) (p : BitVec 2) (c k : BitVec 7)
  /-- R114: Scalar load from a space, decoding by page format and honouring full/empty qualifiers. -/
  | ld (t : BitVec 9) (p : BitVec 2) (n : BitVec 5) (s z : BitVec 2) (q : BitVec 3)
  /-- R115: Counted scalar store, encoding by page format. -/
  | st (t : BitVec 9) (p : BitVec 2) (n : BitVec 5) (s z : BitVec 2) (q : BitVec 3)
  /-- R117: Vector copy from any space into the own window, raw or decoding. -/
  | ldv (t : BitVec 9) (p : BitVec 2) (n : BitVec 5) (s z : BitVec 2) (q : BitVec 3)
  /-- R117: Counted vector copy from the own window into any space. -/
  | stv (t : BitVec 9) (p : BitVec 2) (n : BitVec 5) (s z : BitVec 2) (q : BitVec 3)
  /-- R123: Sets or clears the full/empty bits of a run of granules. -/
  | feset (t : BitVec 9) (p : BitVec 2) (n : BitVec 5) (s z : BitVec 2) (q : BitVec 3)
  /-- R126: Initialises a circular-buffer handle. -/
  | cbinit (t : BitVec 9) (p : BitVec 2) (s : BitVec 1) (h : BitVec 4)
  /-- R128: Waits for, or arms a wake for, n filled slots of a buffer. -/
  | cbwait (t : BitVec 9) (p : BitVec 2) (n : BitVec 9) (y : BitVec 1) (h : BitVec 4)
  /-- R128: Waits for, or arms a wake for, n free slots of a buffer. -/
  | cbrsv (t : BitVec 9) (p : BitVec 2) (n : BitVec 9) (y : BitVec 1) (h : BitVec 4)
  /-- R129: Advances a buffer counter and posts an update word to the partner. -/
  | cbadv (t : BitVec 9) (p : BitVec 2) (n : BitVec 9) (e : BitVec 1) (h : BitVec 4)
  /-- R133: Binds or removes an address pattern on an in-port or out-port. -/
  | sbind (t : BitVec 9) (p : BitVec 2) (c r : BitVec 1) (z s : BitVec 2) (o : BitVec 1) (n : BitVec 6)
  /-- R140: Writes a Beneš control set. -/
  | bset (t : BitVec 9) (p n : BitVec 2)
  /-- R141: Permutes the sixteen 4-bit lanes of a token through the Beneš network. -/
  | bperm (t v : BitVec 9) (p n : BitVec 2)
  /-- R241: Atomic add at the owner node or bank, returning the old value. -/
  | aadd (t : BitVec 9) (p : BitVec 2) (n : BitVec 5) (s z : BitVec 2)
  /-- R241: Atomic minimum. -/
  | amin (t : BitVec 9) (p : BitVec 2) (n : BitVec 5) (s z : BitVec 2)
  /-- R241: Atomic maximum. -/
  | amax (t : BitVec 9) (p : BitVec 2) (n : BitVec 5) (s z : BitVec 2)
  /-- R241: Atomic and. -/
  | aand (t : BitVec 9) (p : BitVec 2) (n : BitVec 5) (s z : BitVec 2)
  /-- R241: Atomic or. -/
  | aor (t : BitVec 9) (p : BitVec 2) (n : BitVec 5) (s z : BitVec 2)
  /-- R241: Atomic exclusive or. -/
  | axor (t : BitVec 9) (p : BitVec 2) (n : BitVec 5) (s z : BitVec 2)
  /-- R241: Atomic swap. -/
  | aswp (t : BitVec 9) (p : BitVec 2) (n : BitVec 5) (s z : BitVec 2)
  /-- R241: Atomic compare-and-swap. -/
  | acas (t : BitVec 9) (n : BitVec 5) (s z : BitVec 2)
  /-- R242: Vector atomic add over up to 16 lanes of a lane record. -/
  | aaddv (t : BitVec 9) (p : BitVec 2) (n : BitVec 5) (s z : BitVec 2)
  /-- R242: Vector atomic minimum. -/
  | aminv (t : BitVec 9) (p : BitVec 2) (n : BitVec 5) (s z : BitVec 2)
  /-- R242: Vector atomic maximum. -/
  | amaxv (t : BitVec 9) (p : BitVec 2) (n : BitVec 5) (s z : BitVec 2)
  /-- R242: Vector atomic and. -/
  | aandv (t : BitVec 9) (p : BitVec 2) (n : BitVec 5) (s z : BitVec 2)
  /-- R242: Vector atomic or. -/
  | aorv (t : BitVec 9) (p : BitVec 2) (n : BitVec 5) (s z : BitVec 2)
  /-- R242: Vector atomic exclusive or. -/
  | axorv (t : BitVec 9) (p : BitVec 2) (n : BitVec 5) (s z : BitVec 2)
  /-- R242: Vector atomic swap. -/
  | aswpv (t : BitVec 9) (p : BitVec 2) (n : BitVec 5) (s z : BitVec 2)
  /-- R244: FP32 atomic add applied in sequence-index order. -/
  | afadd (t : BitVec 9) (p : BitVec 2) (n : BitVec 5) (s : BitVec 2)
  /-- R245: Creates, resets or releases the sequence context of a word. -/
  | afinit (t v : BitVec 9) (p : BitVec 2) (l x : BitVec 1)
  /-- R237: Passes a phase boundary at the named scope. -/
  | phase (t : BitVec 9) (p : BitVec 2) (s : BitVec 3)
  /-- R238: Waits for earlier memory operations, begins a phase, or both. -/
  | fence (t : BitVec 9) (p : BitVec 2) (a w : BitVec 1)
  /-- R251: Exchanges physical and shadow pages of a range at one publish point. -/
  | publish (t v : BitVec 9) (p : BitVec 2) (x : BitVec 1)
  /-- R216: Checks and writes an A operand descriptor. -/
  | mda (t : BitVec 9) (n p : BitVec 2)
  /-- R216: Checks and writes a B operand descriptor. -/
  | mdb (t : BitVec 9) (n p : BitVec 2)
  /-- R217: Queues 1 to 128 matrix steps on one accumulator tile. -/
  | mma (t : BitVec 9) (b a p : BitVec 2) (s : BitVec 1)
  /-- R219: Queues a raw copy of an accumulator tile to the window. -/
  | accrd (t : BitVec 9) (p : BitVec 2)
  /-- R219: Queues a raw copy from the window into an accumulator tile. -/
  | accwr (t : BitVec 9) (p : BitVec 2)
  /-- R219: Queues zeroing of the tiles named in a mask. -/
  | accz (t : BitVec 9) (p : BitVec 2)
  /-- R218: Queues a 4,096-byte load into a tile register. -/
  | kld (t : BitVec 9) (k : BitVec 3) (p : BitVec 2)
  /-- R221: Queues conversion of tile rows written under a drain route. -/
  | drain (t : BitVec 9) (p : BitVec 2)
  /-- R220: Writes one drain route table entry. -/
  | rtset (t : BitVec 9) (r : BitVec 4) (p : BitVec 2)
  /-- R222: Reads MFLAGS, MDONE, queue depth or MSEQ, optionally clearing MFLAGS bits. -/
  | mstat (t : BitVec 9) (p : BitVec 2) (c : BitVec 1) (e : BitVec 2)
  /-- R199: Checks and writes a lane configuration word. -/
  | lcfg (t : BitVec 9) (n : BitVec 3) (p : BitVec 2)
  /-- R200: Checks a run descriptor and queues a lane-pipe run, sending its ticket. -/
  | lrun (t : BitVec 9) (n : BitVec 3) (p : BitVec 2) (s i o : BitVec 1) (r : BitVec 2)
  /-- R202: Tests or waits for a lane-pipe ticket to complete. -/
  | lwait (t : BitVec 9) (p : BitVec 2) (y : BitVec 1)
  /-- R203: Reads lane-pipe flags, COMPLETED or queue depth, optionally clearing flags. -/
  | lstat (t : BitVec 9) (p : BitVec 2) (c : BitVec 1) (e : BitVec 2)
  /-- R90: Router operator sending A to one of two targets by C. -/
  | steer (t v : BitVec 9)
  /-- R90: Router operator taking the oldest token of A or B by C. -/
  | merge (t v : BitVec 9)
  /-- R90: Router operator emitting an initial value then fed-back values. -/
  | carry (t v : BitVec 9)
  /-- R90: Router operator repeating one value of A per C token. -/
  | invar (t v : BitVec 9)
  /-- R90: Router operator taking A and B strictly in turn. -/
  | rrmerge (t v : BitVec 9) (b : BitVec 1)
  /-- R179: Binds a handler entry to an entry block with priority and mask. -/
  | hset (t : BitVec 9) (p : BitVec 2)
  /-- R179: Masks or unmasks handlers, returning former mask bits. -/
  | hmask (t : BitVec 9) (p : BitVec 2) (m : BitVec 1)
  /-- R179: Empties a handler entry, optionally discarding its inbox. -/
  | hclr (t : BitVec 9) (p : BitVec 2) (d : BitVec 1)
  /-- R180: Posts a word to a place. -/
  | chsend (t : BitVec 9) (p : BitVec 2)
  /-- R180: Posts a word to every place of a set record through the replication point. -/
  | chmcast (t : BitVec 9) (p : BitVec 2)
  /-- R181: Takes the head word of one of the stroke's inboxes. -/
  | inrd (t : BitVec 9) (p : BitVec 2) (c y : BitVec 1)
  /-- R182: Arrives at a folio barrier without waiting. -/
  | bara (t : BitVec 9) (p : BitVec 2) (b : BitVec 4)
  /-- R182: Arrives at a folio barrier and arms a wake for the generation. -/
  | barw (t : BitVec 9) (p : BitVec 2) (b : BitVec 4)
  /-- R183: Appends an entry to an engine chain and advances its tail. -/
  | chapp (t : BitVec 9) (p : BitVec 2)
  /-- R184: Tests a sequence word or arms a watcher for a value. -/
  | seqwait (t : BitVec 9) (p : BitVec 2) (c : BitVec 5)
  /-- R184: Reads a sequence word's committed value. -/
  | seqrd (t : BitVec 9) (p : BitVec 2)
  /-- R185: Exit that ends the activation and makes the stroke PARKED. -/
  | park (p : BitVec 2) (x : BitVec 3)
  /-- R257: Defines a wash group from a member record. -/
  | wgrpDef (t : BitVec 9) (p : BitVec 2)
  /-- R257: Changes the present mask of a wash group. -/
  | wgrpPresent (t : BitVec 9) (p : BitVec 2)
  /-- R257: Releases a wash group. -/
  | wgrpRel (t : BitVec 9) (p : BitVec 2)
  /-- R272: Wash load establishing holds and reducing 16 lanes into the window. -/
  | wld (t : BitVec 9) (p : BitVec 2) (k : BitVec 1) (y o : BitVec 2)
  /-- R272: Wash load returning two reduced lanes as a token. -/
  | wlds (t : BitVec 9) (p y o : BitVec 2)
  /-- R274: Reads WSTAT, optionally clearing it. -/
  | wstat (t : BitVec 9) (p : BitVec 2) (c : BitVec 1)
  /-- R294: Defines a copybook object and writes every slab's copy. -/
  | cpdef (t : BitVec 9) (p : BitVec 2)
  /-- R294: Releases a copybook object. -/
  | cpdefRel (t : BitVec 9) (p : BitVec 2)
  /-- R295: Calls a mutating method, appending it to the log and awaiting its result. -/
  | cpcall (t : BitVec 9) (p : BitVec 2) (n : BitVec 1) (r : BitVec 4)
  /-- R296: Runs a read-only method on the local copy after catch-up. -/
  | cpread (t : BitVec 9) (p : BitVec 2)
  /-- R297: Tests the local applied index or arms a catch-up wake. -/
  | cpwait (t : BitVec 9) (p : BitVec 2) (c : BitVec 5)
  /-- R289: Releases log entries every scribe has applied. -/
  | cptrim (t : BitVec 9) (p : BitVec 2)
  /-- R299: Reads copybook status selected by SEL. -/
  | cpstat (t : BitVec 9) (p : BitVec 2) (e : BitVec 3)
  /-- R300: Reads a word of the running call's log entry in scribe mode. -/
  | cparg (t : BitVec 9) (p : BitVec 2) (e : BitVec 3)
  /-- R300: Records a method result in scribe mode. -/
  | cpret (t : BitVec 9) (p : BitVec 2)
  /-- R309: Compares a guess with the current token of the next position, launching or squashing and relaunching. -/
  | guess (t : BitVec 9) (p : BitVec 2)
  /-- R308: Launches a pipeline token at layer 0 without a guess. -/
  | launch (t : BitVec 9) (p : BitVec 2)
  /-- R321: Reads GENTAG as at instance start. -/
  | tagrd (t : BitVec 9) (p : BitVec 2)
  /-- R316: Tests a tag against absorbed squashes and optionally retires its position. -/
  | sqchk (t : BitVec 9) (p r : BitVec 2) (s : BitVec 3)
  /-- R314: Registers token channels of a pipeline record. -/
  | sqregChan (t : BitVec 9) (p : BitVec 2)
  /-- R314: Registers regions of key-value rows with a pipeline record. -/
  | sqregRows (t : BitVec 9) (p : BitVec 2)
  /-- R314: Releases the stroke's registrations of a pipeline record. -/
  | sqregRel (t : BitVec 9) (p : BitVec 2)
  /-- R318: Tag-fenced write of a key-value row. -/
  | kvwr (t : BitVec 9) (p : BitVec 2)
  /-- R334: Fills a context's candidate list with the K largest logits. -/
  | topk (t : BitVec 9) (p s : BitVec 2)
  /-- R333: Reads 8 bytes of candidate memory. -/
  | candld (t : BitVec 9) (p : BitVec 2)
  /-- R333: Writes 8 bytes of candidate memory. -/
  | candst (t : BitVec 9) (p : BitVec 2)
  /-- R335: Seeds a context random register. -/
  | rngseed (t : BitVec 9) (p n : BitVec 2)
  /-- R335: Draws a 32-bit random token from a context random register. -/
  | rngnext (t : BitVec 9) (p n : BitVec 2)
  /-- R341: Picks one candidate, greedily or by multinomial draw. -/
  | draw (t : BitVec 9) (p : BitVec 2) (s g : BitVec 1)
  /-- R338: Applies repetition, presence and frequency penalties along a path. -/
  | pen (t : BitVec 9) (p : BitVec 2) (s r q f : BitVec 1)
  /-- R336: Appends a count journal entry under a tree node. -/
  | jrnl (t : BitVec 9) (p : BitVec 2)
  /-- R337: Applies journal entries of accepted nodes to the count table. -/
  | jcommit (t : BitVec 9) (p : BitVec 2)
  /-- R337: Discards journal entries of rejected nodes. -/
  | jdrop (t : BitVec 9) (p : BitVec 2)
  /-- R339: Masks candidates that a grammar bitmap forbids. -/
  | gmask (t : BitVec 9) (p s : BitVec 2)
  /-- R340: Snapshots the live grammar block for a node. -/
  | gsnap (t : BitVec 9) (p : BitVec 2)
  /-- R340: Restores the live grammar block from a node snapshot. -/
  | grest (t : BitVec 9) (p : BitVec 2)
  /-- R342: Builds four ancestor rows of a draft tree. -/
  | tmask (t : BitVec 9) (p g : BitVec 2)
  /-- R344: Queues placement of a mask parameter block in the matrix engine. -/
  | tmload (t : BitVec 9) (p : BitVec 2)
  /-- R342: Computes node depths or positions of a draft tree. -/
  | tdepth (t : BitVec 9) (p : BitVec 2) (x : BitVec 1) (g : BitVec 3)
  /-- R366: Raises a REQUEST trap carrying A. -/
  | trap (t : BitVec 9) (p : BitVec 2)
  /-- R355: Resolves a trapped stroke's trap with RETRY, SKIP or END. -/
  | rft (t : BitVec 9) (p : BitVec 2)
  /-- R372: Reads a control and status register. -/
  | csrr (t : BitVec 9) (p : BitVec 2)
  /-- R372: Writes a control and status register that has no behaviour of its own. -/
  | csrw (t : BitVec 9) (p : BitVec 2)
  /-- R357: Freezes a folio at a round edge. -/
  | freeze (t : BitVec 9) (p : BitVec 2)
  /-- R366: Applies recorded RFT actions and resumes a frozen folio. -/
  | thaw (t : BitVec 9) (p : BitVec 2)
  /-- R367: Streams out a frozen or trapped stroke to a save area. -/
  | ctxout (t : BitVec 9) (p : BitVec 2) (w f : BitVec 1)
  /-- R367: Ends a frozen or trapped stroke without saving it. -/
  | ctxoutDrop (t : BitVec 9) (p : BitVec 2) (w f : BitVec 1)
  /-- R368: Restores a save area as a frozen stroke. -/
  | ctxin (t : BitVec 9) (p : BitVec 2)
  /-- R396: Removes translations of a range and drains accesses that used them. -/
  | tlbinv (t : BitVec 9) (p : BitVec 2) (a : BitVec 1)
  /-- R397: Walks an address and returns its leaf word without faulting. -/
  | tlbprobe (t : BitVec 9) (p : BitVec 2) (h : BitVec 1)
  /-- R369: Removes decoded block images for an address range. -/
  | cfginv (t : BitVec 9) (p : BitVec 2) (m : BitVec 1)
  /-- R370: Stops the management nib from issuing at commit. -/
  | halt (p : BitVec 2)
  /-- R239: The reply of a load, store, atomic or vector copy to device, host or peer memory reaches the issuing slot, which then performs or resolves and sends its token. -/
  | memoryReply (n : Nat)
  /-- R288: A slab's damaged copy of a copybook object is rebuilt to equal the other copies, and that slab's scribe resumes applying the object's log. -/
  | copyRebuilt (slab obj : Nat)
  /-- R421: The reloaded image's signature is compared and the region resumes or traps CFGLOST. -/
  | configImageReloaded (unit addr : Nat)
  /-- R404: Gateway budgets refill at every period boundary. -/
  | gatewayRefill
  /-- R427: At reset the boot ROM checks the firmware image and firmware brings up the module. -/
  | moduleReset (boot : Option Boot) (version : BitVec 32)
  /-- R408: A host CXL.mem write is committed after back-invalidating well lines. -/
  | hostMemWrite (line off : Nat) (data : List Byte)
  /-- R408: A host CXL.mem read returns the committed value. -/
  | hostMemRead (line off n : Nat)
  /-- R410: A host write at doorbell +0 stages an entry address. -/
  | doorbellAddress (job : Nat) (val : Word)
  /-- R410: A host write at doorbell +8 performs CHAPP with the chain word. -/
  | doorbellAppend (job : Nat) (val : Word)
  /-- R418: An uncorrectable error is handled by its consumer and reported. -/
  | uncorrectableError (kind slab unit loc : Nat)
  /-- R36: When the PC becomes a block, it is fetched, decoded or taken from the config store, and checked. -/
  | blockFetch (k : Nat)
  /-- R48: When R47 is met the instance commits: PUTs applied, tokens discarded, PC set, flags updated. -/
  | blockCommit (k : Nat)
  /-- R49: The quiescence tree reports a region settled while commit conditions are unmet. -/
  | nocommit (k : Nat)
  /-- R151: In a cycle with a free region, the selector places the winning candidate or starts its handler. -/
  | selector (unit : Nat)
  /-- R151: A waiting candidate's effective priority rises after each 1,024 cycles. -/
  | handlerAging (k ch : Nat)
  /-- R152: After 65,536 cycles of holding a region with a long-waiting candidate, the stroke yields or is spilled. -/
  | forcedYield (k : Nat)
  /-- R145: A word arrives at a channel and enters its inbox or is refused. -/
  | channelWordArrival (n : Nat)
  /-- R145: A refused word or pending wake word enters an inbox once a slot frees. -/
  | inboxRetry (n : Nat)
  /-- R130: A circular-buffer update word is absorbed into the partner copy and waits are retested. -/
  | updateWordAbsorb (n : Nat)
  /-- R177: An arrival word reaches a stroke in PAGEWAIT, which becomes a candidate. -/
  | pageArrivalAbsorb (n : Nat)
  /-- R163: The replication point takes buffer space for all branches of a multicast or retries. -/
  | mcastReplicate (n : Nat)
  /-- R135: An in-port binding reads the next pattern element ahead of RECV. -/
  | streamReadAhead (k port : Nat)
  /-- R136: A token sent to a bound out-port is stored at its next pattern element. -/
  | streamOutStore (k port : Nat)
  /-- R169: The scheduler dispatches the head task of a chain once its dependence is met and resources are free. -/
  | taskDispatch (chain slab : Nat) (nibs : List Nat)
  /-- R169: A chain with a waiting dispatchable head rises one priority level per 16,384 cycles. -/
  | chainAging (chain : Nat)
  /-- R169: When all a task's folios have ended, the scheduler writes its code. -/
  | taskComplete (chain num : Nat)
  /-- R173: Once lower entries have completed, the completion number is stored and the wake word posted. -/
  | completionWrite (chain : Nat)
  /-- R172: A halted chain re-reads its unreadable entry after a covering TLBINV or PUBLISH or 65,536 cycles. -/
  | chainEntryReread (chain : Nat)
  /-- R175: A copy engine executes a copy, fill or decrypt entry. -/
  | copyEntry (chain : Nat)
  /-- R176: A session swap engine writes pages to NVMe LBAs and optionally evicts them. -/
  | swapOut (chain : Nat) (done : Nat × Bool)
  /-- R176: A session swap engine reads pages into shadow pages, publishes them and posts arrival words. -/
  | swapIn (chain : Nat) (done : Nat × Bool)
  /-- R156: A barrier generation completes once all strokes have arrived and their boundaries completed. -/
  | barrierGenerationComplete (folio bar : Nat)
  /-- R158: The round generator issues the next marker on request, freeze or replay period. -/
  | roundMarkerIssue
  /-- R160: A region passes its round edge once markers have arrived and it is between instances or iterations. -/
  | regionRoundEdge (unit region : Nat)
  /-- R201: The next queued lane-pipe run begins once the previous one has completed. -/
  | laneRunStart (unit : Nat)
  /-- R201: A run's last write and flag are done; COMPLETED is set and a wake word posted. -/
  | laneRunComplete (unit : Nat)
  /-- R211: The next entry of the matrix queue executes in ticket order. -/
  | matrixEntryExecute (unit : Nat)
  /-- R211: A matrix entry's writes finish; MDONE takes its ticket and the ticket is sent. -/
  | matrixEntryComplete (unit : Nat)
  /-- R226: The tile dispatcher places head tile-task entries on local tile queues. -/
  | tileDispatch (chain : Nat)
  /-- R226: An idle engine takes the oldest entry from the longest local queue of another nib. -/
  | tileSteal (unit : Nat)
  /-- R225: An engine executes a tile-task multiply and writes the converted result. -/
  | tileTask (unit : Nat)
  /-- R226: A tile-task waiting 16,384 cycles is started next after the executing entry. -/
  | tileTaskAged (unit : Nat)
  /-- R239: An owner node or bank applies an arriving atomic update as one action. -/
  | atomicApply (n : Nat)
  /-- R244: The reorder buffer applies an AFADD whose index equals NEXT. -/
  | afaddApply (n : Nat)
  /-- R245: The owner creates, resets or frees a sequence context, rejecting held AFADDs. -/
  | afinitApply (n : Nat)
  /-- R248: An SC ring node holding the token performs up to 16 queued accesses. -/
  | scTokenVisit
  /-- R230: A phase boundary completes once its writes are visible at its scope; marks advance. -/
  | phaseBoundaryComplete (k : Nat)
  /-- R229: A pending write stalled for 4,096 cycles raises PHASEOVF. -/
  | phaseovf (k slot : Nat)
  /-- R272: Once a member's mark passes k, the wash reads it, releases its hold and, after the last, writes the result. -/
  | washMemberRead (n member : Nat)
  /-- R281: The home appends a call at index NEXT once the log has room. -/
  | copybookAppend (n : Nat)
  /-- R283: A slab's scribe applies the next appended log entry by running its method. -/
  | scribeApply (slab obj : Nat)
  /-- R311: A member nib raises kill floors and withdraws condemned rows. -/
  | squashAbsorb (n member : Nat)
  /-- R389: A page request record is written once its ring slot is free, then reported. -/
  | pageRequest (n : Nat)
  /-- R388: A waiting engine or scheduler walks a not-present page again after invalidation or 65,536 cycles. -/
  | enginePageRewalk (chain : Nat)
  /-- R184: A watcher posts a sequence wake word when the watched value first reaches its target. -/
  | seqWatcherWake (n : Nat)
  /-- R184: The scheduler re-reads the overflow list of waits at least every 4,096 cycles. -/
  | seqOverflowScan (slab : Nat)
  /-- R373: CSRW of ROUND requests the next marker and returns its number. -/
  | roundWrite
  /-- R374: CSRW of an owner range word, checked and applied after bound accesses drain. -/
  | ownrngWrite (idx : Nat) (val : Word)
  /-- R375: CSRW of a well's shares, holding until pending granules fit. -/
  | wellshareWrite (slab idx : Nat) (val : Word)
  /-- R376: CSRW of SMPCTX with V set zeroes and assigns a sequence context. -/
  | smpctxAssign (slab idx : Nat) (part : BitVec 8)
  /-- R376: CSRW of SMPCTX with V clear unassigns a context. -/
  | smpctxUnassign (slab idx : Nat)
  /-- R376: CSRW of JOBKILL starts a job's tear-down. -/
  | jobkill (job : Nat)
  /-- R398: CSRW of PRQ sets a partition's page-request ring and resets HEAD. -/
  | prqWrite (idx : Nat) (val : Word)
  /-- R401: CSRW of NIBPART assigns a user nib to a partition, refused while in use. -/
  | nibpartWrite (slab idx : Nat) (val : Word)
  /-- R414: CSRW of KEYSLOT with bit 63 moves the staged key into a slot. -/
  | keyslotLoad (idx : Nat)
  /-- R414: CSRW of KEYSLOT with bit 63 clear erases a slot. -/
  | keyslotErase (idx : Nat)
  /-- R417: CSRW of a swap queue pair, holding while commands are outstanding. -/
  | swqWrite (slab idx : Nat) (val : Word)
  /-- R423: CSRW of ROLETAB marks a nib out of service or moves it to a spare site. -/
  | roletabWrite (slab idx : Nat) (val : Word)
  /-- R424: CSRW of REPLAY sets record, replay or off mode and advances LOGTAIL. -/
  | replayWrite (idx : Nat) (val : Word)
  /-- R406: Every 1,024 cycles the slab refills each partition's token buckets. -/
  | bandwidthRefill (slab : Nat)
  /-- R425: Every 4 cycles the slew limiter admits engines and steps their rates. -/
  | slewStep (slab : Nat)
  /-- R426: A router idle for IDLE × 1,024 cycles is power-gated. -/
  | routerPowerGate (slab site : Nat)
  /-- R426: A gated router wakes on its first waiting beat. -/
  | routerWake (slab site : Nat)
  /-- R418: A correctable error is corrected, counted and reported at each 256th. -/
  | correctableError (kind slab unit : Nat)
  /-- R421: A config-store error freezes the region and starts a reload of the image. -/
  | configStoreError (unit addr : Nat)
  /-- R418: A die-link flit is received, CRC-checked and replayed on failure. -/
  | dieLinkFlit (link : Nat × Nat) (seq : Nat) (crcOk : Bool)
  /-- R411: A Wydal flit is received, CRC-checked and replayed go-back-N on failure. -/
  | wydalFlit (port : Nat) (flit : Flit) (crc : BitVec 64)
  /-- R413: An incoming peer channel word is admitted under IPART or a gateway, or discarded. -/
  | peerWordArrival (peer : Nat) (place word : Word)
  /-- R422: A die-link or Wydal lane spare is brought in by retraining. -/
  | linkLaneRetrain (link : LinkId)
  /-- R422: A spare lane-pipe lane replaces a failed lane at the next idle lane pipe. -/
  | laneSpareRemap (unit lane : Nat)
  /-- R422: A well's spare row replaces a failed row after its lines are written back. -/
  | wellRowRemap (slab well row : Nat)
  /-- R409: A host write to its memory invalidates well lines holding those bytes. -/
  | hostSnoop (hpa : Nat) (data : List Byte)
  /-- R410: A host read at doorbell +0 returns the last append's completion number. -/
  | doorbellResultRead (job : Nat)
  /-- R410: A host read at doorbell +8 reports whether the chain word was refused. -/
  | doorbellStatusRead (job : Nat)
  /-- R428: A host nonce write makes the management nib answer with a signed attestation report. -/
  | attestNonce (nonce : List Byte)
  /-- R17: The power governor lowers or raises the clock of the whole module. -/
  | clockChange (mhz : Nat)
  /-- R413: A memory request that arrives from a peer module over a Wydal link is admitted under MEMOK and served, or refused with a fault that completes it as BADPA. -/
  | peerMemoryAccess (peer : Nat) (access : PeerAccess) (tier pa n : Nat) (data : List Byte)
  /-- R407: The host-site UCIe link trains with four, two or one modules, and the host rate scales with the width. -/
  | ucieLinkTraining (mods : Nat)
  deriving DecidableEq, Repr

end Sys2Proof
end

