-- ==== Sys2Proof/Config.lean ====
section
/-!
DEFINITION. Config.lean: what the manual leaves to each part or leaves open. Each opaque constant is a free value: nothing
in Lean can evaluate it (log entry 1).
-/
namespace Sys2Proof.Config

/-- The `n`-th free value the machine draws. -/
opaque freeWord : Nat → Word

/-- The `n`-th free choice between two outcomes the manual allows. -/
opaque freeBool : Nat → Bool

/-- The correctly rounded result of a function whose enclosure does not decide it: function, operand, rounding mode. -/
opaque freeRound : Nat → Word → Nat → BitVec 32

/-- The well that holds a pending granule (R229 does not say which): slab * 32 + well, from the granule's key. -/
opaque wellOf : Nat → Nat

/-- The RSA-3072 signature of the module's identity key over the items of an attestation report (R428). -/
opaque signature : List Byte → List Byte

/-- The firmware image that the part's store holds (R427). -/
opaque firmware : List Byte

/-- The CRC-64 of a flit (R411, which gives no polynomial). -/
opaque crc64 : Flit → BitVec 64

/-- The bytes of the `n`-th entry that recorded replay writes, and how far the places of the ring lie apart (R424 gives no form). -/
opaque logEntry : Nat → List Byte
opaque logPitch : Nat

/-- The 64 bytes of a command in a submission queue and the 16 of an entry in a completion queue (R417, which names NVMe and gives no layout): of operation,
command number, namespace, first LBA and LBAs; of queue identifier, command number and success. -/
opaque swapCommand : Nat → Nat → Nat → Nat → Nat → List Byte
opaque swapCompletion : Nat → Nat → Bool → List Byte

/-- Bytes that a message takes in a flit (R411, which gives the layout of none). -/
opaque messageBytes : PeerMsg → Nat

/-- The port among a peer's that words to a place take (R413: a hash of the place). -/
opaque portHash : Word → Nat

/-- Whether a peer serves an access that no stroke's instruction makes: the count of free values, the address (R413). -/
opaque peerServes : Nat → Nat → Bool

/-- Whether an engine uses a cached translation where it differs from the tables (R393): the count of free values, the address. -/
opaque engineStale : Nat → Nat → Bool

/-- Whether the stream plane of a slab that holds no other folio can carry a seam table (R154; no rule gives its capacity): nib ranks, strokes for each,
the table. -/
opaque seamTableFits : Nat → Nat → List Word → Bool

/-- Whether seam routes between nib sites can be placed beside those that are there (R154): routes as pairs of sites, those there first. -/
opaque routesFit : List (Nat × Nat) → List (Nat × Nat) → Bool

/-- The number by which a peer knows this module (R323; R412 gives no rule for it): by the peer's number. -/
opaque selfNumber : Nat → BitVec 8

/-- The signature of a decoded image (R26, R421): of its header and words. -/
opaque imageSignature : List (BitVec 32) → Nat

end Sys2Proof.Config
end

