-- ==== Sys2Proof/Machine/Forms.lean ====
section
/-!
DEFINITION. Machine/Forms.lean: the checks of one instruction word that look at no other slot: the values R43, R85,
R112, R116, R123, R133, R240 and the tables of the other chapters rule out (RSVMOD), and the shape of a route code (R38).
-/
namespace Sys2Proof.Machine

/-- R38: a route code is empty, names an input of a grain, or names an edge port by its one input. -/
def targetShape (t : BitVec 9) : Bool :=
  let n := t.toNat
  if n / 128 == 0 then n == 0 else n / 64 % 2 == 0 || n / 128 == 1

/-- R38: the two route codes of one word do not name the same input of the same grain. -/
def targetsShape (t v : BitVec 9) : Bool :=
  targetShape t && targetShape v && !(t == v && t.toNat != 0 && t.toNat / 64 % 2 == 0)

/-- Table 5-6, LD: the qualifier against the space. -/
def ldForm (s : BitVec 2) (q : BitVec 3) : Bool :=
  let virt := s == 1 || s == 3
  match q.toNat with
  | 0 | 1 => true
  | 2 | 5 => virt
  | _ => !virt

/-- Table 5-6, ST: the qualifier against the space. -/
def stForm (s : BitVec 2) (q : BitVec 3) : Bool :=
  let virt := s == 1 || s == 3
  match q.toNat with
  | 0 => true
  | 1 => !virt
  | 2 | 5 => virt
  | _ => false

/-- R116: RAW (qualifier bit 2) only with a virtual other side; `.fe` and `.fc` act on the granules read, `.fs` on
those written, so each needs its side to be a scratchpad. -/
def vecForm (s : BitVec 2) (q : BitVec 3) (load : Bool) : Bool :=
  let virt := s == 1 || s == 3
  let fe := q.toNat % 4
  (q.toNat / 4 == 0 || virt) &&
    (fe == 0 || (if load then (fe == 3 || !virt) else (fe != 3 || !virt)))

/-- Table 5-11: CLR leaves bits 11:7 zero; RAW needs space 01 or 11. -/
def sbindForm (c r : BitVec 1) (z s : BitVec 2) : Bool :=
  (c == 0 || (r == 0 && z == 0 && s == 0)) && (r == 0 || s == 1 || s == 3)

/-- The first check of R54 that a word's own fields fail: 3 RSVMOD, 4 TARGET. -/
def formCheck (ok shape : Bool) : Option Nat :=
  if !ok then some 3 else if !shape then some 4 else none

def formError : Instr → Option Nat
  | .get t v _ => formCheck (true) (targetsShape t v)
  | .put p _ => formCheck ((p == 0 || p == 3)) (true)
  | .movi t _ _ => formCheck (true) (targetShape t)
  | .mov t v _ => formCheck (true) (targetsShape t v)
  | .null t _ => formCheck (true) (targetShape t)
  | .recv t _ _ => formCheck (true) (targetShape t)
  | .sel t v => formCheck (true) (targetsShape t v)
  | .gate t v _ => formCheck (true) (targetsShape t v)
  | .bra _ p _ => formCheck (p != 3) (true)
  | .bri _ p _ => formCheck (p != 3) (true)
  | .call _ p _ => formCheck (p != 3) (true)
  | .ret _ p _ => formCheck (p != 3) (true)
  | .exit _ p _ => formCheck (p != 3) (true)
  | .ctr t v _ _ => formCheck (true) (targetsShape t v)
  | .movx t _ _ => formCheck (true) (targetShape t)
  | .add t v _ _ _ => formCheck (true) (targetsShape t v)
  | .sub t v _ _ _ => formCheck (true) (targetsShape t v)
  | .addi t _ _ => formCheck (true) (targetShape t)
  | .mul t v _ _ _ => formCheck (true) (targetsShape t v)
  | .mulh t v _ _ _ => formCheck (true) (targetsShape t v)
  | .div t v _ _ _ _ => formCheck (true) (targetsShape t v)
  | .rem t v _ _ _ _ => formCheck (true) (targetsShape t v)
  | .neg t v _ _ _ => formCheck (true) (targetsShape t v)
  | .and t v _ _ _ => formCheck (true) (targetsShape t v)
  | .or t v _ _ _ => formCheck (true) (targetsShape t v)
  | .xor t v _ _ _ => formCheck (true) (targetsShape t v)
  | .andn t v _ _ _ => formCheck (true) (targetsShape t v)
  | .andi t _ _ => formCheck (true) (targetShape t)
  | .ori t _ _ => formCheck (true) (targetShape t)
  | .xori t _ _ => formCheck (true) (targetShape t)
  | .not t v _ _ _ => formCheck (true) (targetsShape t v)
  | .shl t v _ _ _ => formCheck (true) (targetsShape t v)
  | .shr t v _ _ _ => formCheck (true) (targetsShape t v)
  | .asr t v _ _ _ => formCheck (true) (targetsShape t v)
  | .shli t _ _ w n => formCheck (decide (n.toNat < 64 / 2 ^ w.toNat)) (targetShape t)
  | .shri t _ _ w n => formCheck (decide (n.toNat < 64 / 2 ^ w.toNat)) (targetShape t)
  | .asri t _ _ w n => formCheck (decide (n.toNat < 64 / 2 ^ w.toNat)) (targetShape t)
  | .clz t v _ _ _ => formCheck (true) (targetsShape t v)
  | .popc t v _ _ _ => formCheck (true) (targetsShape t v)
  | .cmp t v _ _ _ _ => formCheck (true) (targetsShape t v)
  | .min t v _ _ _ => formCheck (true) (targetsShape t v)
  | .max t v _ _ _ => formCheck (true) (targetsShape t v)
  | .bfx t v _ _ => formCheck (true) (targetsShape t v)
  | .bfi t v => formCheck (true) (targetsShape t v)
  | .lea t v _ _ _ => formCheck (true) (targetsShape t v)
  | .adds t v _ _ _ _ => formCheck (true) (targetsShape t v)
  | .subs t v _ _ _ _ => formCheck (true) (targetsShape t v)
  | .fadd t v _ _ _ _ _ => formCheck (true) (targetsShape t v)
  | .fsub t v _ _ _ _ _ => formCheck (true) (targetsShape t v)
  | .fmul t v _ _ _ _ _ => formCheck (true) (targetsShape t v)
  | .ffma t v _ _ _ _ => formCheck (true) (targetsShape t v)
  | .fmin t v _ _ _ _ _ => formCheck (true) (targetsShape t v)
  | .fmax t v _ _ _ _ _ => formCheck (true) (targetsShape t v)
  | .fneg t v _ => formCheck (true) (targetsShape t v)
  | .fabs t v _ => formCheck (true) (targetsShape t v)
  | .fcmp t v _ _ _ _ => formCheck (true) (targetsShape t v)
  | .fclass t v _ _ => formCheck (true) (targetsShape t v)
  | .padd t f _ _ _ _ _ => formCheck ((f == 1 || f == 2)) (targetShape t)
  | .pmul t f _ _ _ _ _ => formCheck ((f == 1 || f == 2)) (targetShape t)
  | .pfma t f _ _ _ _ => formCheck ((f == 1 || f == 2)) (targetShape t)
  | .pdot t f _ _ _ _ => formCheck ((f == 1 || f == 2)) (targetShape t)
  | .rcp t v _ _ _ _ _ => formCheck (true) (targetsShape t v)
  | .rsq t v _ _ _ _ _ => formCheck (true) (targetsShape t v)
  | .exp2 t v _ _ _ _ _ => formCheck (true) (targetsShape t v)
  | .log2 t v _ _ _ _ _ => formCheck (true) (targetsShape t v)
  | .tanh t v _ _ _ _ _ => formCheck (true) (targetsShape t v)
  | .cvt t x y _ _ _ _ _ => formCheck (decide (x.toNat ≤ 8) && decide (y.toNat ≤ 8)) (targetShape t)
  | .srnd t y _ _ _ _ => formCheck ((1 ≤ y.toNat && decide (y.toNat ≤ 4))) (targetShape t)
  | .rdflg t _ _ => formCheck (true) (targetShape t)
  | .clrflg t _ _ => formCheck (true) (targetShape t)
  | .rngn t _ _ _ => formCheck (true) (targetShape t)
  | .ld t p _ s _ q => formCheck ((p == 0 || p == 3) && ldForm s q) (targetShape t)
  | .st t p _ s _ q => formCheck ((p == 0 || p == 3) && stForm s q) (targetShape t)
  | .ldv t p _ s _ q => formCheck ((p == 0 || p == 3) && vecForm s q true) (targetShape t)
  | .stv t p _ s _ q => formCheck ((p == 0 || p == 3) && vecForm s q false) (targetShape t)
  | .feset t p _ s _ q => formCheck ((p == 0 || p == 3) && (s == 0 || s == 2) && (q == 0 || q == 1)) (targetShape t)
  | .cbinit t _ _ _ => formCheck (true) (targetShape t)
  | .cbwait t _ _ _ _ => formCheck (true) (targetShape t)
  | .cbrsv t _ _ _ _ => formCheck (true) (targetShape t)
  | .cbadv t _ n _ _ => formCheck (n != 0) (targetShape t)
  | .sbind t _ c r z s _ _ => formCheck (sbindForm c r z s) (targetShape t)
  | .bset t _ _ => formCheck (true) (targetShape t)
  | .bperm t v _ _ => formCheck (true) (targetsShape t v)
  | .aadd t p _ _ _ => formCheck ((p == 0 || p == 3)) (targetShape t)
  | .amin t p _ _ _ => formCheck ((p == 0 || p == 3)) (targetShape t)
  | .amax t p _ _ _ => formCheck ((p == 0 || p == 3)) (targetShape t)
  | .aand t p _ _ _ => formCheck ((p == 0 || p == 3)) (targetShape t)
  | .aor t p _ _ _ => formCheck ((p == 0 || p == 3)) (targetShape t)
  | .axor t p _ _ _ => formCheck ((p == 0 || p == 3)) (targetShape t)
  | .aswp t p _ _ _ => formCheck ((p == 0 || p == 3)) (targetShape t)
  | .acas t _ _ _ => formCheck (true) (targetShape t)
  | .aaddv t p _ s _ => formCheck ((p == 0 || p == 3) && (s == 1 || s == 3)) (targetShape t)
  | .aminv t p _ s _ => formCheck ((p == 0 || p == 3) && (s == 1 || s == 3)) (targetShape t)
  | .amaxv t p _ s _ => formCheck ((p == 0 || p == 3) && (s == 1 || s == 3)) (targetShape t)
  | .aandv t p _ s _ => formCheck ((p == 0 || p == 3) && (s == 1 || s == 3)) (targetShape t)
  | .aorv t p _ s _ => formCheck ((p == 0 || p == 3) && (s == 1 || s == 3)) (targetShape t)
  | .axorv t p _ s _ => formCheck ((p == 0 || p == 3) && (s == 1 || s == 3)) (targetShape t)
  | .aswpv t p _ s _ => formCheck ((p == 0 || p == 3) && (s == 1 || s == 3)) (targetShape t)
  | .afadd t p _ s => formCheck ((p == 0 || p == 3) && (s == 1 || s == 3)) (targetShape t)
  | .afinit t v _ _ _ => formCheck (true) (targetsShape t v)
  | .phase t _ s => formCheck (decide (s.toNat ≤ 5)) (targetShape t)
  | .fence t _ a w => formCheck ((a != 0 || w != 0)) (targetShape t)
  | .publish t v _ _ => formCheck (true) (targetsShape t v)
  | .mda t _ _ => formCheck (true) (targetShape t)
  | .mdb t _ _ => formCheck (true) (targetShape t)
  | .mma t _ _ _ _ => formCheck (true) (targetShape t)
  | .accrd t _ => formCheck (true) (targetShape t)
  | .accwr t _ => formCheck (true) (targetShape t)
  | .accz t _ => formCheck (true) (targetShape t)
  | .kld t _ _ => formCheck (true) (targetShape t)
  | .drain t _ => formCheck (true) (targetShape t)
  | .rtset t _ _ => formCheck (true) (targetShape t)
  | .mstat t _ c e => formCheck ((c == 0 || e == 0)) (targetShape t)
  | .lcfg t _ _ => formCheck (true) (targetShape t)
  | .lrun t _ _ _ _ _ _ => formCheck (true) (targetShape t)
  | .lwait t _ _ => formCheck (true) (targetShape t)
  | .lstat t _ c e => formCheck ((c == 0 || e == 0 || e == 1)) (targetShape t)
  | .steer t v => formCheck (true) (targetsShape t v)
  | .merge t v => formCheck (true) (targetsShape t v)
  | .carry t v => formCheck (true) (targetsShape t v)
  | .invar t v => formCheck (true) (targetsShape t v)
  | .rrmerge t v _ => formCheck (true) (targetsShape t v)
  | .hset t _ => formCheck (true) (targetShape t)
  | .hmask t _ _ => formCheck (true) (targetShape t)
  | .hclr t _ _ => formCheck (true) (targetShape t)
  | .chsend t _ => formCheck (true) (targetShape t)
  | .chmcast t _ => formCheck (true) (targetShape t)
  | .inrd t _ _ _ => formCheck (true) (targetShape t)
  | .bara t _ _ => formCheck (true) (targetShape t)
  | .barw t _ _ => formCheck (true) (targetShape t)
  | .chapp t _ => formCheck (true) (targetShape t)
  | .seqwait t _ _ => formCheck (true) (targetShape t)
  | .seqrd t _ => formCheck (true) (targetShape t)
  | .park p _ => formCheck (p != 3) (true)
  | .wgrpDef t _ => formCheck (true) (targetShape t)
  | .wgrpPresent t _ => formCheck (true) (targetShape t)
  | .wgrpRel t _ => formCheck (true) (targetShape t)
  | .wld t p _ y o => formCheck ((p == 0 || p == 3) && y != 3 && o != 3) (targetShape t)
  | .wlds t _ y o => formCheck (y != 3 && o != 3) (targetShape t)
  | .wstat t _ _ => formCheck (true) (targetShape t)
  | .cpdef t _ => formCheck (true) (targetShape t)
  | .cpdefRel t _ => formCheck (true) (targetShape t)
  | .cpcall t _ n r => formCheck ((n == 1 || r == 0)) (targetShape t)
  | .cpread t _ => formCheck (true) (targetShape t)
  | .cpwait t _ _ => formCheck (true) (targetShape t)
  | .cptrim t _ => formCheck (true) (targetShape t)
  | .cpstat t _ e => formCheck (decide (e.toNat ≤ 5)) (targetShape t)
  | .cparg t _ _ => formCheck (true) (targetShape t)
  | .cpret t _ => formCheck (true) (targetShape t)
  | .guess t _ => formCheck (true) (targetShape t)
  | .launch t _ => formCheck (true) (targetShape t)
  | .tagrd t _ => formCheck (true) (targetShape t)
  | .sqchk t _ r _ => formCheck (r != 3) (targetShape t)
  | .sqregChan t _ => formCheck (true) (targetShape t)
  | .sqregRows t _ => formCheck (true) (targetShape t)
  | .sqregRel t _ => formCheck (true) (targetShape t)
  | .kvwr t p => formCheck ((p == 0 || p == 3)) (targetShape t)
  | .topk t _ _ => formCheck (true) (targetShape t)
  | .candld t _ => formCheck (true) (targetShape t)
  | .candst t p => formCheck ((p == 0 || p == 3)) (targetShape t)
  | .rngseed t _ _ => formCheck (true) (targetShape t)
  | .rngnext t _ _ => formCheck (true) (targetShape t)
  | .draw t _ _ _ => formCheck (true) (targetShape t)
  | .pen t _ _ r q f => formCheck ((r != 0 || q != 0 || f != 0)) (targetShape t)
  | .jrnl t _ => formCheck (true) (targetShape t)
  | .jcommit t _ => formCheck (true) (targetShape t)
  | .jdrop t _ => formCheck (true) (targetShape t)
  | .gmask t _ s => formCheck ((s == 1 || s == 3)) (targetShape t)
  | .gsnap t _ => formCheck (true) (targetShape t)
  | .grest t _ => formCheck (true) (targetShape t)
  | .tmask t _ _ => formCheck (true) (targetShape t)
  | .tmload t _ => formCheck (true) (targetShape t)
  | .tdepth t _ x g => formCheck ((x == 1 || g == 0)) (targetShape t)
  | .trap t p => formCheck (p != 3) (targetShape t)
  | .rft t _ => formCheck (true) (targetShape t)
  | .csrr t _ => formCheck (true) (targetShape t)
  | .csrw t _ => formCheck (true) (targetShape t)
  | .freeze t _ => formCheck (true) (targetShape t)
  | .thaw t _ => formCheck (true) (targetShape t)
  | .ctxout t _ _ _ => formCheck (true) (targetShape t)
  | .ctxoutDrop t _ _ _ => formCheck (true) (targetShape t)
  | .ctxin t _ => formCheck (true) (targetShape t)
  | .tlbinv t _ _ => formCheck (true) (targetShape t)
  | .tlbprobe t _ _ => formCheck (true) (targetShape t)
  | .cfginv t _ _ => formCheck (true) (targetShape t)
  | .halt _ => formCheck (true) (true)
  | .blockFetch _ => none
  | .blockCommit _ => none
  | .nocommit _ => none
  | .selector _ => none
  | .handlerAging _ _ => none
  | .forcedYield _ => none
  | .channelWordArrival _ => none
  | .inboxRetry _ => none
  | .updateWordAbsorb _ => none
  | .pageArrivalAbsorb _ => none
  | .mcastReplicate _ => none
  | .streamReadAhead _ _ => none
  | .streamOutStore _ _ => none
  | .taskDispatch _ _ _ => none
  | .chainAging _ => none
  | .taskComplete _ _ => none
  | .completionWrite _ => none
  | .chainEntryReread _ => none
  | .copyEntry _ => none
  | .swapOut _ _ => none
  | .swapIn _ _ => none
  | .barrierGenerationComplete _ _ => none
  | .roundMarkerIssue => none
  | .regionRoundEdge _ _ => none
  | .laneRunStart _ => none
  | .laneRunComplete _ => none
  | .matrixEntryExecute _ => none
  | .matrixEntryComplete _ => none
  | .tileDispatch _ => none
  | .tileSteal _ => none
  | .tileTask _ => none
  | .tileTaskAged _ => none
  | .atomicApply _ => none
  | .afaddApply _ => none
  | .afinitApply _ => none
  | .scTokenVisit => none
  | .phaseBoundaryComplete _ => none
  | .phaseovf _ _ => none
  | .washMemberRead _ _ => none
  | .copybookAppend _ => none
  | .scribeApply _ _ => none
  | .squashAbsorb _ _ => none
  | .pageRequest _ => none
  | .enginePageRewalk _ => none
  | .seqWatcherWake _ => none
  | .seqOverflowScan _ => none
  | .roundWrite => none
  | .ownrngWrite _ _ => none
  | .wellshareWrite _ _ _ => none
  | .smpctxAssign _ _ _ => none
  | .smpctxUnassign _ _ => none
  | .jobkill _ => none
  | .prqWrite _ _ => none
  | .nibpartWrite _ _ _ => none
  | .keyslotLoad _ => none
  | .keyslotErase _ => none
  | .swqWrite _ _ _ => none
  | .roletabWrite _ _ _ => none
  | .replayWrite _ _ => none
  | .bandwidthRefill _ => none
  | .gatewayRefill => none
  | .slewStep _ => none
  | .routerPowerGate _ _ => none
  | .routerWake _ _ => none
  | .correctableError _ _ _ => none
  | .uncorrectableError _ _ _ _ => none
  | .configStoreError _ _ => none
  | .configImageReloaded _ _ => none
  | .dieLinkFlit _ _ _ => none
  | .wydalFlit _ _ _ => none
  | .peerWordArrival _ _ _ => none
  | .linkLaneRetrain _ => none
  | .laneSpareRemap _ _ => none
  | .wellRowRemap _ _ _ => none
  | .hostMemWrite _ _ _ => none
  | .hostMemRead _ _ _ => none
  | .hostSnoop _ _ => none
  | .doorbellAddress _ _ => none
  | .doorbellAppend _ _ => none
  | .doorbellResultRead _ => none
  | .doorbellStatusRead _ => none
  | .attestNonce _ => none
  | .moduleReset _ _ => none
  | .clockChange _ => none
  | .memoryReply _ => none
  | .peerMemoryAccess _ _ _ _ _ _ => none
  | .ucieLinkTraining _ => none
  | .copyRebuilt _ _ => none

/-- The instruction has an encoding: it is a row of Tables 2-6 to 2-10, not an event. -/
def isWord : Instr → Bool
  | .get _ _ _ => true
  | .put _ _ => true
  | .movi _ _ _ => true
  | .mov _ _ _ => true
  | .null _ _ => true
  | .recv _ _ _ => true
  | .sel _ _ => true
  | .gate _ _ _ => true
  | .bra _ _ _ => true
  | .bri _ _ _ => true
  | .call _ _ _ => true
  | .ret _ _ _ => true
  | .exit _ _ _ => true
  | .ctr _ _ _ _ => true
  | .movx _ _ _ => true
  | .add _ _ _ _ _ => true
  | .sub _ _ _ _ _ => true
  | .addi _ _ _ => true
  | .mul _ _ _ _ _ => true
  | .mulh _ _ _ _ _ => true
  | .div _ _ _ _ _ _ => true
  | .rem _ _ _ _ _ _ => true
  | .neg _ _ _ _ _ => true
  | .and _ _ _ _ _ => true
  | .or _ _ _ _ _ => true
  | .xor _ _ _ _ _ => true
  | .andn _ _ _ _ _ => true
  | .andi _ _ _ => true
  | .ori _ _ _ => true
  | .xori _ _ _ => true
  | .not _ _ _ _ _ => true
  | .shl _ _ _ _ _ => true
  | .shr _ _ _ _ _ => true
  | .asr _ _ _ _ _ => true
  | .shli _ _ _ _ _ => true
  | .shri _ _ _ _ _ => true
  | .asri _ _ _ _ _ => true
  | .clz _ _ _ _ _ => true
  | .popc _ _ _ _ _ => true
  | .cmp _ _ _ _ _ _ => true
  | .min _ _ _ _ _ => true
  | .max _ _ _ _ _ => true
  | .bfx _ _ _ _ => true
  | .bfi _ _ => true
  | .lea _ _ _ _ _ => true
  | .adds _ _ _ _ _ _ => true
  | .subs _ _ _ _ _ _ => true
  | .fadd _ _ _ _ _ _ _ => true
  | .fsub _ _ _ _ _ _ _ => true
  | .fmul _ _ _ _ _ _ _ => true
  | .ffma _ _ _ _ _ _ => true
  | .fmin _ _ _ _ _ _ _ => true
  | .fmax _ _ _ _ _ _ _ => true
  | .fneg _ _ _ => true
  | .fabs _ _ _ => true
  | .fcmp _ _ _ _ _ _ => true
  | .fclass _ _ _ _ => true
  | .padd _ _ _ _ _ _ _ => true
  | .pmul _ _ _ _ _ _ _ => true
  | .pfma _ _ _ _ _ _ => true
  | .pdot _ _ _ _ _ _ => true
  | .rcp _ _ _ _ _ _ _ => true
  | .rsq _ _ _ _ _ _ _ => true
  | .exp2 _ _ _ _ _ _ _ => true
  | .log2 _ _ _ _ _ _ _ => true
  | .tanh _ _ _ _ _ _ _ => true
  | .cvt _ _ _ _ _ _ _ _ => true
  | .srnd _ _ _ _ _ _ => true
  | .rdflg _ _ _ => true
  | .clrflg _ _ _ => true
  | .rngn _ _ _ _ => true
  | .ld _ _ _ _ _ _ => true
  | .st _ _ _ _ _ _ => true
  | .ldv _ _ _ _ _ _ => true
  | .stv _ _ _ _ _ _ => true
  | .feset _ _ _ _ _ _ => true
  | .cbinit _ _ _ _ => true
  | .cbwait _ _ _ _ _ => true
  | .cbrsv _ _ _ _ _ => true
  | .cbadv _ _ _ _ _ => true
  | .sbind _ _ _ _ _ _ _ _ => true
  | .bset _ _ _ => true
  | .bperm _ _ _ _ => true
  | .aadd _ _ _ _ _ => true
  | .amin _ _ _ _ _ => true
  | .amax _ _ _ _ _ => true
  | .aand _ _ _ _ _ => true
  | .aor _ _ _ _ _ => true
  | .axor _ _ _ _ _ => true
  | .aswp _ _ _ _ _ => true
  | .acas _ _ _ _ => true
  | .aaddv _ _ _ _ _ => true
  | .aminv _ _ _ _ _ => true
  | .amaxv _ _ _ _ _ => true
  | .aandv _ _ _ _ _ => true
  | .aorv _ _ _ _ _ => true
  | .axorv _ _ _ _ _ => true
  | .aswpv _ _ _ _ _ => true
  | .afadd _ _ _ _ => true
  | .afinit _ _ _ _ _ => true
  | .phase _ _ _ => true
  | .fence _ _ _ _ => true
  | .publish _ _ _ _ => true
  | .mda _ _ _ => true
  | .mdb _ _ _ => true
  | .mma _ _ _ _ _ => true
  | .accrd _ _ => true
  | .accwr _ _ => true
  | .accz _ _ => true
  | .kld _ _ _ => true
  | .drain _ _ => true
  | .rtset _ _ _ => true
  | .mstat _ _ _ _ => true
  | .lcfg _ _ _ => true
  | .lrun _ _ _ _ _ _ _ => true
  | .lwait _ _ _ => true
  | .lstat _ _ _ _ => true
  | .steer _ _ => true
  | .merge _ _ => true
  | .carry _ _ => true
  | .invar _ _ => true
  | .rrmerge _ _ _ => true
  | .hset _ _ => true
  | .hmask _ _ _ => true
  | .hclr _ _ _ => true
  | .chsend _ _ => true
  | .chmcast _ _ => true
  | .inrd _ _ _ _ => true
  | .bara _ _ _ => true
  | .barw _ _ _ => true
  | .chapp _ _ => true
  | .seqwait _ _ _ => true
  | .seqrd _ _ => true
  | .park _ _ => true
  | .wgrpDef _ _ => true
  | .wgrpPresent _ _ => true
  | .wgrpRel _ _ => true
  | .wld _ _ _ _ _ => true
  | .wlds _ _ _ _ => true
  | .wstat _ _ _ => true
  | .cpdef _ _ => true
  | .cpdefRel _ _ => true
  | .cpcall _ _ _ _ => true
  | .cpread _ _ => true
  | .cpwait _ _ _ => true
  | .cptrim _ _ => true
  | .cpstat _ _ _ => true
  | .cparg _ _ _ => true
  | .cpret _ _ => true
  | .guess _ _ => true
  | .launch _ _ => true
  | .tagrd _ _ => true
  | .sqchk _ _ _ _ => true
  | .sqregChan _ _ => true
  | .sqregRows _ _ => true
  | .sqregRel _ _ => true
  | .kvwr _ _ => true
  | .topk _ _ _ => true
  | .candld _ _ => true
  | .candst _ _ => true
  | .rngseed _ _ _ => true
  | .rngnext _ _ _ => true
  | .draw _ _ _ _ => true
  | .pen _ _ _ _ _ _ => true
  | .jrnl _ _ => true
  | .jcommit _ _ => true
  | .jdrop _ _ => true
  | .gmask _ _ _ => true
  | .gsnap _ _ => true
  | .grest _ _ => true
  | .tmask _ _ _ => true
  | .tmload _ _ => true
  | .tdepth _ _ _ _ => true
  | .trap _ _ => true
  | .rft _ _ => true
  | .csrr _ _ => true
  | .csrw _ _ => true
  | .freeze _ _ => true
  | .thaw _ _ => true
  | .ctxout _ _ _ _ => true
  | .ctxoutDrop _ _ _ _ => true
  | .ctxin _ _ => true
  | .tlbinv _ _ _ => true
  | .tlbprobe _ _ _ => true
  | .cfginv _ _ _ => true
  | .halt _ => true
  | .blockFetch _ => false
  | .blockCommit _ => false
  | .nocommit _ => false
  | .selector _ => false
  | .handlerAging _ _ => false
  | .forcedYield _ => false
  | .channelWordArrival _ => false
  | .inboxRetry _ => false
  | .updateWordAbsorb _ => false
  | .pageArrivalAbsorb _ => false
  | .mcastReplicate _ => false
  | .streamReadAhead _ _ => false
  | .streamOutStore _ _ => false
  | .taskDispatch _ _ _ => false
  | .chainAging _ => false
  | .taskComplete _ _ => false
  | .completionWrite _ => false
  | .chainEntryReread _ => false
  | .copyEntry _ => false
  | .swapOut _ _ => false
  | .swapIn _ _ => false
  | .barrierGenerationComplete _ _ => false
  | .roundMarkerIssue => false
  | .regionRoundEdge _ _ => false
  | .laneRunStart _ => false
  | .laneRunComplete _ => false
  | .matrixEntryExecute _ => false
  | .matrixEntryComplete _ => false
  | .tileDispatch _ => false
  | .tileSteal _ => false
  | .tileTask _ => false
  | .tileTaskAged _ => false
  | .atomicApply _ => false
  | .afaddApply _ => false
  | .afinitApply _ => false
  | .scTokenVisit => false
  | .phaseBoundaryComplete _ => false
  | .phaseovf _ _ => false
  | .washMemberRead _ _ => false
  | .copybookAppend _ => false
  | .scribeApply _ _ => false
  | .squashAbsorb _ _ => false
  | .pageRequest _ => false
  | .enginePageRewalk _ => false
  | .seqWatcherWake _ => false
  | .seqOverflowScan _ => false
  | .roundWrite => false
  | .ownrngWrite _ _ => false
  | .wellshareWrite _ _ _ => false
  | .smpctxAssign _ _ _ => false
  | .smpctxUnassign _ _ => false
  | .jobkill _ => false
  | .prqWrite _ _ => false
  | .nibpartWrite _ _ _ => false
  | .keyslotLoad _ => false
  | .keyslotErase _ => false
  | .swqWrite _ _ _ => false
  | .roletabWrite _ _ _ => false
  | .replayWrite _ _ => false
  | .bandwidthRefill _ => false
  | .gatewayRefill => false
  | .slewStep _ => false
  | .routerPowerGate _ _ => false
  | .routerWake _ _ => false
  | .correctableError _ _ _ => false
  | .uncorrectableError _ _ _ _ => false
  | .configStoreError _ _ => false
  | .configImageReloaded _ _ => false
  | .dieLinkFlit _ _ _ => false
  | .wydalFlit _ _ _ => false
  | .peerWordArrival _ _ _ => false
  | .linkLaneRetrain _ => false
  | .laneSpareRemap _ _ => false
  | .wellRowRemap _ _ _ => false
  | .hostMemWrite _ _ _ => false
  | .hostMemRead _ _ _ => false
  | .hostSnoop _ _ => false
  | .doorbellAddress _ _ => false
  | .doorbellAppend _ _ => false
  | .doorbellResultRead _ => false
  | .doorbellStatusRead _ => false
  | .attestNonce _ => false
  | .moduleReset _ _ => false
  | .clockChange _ => false
  | .memoryReply _ => false
  | .peerMemoryAccess _ _ _ _ _ _ => false
  | .ucieLinkTraining _ => false
  | .copyRebuilt _ _ => false

end Sys2Proof.Machine
end

