-- ==== Sys2Proof/WellFormed.lean ====
section
/-!
DEFINITION. WellFormed.lean: an instruction is well formed when its fields pass the checks of Table 2-11 that look at
one word alone (Machine/Forms.lean).
-/
namespace Sys2Proof

/-- The instruction has an encoding and its fields pass the checks of R54 on one word. -/
def WellFormed (i : Instr) : Bool := Machine.isWord i && (Machine.formError i).isNone

end Sys2Proof
end

