-- ==== Sys2Proof/Decode.lean ====
section
/-!
DEFINITION. Decode.lean: from a 32-bit word to an instruction or a named refusal, and back.

The rows are those of Tables 2-6 to 2-10 with the fields of each instruction's entry. A word that matches no row is refused
as R54 names it: RSVOP, RSVFIELD or RSVMOD; a word that matches a row is refused when its fields are not well formed.
-/
namespace Sys2Proof

/-- Why a word is no instruction: the checks of Table 2-11 on one word (R54). -/
inductive DecodeError where
  /-- an unassigned major or extended opcode -/
  | rsvOp
  /-- reserved bits of FW or FM set, or the target of an instruction without a result -/
  | rsvField
  /-- a modifier, variant, space, size, qualifier or predicate mode that the instruction does not define -/
  | rsvMod
  /-- a route code that breaks R38 by itself -/
  | target
  deriving DecidableEq, Repr

/-- `len` bits of `w` from bit `lo` up. -/
def fld (w lo len : Nat) : BitVec len := BitVec.ofNat len (w / 2 ^ lo)

/-- Rows of extended group 0x78 (R53), by the extended opcode in bits 15:7. -/
def decodeGroup78 (w : Nat) : Option Instr :=
  match w / 128 % 512 with
  | 0x001 => if w % 32 = 0 then some (.hset (fld w 16 9) (fld w 5 2)) else none
  | 0x002 => if w / 2 % 16 = 0 then some (.hmask (fld w 16 9) (fld w 5 2) (fld w 0 1)) else none
  | 0x003 => if w / 2 % 16 = 0 then some (.hclr (fld w 16 9) (fld w 5 2) (fld w 0 1)) else none
  | 0x004 => if w % 32 = 0 then some (.chsend (fld w 16 9) (fld w 5 2)) else none
  | 0x005 => if w % 32 = 0 then some (.chmcast (fld w 16 9) (fld w 5 2)) else none
  | 0x006 => if w % 8 = 0 then some (.inrd (fld w 16 9) (fld w 5 2) (fld w 4 1) (fld w 3 1)) else none
  | 0x007 => if w / 16 % 2 = 0 then some (.bara (fld w 16 9) (fld w 5 2) (fld w 0 4)) else none
  | 0x008 => if w / 16 % 2 = 0 then some (.barw (fld w 16 9) (fld w 5 2) (fld w 0 4)) else none
  | 0x009 => if w % 32 = 0 then some (.chapp (fld w 16 9) (fld w 5 2)) else none
  | 0x00A => some (.seqwait (fld w 16 9) (fld w 5 2) (fld w 0 5))
  | 0x00B => if w % 32 = 0 then some (.seqrd (fld w 16 9) (fld w 5 2)) else none
  | 0x00C => if w / 8 % 4 = 0 ∧ w / 65536 % 512 = 0 then some (.park (fld w 5 2) (fld w 0 3)) else none
  | _ => none

/-- Rows of extended group 0x79 (R53), by the extended opcode in bits 15:7. -/
def decodeGroup79 (w : Nat) : Option Instr :=
  match w / 128 % 512 with
  | 0x001 => if w % 32 = 0 then some (.wgrpDef (fld w 16 9) (fld w 5 2)) else if w % 32 = 1 then some (.wgrpPresent (fld w 16 9) (fld w 5 2)) else if w % 32 = 2 then some (.wgrpRel (fld w 16 9) (fld w 5 2)) else none
  | 0x002 => some (.wld (fld w 16 9) (fld w 5 2) (fld w 4 1) (fld w 2 2) (fld w 0 2))
  | 0x003 => if w / 16 % 2 = 0 then some (.wlds (fld w 16 9) (fld w 5 2) (fld w 2 2) (fld w 0 2)) else none
  | 0x004 => if w / 2 % 16 = 0 then some (.wstat (fld w 16 9) (fld w 5 2) (fld w 0 1)) else none
  | 0x040 => if w % 32 = 0 then some (.cpdef (fld w 16 9) (fld w 5 2)) else if w % 32 = 1 then some (.cpdefRel (fld w 16 9) (fld w 5 2)) else none
  | 0x041 => some (.cpcall (fld w 16 9) (fld w 5 2) (fld w 4 1) (fld w 0 4))
  | 0x042 => if w % 32 = 0 then some (.cpread (fld w 16 9) (fld w 5 2)) else none
  | 0x043 => some (.cpwait (fld w 16 9) (fld w 5 2) (fld w 0 5))
  | 0x044 => if w % 32 = 0 then some (.cptrim (fld w 16 9) (fld w 5 2)) else none
  | 0x045 => if w / 8 % 4 = 0 then some (.cpstat (fld w 16 9) (fld w 5 2) (fld w 0 3)) else none
  | 0x046 => if w / 8 % 4 = 0 then some (.cparg (fld w 16 9) (fld w 5 2) (fld w 0 3)) else none
  | 0x047 => if w % 32 = 0 then some (.cpret (fld w 16 9) (fld w 5 2)) else none
  | _ => none

/-- Rows of extended group 0x7A (R53), by the extended opcode in bits 15:7. -/
def decodeGroup7A (w : Nat) : Option Instr :=
  match w / 128 % 512 with
  | 0x001 => if w % 32 = 0 then some (.guess (fld w 16 9) (fld w 5 2)) else none
  | 0x002 => if w % 32 = 0 then some (.launch (fld w 16 9) (fld w 5 2)) else none
  | 0x003 => if w % 32 = 0 then some (.tagrd (fld w 16 9) (fld w 5 2)) else none
  | 0x004 => some (.sqchk (fld w 16 9) (fld w 5 2) (fld w 3 2) (fld w 0 3))
  | 0x005 => if w % 32 = 0 then some (.sqregChan (fld w 16 9) (fld w 5 2)) else if w % 32 = 1 then some (.sqregRows (fld w 16 9) (fld w 5 2)) else if w % 32 = 2 then some (.sqregRel (fld w 16 9) (fld w 5 2)) else none
  | 0x006 => if w % 32 = 0 then some (.kvwr (fld w 16 9) (fld w 5 2)) else none
  | 0x040 => if w / 4 % 8 = 0 then some (.topk (fld w 16 9) (fld w 5 2) (fld w 0 2)) else none
  | 0x041 => if w % 32 = 0 then some (.candld (fld w 16 9) (fld w 5 2)) else none
  | 0x042 => if w % 32 = 0 then some (.candst (fld w 16 9) (fld w 5 2)) else none
  | 0x043 => if w / 4 % 8 = 0 then some (.rngseed (fld w 16 9) (fld w 5 2) (fld w 0 2)) else none
  | 0x044 => if w / 4 % 8 = 0 then some (.rngnext (fld w 16 9) (fld w 5 2) (fld w 0 2)) else none
  | 0x045 => if w / 2 % 8 = 0 then some (.draw (fld w 16 9) (fld w 5 2) (fld w 4 1) (fld w 0 1)) else none
  | 0x046 => if w / 8 % 2 = 0 then some (.pen (fld w 16 9) (fld w 5 2) (fld w 4 1) (fld w 2 1) (fld w 1 1) (fld w 0 1)) else none
  | 0x047 => if w % 32 = 0 then some (.jrnl (fld w 16 9) (fld w 5 2)) else none
  | 0x048 => if w % 32 = 0 then some (.jcommit (fld w 16 9) (fld w 5 2)) else none
  | 0x049 => if w % 32 = 0 then some (.jdrop (fld w 16 9) (fld w 5 2)) else none
  | 0x04A => if w / 4 % 8 = 0 then some (.gmask (fld w 16 9) (fld w 5 2) (fld w 0 2)) else none
  | 0x04B => if w % 32 = 0 then some (.gsnap (fld w 16 9) (fld w 5 2)) else none
  | 0x04C => if w % 32 = 0 then some (.grest (fld w 16 9) (fld w 5 2)) else none
  | 0x04D => if w / 4 % 8 = 0 then some (.tmask (fld w 16 9) (fld w 5 2) (fld w 0 2)) else none
  | 0x04E => if w % 32 = 0 then some (.tmload (fld w 16 9) (fld w 5 2)) else none
  | 0x04F => if w / 16 % 2 = 0 then some (.tdepth (fld w 16 9) (fld w 5 2) (fld w 3 1) (fld w 0 3)) else none
  | _ => none

/-- Rows of extended group 0x7B (R53), by the extended opcode in bits 15:7. -/
def decodeGroup7B (w : Nat) : Option Instr :=
  match w / 128 % 512 with
  | 0x001 => if w % 32 = 0 then some (.trap (fld w 16 9) (fld w 5 2)) else none
  | 0x002 => if w % 32 = 0 then some (.rft (fld w 16 9) (fld w 5 2)) else none
  | 0x003 => if w % 32 = 0 then some (.csrr (fld w 16 9) (fld w 5 2)) else none
  | 0x004 => if w % 32 = 0 then some (.csrw (fld w 16 9) (fld w 5 2)) else none
  | 0x005 => if w % 32 = 0 then some (.freeze (fld w 16 9) (fld w 5 2)) else none
  | 0x006 => if w % 32 = 0 then some (.thaw (fld w 16 9) (fld w 5 2)) else none
  | 0x007 => if w / 4 % 8 = 0 then some (.ctxout (fld w 16 9) (fld w 5 2) (fld w 1 1) (fld w 0 1)) else if w / 4 % 8 = 1 then some (.ctxoutDrop (fld w 16 9) (fld w 5 2) (fld w 1 1) (fld w 0 1)) else none
  | 0x008 => if w % 32 = 0 then some (.ctxin (fld w 16 9) (fld w 5 2)) else none
  | 0x009 => if w / 2 % 16 = 0 then some (.tlbinv (fld w 16 9) (fld w 5 2) (fld w 0 1)) else none
  | 0x00A => if w / 2 % 16 = 0 then some (.tlbprobe (fld w 16 9) (fld w 5 2) (fld w 0 1)) else none
  | 0x00B => if w / 2 % 16 = 0 then some (.cfginv (fld w 16 9) (fld w 5 2) (fld w 0 1)) else none
  | 0x00C => if w % 32 = 0 ∧ w / 65536 % 512 = 0 then some (.halt (fld w 5 2)) else none
  | _ => none

/-- The row of Tables 2-6 to 2-10 that a word matches. -/
def decodeRow (w : Nat) : Option Instr :=
  match w / 33554432 with
  | 0x01 => some (.get (fld w 16 9) (fld w 7 9) (fld w 0 7))
  | 0x02 => if w / 512 % 65536 = 0 then some (.put (fld w 7 2) (fld w 0 7)) else none
  | 0x03 => some (.movi (fld w 16 9) (fld w 14 2) (fld w 0 14))
  | 0x04 => if w % 32 = 0 then some (.mov (fld w 16 9) (fld w 7 9) (fld w 5 2)) else none
  | 0x05 => if w % 16384 = 0 then some (.null (fld w 16 9) (fld w 14 2)) else none
  | 0x06 => if w / 64 % 256 = 0 then some (.recv (fld w 16 9) (fld w 14 2) (fld w 0 6)) else none
  | 0x07 => if w % 128 = 0 then some (.sel (fld w 16 9) (fld w 7 9)) else none
  | 0x08 => if w % 32 = 0 then some (.gate (fld w 16 9) (fld w 7 9) (fld w 5 2)) else none
  | 0x09 => some (.bra (fld w 22 3) (fld w 20 2) (fld w 0 20))
  | 0x0A => some (.bri (fld w 22 3) (fld w 20 2) (fld w 0 20))
  | 0x0B => some (.call (fld w 22 3) (fld w 20 2) (fld w 0 20))
  | 0x0C => some (.ret (fld w 22 3) (fld w 20 2) (fld w 0 20))
  | 0x0D => some (.exit (fld w 22 3) (fld w 20 2) (fld w 0 20))
  | 0x0E => if w / 4 % 32 = 0 then some (.ctr (fld w 16 9) (fld w 7 9) (fld w 1 1) (fld w 0 1)) else none
  | 0x0F => some (.movx (fld w 16 9) (fld w 14 2) (fld w 0 14))
  | 0x10 => if w % 4 = 0 then some (.add (fld w 16 9) (fld w 7 9) (fld w 5 2) (fld w 3 2) (fld w 2 1)) else none
  | 0x11 => if w % 4 = 0 then some (.sub (fld w 16 9) (fld w 7 9) (fld w 5 2) (fld w 3 2) (fld w 2 1)) else none
  | 0x12 => some (.addi (fld w 16 9) (fld w 14 2) (fld w 0 14))
  | 0x13 => if w % 4 = 0 then some (.mul (fld w 16 9) (fld w 7 9) (fld w 5 2) (fld w 3 2) (fld w 2 1)) else none
  | 0x14 => if w % 4 = 0 then some (.mulh (fld w 16 9) (fld w 7 9) (fld w 5 2) (fld w 3 2) (fld w 2 1)) else none
  | 0x15 => if w / 2 % 2 = 0 then some (.div (fld w 16 9) (fld w 7 9) (fld w 5 2) (fld w 3 2) (fld w 2 1) (fld w 0 1)) else none
  | 0x16 => if w / 2 % 2 = 0 then some (.rem (fld w 16 9) (fld w 7 9) (fld w 5 2) (fld w 3 2) (fld w 2 1) (fld w 0 1)) else none
  | 0x17 => if w % 4 = 0 then some (.neg (fld w 16 9) (fld w 7 9) (fld w 5 2) (fld w 3 2) (fld w 2 1)) else none
  | 0x18 => if w % 4 = 0 then some (.and (fld w 16 9) (fld w 7 9) (fld w 5 2) (fld w 3 2) (fld w 2 1)) else none
  | 0x19 => if w % 4 = 0 then some (.or (fld w 16 9) (fld w 7 9) (fld w 5 2) (fld w 3 2) (fld w 2 1)) else none
  | 0x1A => if w % 4 = 0 then some (.xor (fld w 16 9) (fld w 7 9) (fld w 5 2) (fld w 3 2) (fld w 2 1)) else none
  | 0x1B => if w % 4 = 0 then some (.andn (fld w 16 9) (fld w 7 9) (fld w 5 2) (fld w 3 2) (fld w 2 1)) else none
  | 0x1C => some (.andi (fld w 16 9) (fld w 14 2) (fld w 0 14))
  | 0x1D => some (.ori (fld w 16 9) (fld w 14 2) (fld w 0 14))
  | 0x1E => some (.xori (fld w 16 9) (fld w 14 2) (fld w 0 14))
  | 0x1F => if w % 4 = 0 then some (.not (fld w 16 9) (fld w 7 9) (fld w 5 2) (fld w 3 2) (fld w 2 1)) else none
  | 0x20 => if w % 4 = 0 then some (.shl (fld w 16 9) (fld w 7 9) (fld w 5 2) (fld w 3 2) (fld w 2 1)) else none
  | 0x21 => if w % 4 = 0 then some (.shr (fld w 16 9) (fld w 7 9) (fld w 5 2) (fld w 3 2) (fld w 2 1)) else none
  | 0x22 => if w % 4 = 0 then some (.asr (fld w 16 9) (fld w 7 9) (fld w 5 2) (fld w 3 2) (fld w 2 1)) else none
  | 0x23 => if w / 512 % 32 = 0 then some (.shli (fld w 16 9) (fld w 14 2) (fld w 8 1) (fld w 6 2) (fld w 0 6)) else none
  | 0x24 => if w / 512 % 32 = 0 then some (.shri (fld w 16 9) (fld w 14 2) (fld w 8 1) (fld w 6 2) (fld w 0 6)) else none
  | 0x25 => if w / 512 % 32 = 0 then some (.asri (fld w 16 9) (fld w 14 2) (fld w 8 1) (fld w 6 2) (fld w 0 6)) else none
  | 0x26 => if w % 4 = 0 then some (.clz (fld w 16 9) (fld w 7 9) (fld w 5 2) (fld w 3 2) (fld w 2 1)) else none
  | 0x27 => if w % 4 = 0 then some (.popc (fld w 16 9) (fld w 7 9) (fld w 5 2) (fld w 3 2) (fld w 2 1)) else none
  | 0x28 => some (.cmp (fld w 16 9) (fld w 7 9) (fld w 5 2) (fld w 3 2) (fld w 2 1) (fld w 0 2))
  | 0x29 => if w % 4 = 0 then some (.min (fld w 16 9) (fld w 7 9) (fld w 5 2) (fld w 3 2) (fld w 2 1)) else none
  | 0x2A => if w % 4 = 0 then some (.max (fld w 16 9) (fld w 7 9) (fld w 5 2) (fld w 3 2) (fld w 2 1)) else none
  | 0x2B => if w % 4 = 0 ∧ w / 8 % 4 = 0 then some (.bfx (fld w 16 9) (fld w 7 9) (fld w 5 2) (fld w 2 1)) else none
  | 0x2C => if w % 128 = 0 then some (.bfi (fld w 16 9) (fld w 7 9)) else none
  | 0x2D => if w / 8 % 2 = 0 then some (.lea (fld w 16 9) (fld w 7 9) (fld w 5 2) (fld w 4 1) (fld w 0 3)) else none
  | 0x2E => if w / 2 % 2 = 0 then some (.adds (fld w 16 9) (fld w 7 9) (fld w 5 2) (fld w 3 2) (fld w 2 1) (fld w 0 1)) else none
  | 0x2F => if w / 2 % 2 = 0 then some (.subs (fld w 16 9) (fld w 7 9) (fld w 5 2) (fld w 3 2) (fld w 2 1) (fld w 0 1)) else none
  | 0x30 => some (.fadd (fld w 16 9) (fld w 7 9) (fld w 5 2) (fld w 4 1) (fld w 3 1) (fld w 2 1) (fld w 0 2))
  | 0x31 => some (.fsub (fld w 16 9) (fld w 7 9) (fld w 5 2) (fld w 4 1) (fld w 3 1) (fld w 2 1) (fld w 0 2))
  | 0x32 => some (.fmul (fld w 16 9) (fld w 7 9) (fld w 5 2) (fld w 4 1) (fld w 3 1) (fld w 2 1) (fld w 0 2))
  | 0x33 => if w / 32 % 4 = 0 then some (.ffma (fld w 16 9) (fld w 7 9) (fld w 4 1) (fld w 3 1) (fld w 2 1) (fld w 0 2)) else none
  | 0x34 => if w % 2 = 0 then some (.fmin (fld w 16 9) (fld w 7 9) (fld w 5 2) (fld w 4 1) (fld w 3 1) (fld w 2 1) (fld w 1 1)) else if w % 2 = 1 then some (.fmax (fld w 16 9) (fld w 7 9) (fld w 5 2) (fld w 4 1) (fld w 3 1) (fld w 2 1) (fld w 1 1)) else none
  | 0x35 => if w % 32 = 0 then some (.fneg (fld w 16 9) (fld w 7 9) (fld w 5 2)) else if w % 32 = 1 then some (.fabs (fld w 16 9) (fld w 7 9) (fld w 5 2)) else none
  | 0x36 => if w / 4 % 2 = 0 then some (.fcmp (fld w 16 9) (fld w 7 9) (fld w 5 2) (fld w 4 1) (fld w 3 1) (fld w 0 2)) else none
  | 0x37 => if w / 4 % 8 = 0 then some (.fclass (fld w 16 9) (fld w 7 9) (fld w 5 2) (fld w 0 2)) else none
  | 0x38 => if w / 128 % 32 = 0 then some (.padd (fld w 16 9) (fld w 12 4) (fld w 5 2) (fld w 4 1) (fld w 3 1) (fld w 2 1) (fld w 0 2)) else none
  | 0x39 => if w / 128 % 32 = 0 then some (.pmul (fld w 16 9) (fld w 12 4) (fld w 5 2) (fld w 4 1) (fld w 3 1) (fld w 2 1) (fld w 0 2)) else none
  | 0x3A => if w / 32 % 128 = 0 then some (.pfma (fld w 16 9) (fld w 12 4) (fld w 4 1) (fld w 3 1) (fld w 2 1) (fld w 0 2)) else none
  | 0x3B => if w / 32 % 128 = 0 then some (.pdot (fld w 16 9) (fld w 12 4) (fld w 4 1) (fld w 3 1) (fld w 2 1) (fld w 0 2)) else none
  | 0x3C => some (.rcp (fld w 16 9) (fld w 7 9) (fld w 5 2) (fld w 4 1) (fld w 3 1) (fld w 2 1) (fld w 0 2))
  | 0x3D => some (.rsq (fld w 16 9) (fld w 7 9) (fld w 5 2) (fld w 4 1) (fld w 3 1) (fld w 2 1) (fld w 0 2))
  | 0x3E => some (.exp2 (fld w 16 9) (fld w 7 9) (fld w 5 2) (fld w 4 1) (fld w 3 1) (fld w 2 1) (fld w 0 2))
  | 0x3F => some (.log2 (fld w 16 9) (fld w 7 9) (fld w 5 2) (fld w 4 1) (fld w 3 1) (fld w 2 1) (fld w 0 2))
  | 0x40 => some (.tanh (fld w 16 9) (fld w 7 9) (fld w 5 2) (fld w 4 1) (fld w 3 1) (fld w 2 1) (fld w 0 2))
  | 0x41 => if w / 128 % 2 = 0 then some (.cvt (fld w 16 9) (fld w 12 4) (fld w 8 4) (fld w 5 2) (fld w 4 1) (fld w 3 1) (fld w 2 1) (fld w 0 2)) else none
  | 0x42 => if w % 4 = 0 ∧ w / 128 % 2 = 0 ∧ w / 4096 % 16 = 0 then some (.srnd (fld w 16 9) (fld w 8 4) (fld w 5 2) (fld w 4 1) (fld w 3 1) (fld w 2 1)) else none
  | 0x43 => some (.rdflg (fld w 16 9) (fld w 14 2) (fld w 0 14))
  | 0x44 => some (.clrflg (fld w 16 9) (fld w 14 2) (fld w 0 14))
  | 0x45 => some (.rngn (fld w 16 9) (fld w 14 2) (fld w 7 7) (fld w 0 7))
  | 0x48 => if w % 4 = 0 then some (.ld (fld w 16 9) (fld w 14 2) (fld w 9 5) (fld w 7 2) (fld w 5 2) (fld w 2 3)) else none
  | 0x49 => if w % 4 = 0 then some (.st (fld w 16 9) (fld w 14 2) (fld w 9 5) (fld w 7 2) (fld w 5 2) (fld w 2 3)) else none
  | 0x4A => if w % 4 = 0 then some (.ldv (fld w 16 9) (fld w 14 2) (fld w 9 5) (fld w 7 2) (fld w 5 2) (fld w 2 3)) else none
  | 0x4B => if w % 4 = 0 then some (.stv (fld w 16 9) (fld w 14 2) (fld w 9 5) (fld w 7 2) (fld w 5 2) (fld w 2 3)) else none
  | 0x4C => if w % 4 = 0 then some (.feset (fld w 16 9) (fld w 14 2) (fld w 9 5) (fld w 7 2) (fld w 5 2) (fld w 2 3)) else none
  | 0x4D => if w / 32 % 512 = 0 then some (.cbinit (fld w 16 9) (fld w 14 2) (fld w 4 1) (fld w 0 4)) else none
  | 0x4E => some (.cbwait (fld w 16 9) (fld w 14 2) (fld w 5 9) (fld w 4 1) (fld w 0 4))
  | 0x4F => some (.cbrsv (fld w 16 9) (fld w 14 2) (fld w 5 9) (fld w 4 1) (fld w 0 4))
  | 0x50 => some (.cbadv (fld w 16 9) (fld w 14 2) (fld w 5 9) (fld w 4 1) (fld w 0 4))
  | 0x51 => if w / 8192 % 2 = 0 then some (.sbind (fld w 16 9) (fld w 14 2) (fld w 12 1) (fld w 11 1) (fld w 9 2) (fld w 7 2) (fld w 6 1) (fld w 0 6)) else none
  | 0x52 => if w / 4 % 4096 = 0 then some (.bset (fld w 16 9) (fld w 14 2) (fld w 0 2)) else none
  | 0x53 => if w / 4 % 8 = 0 then some (.bperm (fld w 16 9) (fld w 7 9) (fld w 5 2) (fld w 0 2)) else none
  | 0x58 => if w % 32 = 0 then some (.aadd (fld w 16 9) (fld w 14 2) (fld w 9 5) (fld w 7 2) (fld w 5 2)) else if w % 32 = 4 then some (.amin (fld w 16 9) (fld w 14 2) (fld w 9 5) (fld w 7 2) (fld w 5 2)) else if w % 32 = 8 then some (.amax (fld w 16 9) (fld w 14 2) (fld w 9 5) (fld w 7 2) (fld w 5 2)) else if w % 32 = 12 then some (.aand (fld w 16 9) (fld w 14 2) (fld w 9 5) (fld w 7 2) (fld w 5 2)) else if w % 32 = 16 then some (.aor (fld w 16 9) (fld w 14 2) (fld w 9 5) (fld w 7 2) (fld w 5 2)) else if w % 32 = 20 then some (.axor (fld w 16 9) (fld w 14 2) (fld w 9 5) (fld w 7 2) (fld w 5 2)) else if w % 32 = 24 then some (.aswp (fld w 16 9) (fld w 14 2) (fld w 9 5) (fld w 7 2) (fld w 5 2)) else none
  | 0x59 => if w % 32 = 0 ∧ w / 16384 % 4 = 0 then some (.acas (fld w 16 9) (fld w 9 5) (fld w 7 2) (fld w 5 2)) else none
  | 0x5A => if w % 32 = 0 then some (.aaddv (fld w 16 9) (fld w 14 2) (fld w 9 5) (fld w 7 2) (fld w 5 2)) else if w % 32 = 4 then some (.aminv (fld w 16 9) (fld w 14 2) (fld w 9 5) (fld w 7 2) (fld w 5 2)) else if w % 32 = 8 then some (.amaxv (fld w 16 9) (fld w 14 2) (fld w 9 5) (fld w 7 2) (fld w 5 2)) else if w % 32 = 12 then some (.aandv (fld w 16 9) (fld w 14 2) (fld w 9 5) (fld w 7 2) (fld w 5 2)) else if w % 32 = 16 then some (.aorv (fld w 16 9) (fld w 14 2) (fld w 9 5) (fld w 7 2) (fld w 5 2)) else if w % 32 = 20 then some (.axorv (fld w 16 9) (fld w 14 2) (fld w 9 5) (fld w 7 2) (fld w 5 2)) else if w % 32 = 24 then some (.aswpv (fld w 16 9) (fld w 14 2) (fld w 9 5) (fld w 7 2) (fld w 5 2)) else none
  | 0x5B => if w % 128 = 64 then some (.afadd (fld w 16 9) (fld w 14 2) (fld w 9 5) (fld w 7 2)) else none
  | 0x5C => if w / 4 % 8 = 0 then some (.afinit (fld w 16 9) (fld w 7 9) (fld w 5 2) (fld w 1 1) (fld w 0 1)) else none
  | 0x5D => if w / 8 % 2048 = 0 then some (.phase (fld w 16 9) (fld w 14 2) (fld w 0 3)) else none
  | 0x5E => if w / 4 % 4096 = 0 then some (.fence (fld w 16 9) (fld w 14 2) (fld w 1 1) (fld w 0 1)) else none
  | 0x5F => if w / 2 % 16 = 0 then some (.publish (fld w 16 9) (fld w 7 9) (fld w 5 2) (fld w 0 1)) else none
  | 0x60 => if w % 32 = 0 ∧ w / 512 % 128 = 0 then some (.mda (fld w 16 9) (fld w 7 2) (fld w 5 2)) else if w % 32 = 0 ∧ w / 512 % 128 = 1 then some (.mdb (fld w 16 9) (fld w 7 2) (fld w 5 2)) else none
  | 0x61 => if w % 16 = 0 ∧ w / 2048 % 32 = 0 then some (.mma (fld w 16 9) (fld w 9 2) (fld w 7 2) (fld w 5 2) (fld w 4 1)) else none
  | 0x62 => if w % 32 = 0 ∧ w / 128 % 512 = 0 then some (.accrd (fld w 16 9) (fld w 5 2)) else if w % 32 = 0 ∧ w / 128 % 512 = 1 then some (.accwr (fld w 16 9) (fld w 5 2)) else none
  | 0x63 => if w % 32 = 0 ∧ w / 128 % 512 = 0 then some (.accz (fld w 16 9) (fld w 5 2)) else none
  | 0x64 => if w % 32 = 0 ∧ w / 1024 % 64 = 0 then some (.kld (fld w 16 9) (fld w 7 3) (fld w 5 2)) else none
  | 0x65 => if w % 32 = 0 ∧ w / 128 % 512 = 0 then some (.drain (fld w 16 9) (fld w 5 2)) else none
  | 0x66 => if w % 32 = 0 ∧ w / 2048 % 32 = 0 then some (.rtset (fld w 16 9) (fld w 7 4) (fld w 5 2)) else none
  | 0x67 => if w / 8 % 4 = 0 ∧ w / 128 % 512 = 0 then some (.mstat (fld w 16 9) (fld w 5 2) (fld w 2 1) (fld w 0 2)) else none
  | 0x68 => if w % 32 = 0 ∧ w / 1024 % 64 = 0 then some (.lcfg (fld w 16 9) (fld w 7 3) (fld w 5 2)) else none
  | 0x69 => if w / 1024 % 64 = 0 then some (.lrun (fld w 16 9) (fld w 7 3) (fld w 5 2) (fld w 4 1) (fld w 3 1) (fld w 2 1) (fld w 0 2)) else none
  | 0x6A => if w % 16 = 0 ∧ w / 128 % 512 = 0 then some (.lwait (fld w 16 9) (fld w 5 2) (fld w 4 1)) else none
  | 0x6B => if w / 8 % 4 = 0 ∧ w / 128 % 512 = 0 then some (.lstat (fld w 16 9) (fld w 5 2) (fld w 2 1) (fld w 0 2)) else none
  | 0x70 => if w % 128 = 0 then some (.steer (fld w 16 9) (fld w 7 9)) else none
  | 0x71 => if w % 128 = 0 then some (.merge (fld w 16 9) (fld w 7 9)) else none
  | 0x72 => if w % 128 = 0 then some (.carry (fld w 16 9) (fld w 7 9)) else none
  | 0x73 => if w % 128 = 0 then some (.invar (fld w 16 9) (fld w 7 9)) else none
  | 0x74 => if w / 2 % 64 = 0 then some (.rrmerge (fld w 16 9) (fld w 7 9) (fld w 0 1)) else none
  | 0x78 => decodeGroup78 w
  | 0x79 => decodeGroup79 w
  | 0x7A => decodeGroup7A w
  | 0x7B => decodeGroup7B w
  | _ => none

/-- Extended opcodes that Tables 2-7 to 2-10 list. -/
def extAssigned (major ext : Nat) : Bool :=
  match major with
  | 0x78 => [0x1, 0x2, 0x3, 0x4, 0x5, 0x6, 0x7, 0x8, 0x9, 0xa, 0xb, 0xc].contains ext
  | 0x79 => [0x1, 0x2, 0x3, 0x4, 0x40, 0x41, 0x42, 0x43, 0x44, 0x45, 0x46, 0x47].contains ext
  | 0x7A => [0x1, 0x2, 0x3, 0x4, 0x5, 0x6, 0x40, 0x41, 0x42, 0x43, 0x44, 0x45, 0x46, 0x47, 0x48, 0x49, 0x4a, 0x4b, 0x4c, 0x4d, 0x4e, 0x4f].contains ext
  | 0x7B => [0x1, 0x2, 0x3, 0x4, 0x5, 0x6, 0x7, 0x8, 0x9, 0xa, 0xb, 0xc].contains ext
  | _ => true


/-- Major opcodes that Table 2-6 assigns. -/
def majorAssigned (major : Nat) : Bool :=
  decide (0x1 ≤ major ∧ major ≤ 0x45) ||
  decide (0x48 ≤ major ∧ major ≤ 0x53) ||
  decide (0x58 ≤ major ∧ major ≤ 0x6B) ||
  decide (0x70 ≤ major ∧ major ≤ 0x74) ||
  decide (0x78 ≤ major ∧ major ≤ 0x7B)

/-- Why a word that matches no row is refused, lowest subcode first (R54, R55). -/
def rowError (w : Nat) : DecodeError :=
  let m := w / 33554432
  if !majorAssigned m || !extAssigned m (w / 128 % 512) then .rsvOp
  else if (m == 0x02 && w / 512 % 65536 != 0) ||
      (((0x48 ≤ m && m ≤ 0x4C) || (0x58 ≤ m && m ≤ 0x5B)) && w % 4 != 0) ||
      (m == 0x78 && w / 128 % 512 == 0x00C && w / 65536 % 512 != 0) ||
      (m == 0x7B && w / 128 % 512 == 0x00C && w / 65536 % 512 != 0) then .rsvField
  else .rsvMod

/-- Decode one instruction word (R40, R52–R54). -/
def decodeWord (w : BitVec 32) : Except DecodeError Instr :=
  match decodeRow w.toNat with
  | none => .error (rowError w.toNat)
  | some i =>
    match Machine.formError i with
    | some 3 => .error .rsvMod
    | some _ => .error .target
    | none => .ok i

/-- The word of an instruction as Tables 2-3 to 2-10 and its entry lay it out; none for an event. -/
def encode : Instr → Option (BitVec 32)
  | .get t v r => some (BitVec.ofNat 32 (0x02000000 + t.toNat * 65536 + v.toNat * 128 + r.toNat))
  | .put p r => some (BitVec.ofNat 32 (0x04000000 + p.toNat * 128 + r.toNat))
  | .movi t p i => some (BitVec.ofNat 32 (0x06000000 + t.toNat * 65536 + p.toNat * 16384 + i.toNat))
  | .mov t v p => some (BitVec.ofNat 32 (0x08000000 + t.toNat * 65536 + v.toNat * 128 + p.toNat * 32))
  | .null t p => some (BitVec.ofNat 32 (0x0A000000 + t.toNat * 65536 + p.toNat * 16384))
  | .recv t p n => some (BitVec.ofNat 32 (0x0C000000 + t.toNat * 65536 + p.toNat * 16384 + n.toNat))
  | .sel t v => some (BitVec.ofNat 32 (0x0E000000 + t.toNat * 65536 + v.toNat * 128))
  | .gate t v p => some (BitVec.ofNat 32 (0x10000000 + t.toNat * 65536 + v.toNat * 128 + p.toNat * 32))
  | .bra x p f => some (BitVec.ofNat 32 (0x12000000 + x.toNat * 4194304 + p.toNat * 1048576 + f.toNat))
  | .bri x p f => some (BitVec.ofNat 32 (0x14000000 + x.toNat * 4194304 + p.toNat * 1048576 + f.toNat))
  | .call x p f => some (BitVec.ofNat 32 (0x16000000 + x.toNat * 4194304 + p.toNat * 1048576 + f.toNat))
  | .ret x p f => some (BitVec.ofNat 32 (0x18000000 + x.toNat * 4194304 + p.toNat * 1048576 + f.toNat))
  | .exit x p f => some (BitVec.ofNat 32 (0x1A000000 + x.toNat * 4194304 + p.toNat * 1048576 + f.toNat))
  | .ctr t v a s => some (BitVec.ofNat 32 (0x1C000000 + t.toNat * 65536 + v.toNat * 128 + a.toNat * 2 + s.toNat))
  | .movx t p i => some (BitVec.ofNat 32 (0x1E000000 + t.toNat * 65536 + p.toNat * 16384 + i.toNat))
  | .add t v p w u => some (BitVec.ofNat 32 (0x20000000 + t.toNat * 65536 + v.toNat * 128 + p.toNat * 32 + w.toNat * 8 + u.toNat * 4))
  | .sub t v p w u => some (BitVec.ofNat 32 (0x22000000 + t.toNat * 65536 + v.toNat * 128 + p.toNat * 32 + w.toNat * 8 + u.toNat * 4))
  | .addi t p i => some (BitVec.ofNat 32 (0x24000000 + t.toNat * 65536 + p.toNat * 16384 + i.toNat))
  | .mul t v p w u => some (BitVec.ofNat 32 (0x26000000 + t.toNat * 65536 + v.toNat * 128 + p.toNat * 32 + w.toNat * 8 + u.toNat * 4))
  | .mulh t v p w u => some (BitVec.ofNat 32 (0x28000000 + t.toNat * 65536 + v.toNat * 128 + p.toNat * 32 + w.toNat * 8 + u.toNat * 4))
  | .div t v p w u s => some (BitVec.ofNat 32 (0x2A000000 + t.toNat * 65536 + v.toNat * 128 + p.toNat * 32 + w.toNat * 8 + u.toNat * 4 + s.toNat))
  | .rem t v p w u s => some (BitVec.ofNat 32 (0x2C000000 + t.toNat * 65536 + v.toNat * 128 + p.toNat * 32 + w.toNat * 8 + u.toNat * 4 + s.toNat))
  | .neg t v p w u => some (BitVec.ofNat 32 (0x2E000000 + t.toNat * 65536 + v.toNat * 128 + p.toNat * 32 + w.toNat * 8 + u.toNat * 4))
  | .and t v p w u => some (BitVec.ofNat 32 (0x30000000 + t.toNat * 65536 + v.toNat * 128 + p.toNat * 32 + w.toNat * 8 + u.toNat * 4))
  | .or t v p w u => some (BitVec.ofNat 32 (0x32000000 + t.toNat * 65536 + v.toNat * 128 + p.toNat * 32 + w.toNat * 8 + u.toNat * 4))
  | .xor t v p w u => some (BitVec.ofNat 32 (0x34000000 + t.toNat * 65536 + v.toNat * 128 + p.toNat * 32 + w.toNat * 8 + u.toNat * 4))
  | .andn t v p w u => some (BitVec.ofNat 32 (0x36000000 + t.toNat * 65536 + v.toNat * 128 + p.toNat * 32 + w.toNat * 8 + u.toNat * 4))
  | .andi t p i => some (BitVec.ofNat 32 (0x38000000 + t.toNat * 65536 + p.toNat * 16384 + i.toNat))
  | .ori t p i => some (BitVec.ofNat 32 (0x3A000000 + t.toNat * 65536 + p.toNat * 16384 + i.toNat))
  | .xori t p i => some (BitVec.ofNat 32 (0x3C000000 + t.toNat * 65536 + p.toNat * 16384 + i.toNat))
  | .not t v p w u => some (BitVec.ofNat 32 (0x3E000000 + t.toNat * 65536 + v.toNat * 128 + p.toNat * 32 + w.toNat * 8 + u.toNat * 4))
  | .shl t v p w u => some (BitVec.ofNat 32 (0x40000000 + t.toNat * 65536 + v.toNat * 128 + p.toNat * 32 + w.toNat * 8 + u.toNat * 4))
  | .shr t v p w u => some (BitVec.ofNat 32 (0x42000000 + t.toNat * 65536 + v.toNat * 128 + p.toNat * 32 + w.toNat * 8 + u.toNat * 4))
  | .asr t v p w u => some (BitVec.ofNat 32 (0x44000000 + t.toNat * 65536 + v.toNat * 128 + p.toNat * 32 + w.toNat * 8 + u.toNat * 4))
  | .shli t p u w n => some (BitVec.ofNat 32 (0x46000000 + t.toNat * 65536 + p.toNat * 16384 + u.toNat * 256 + w.toNat * 64 + n.toNat))
  | .shri t p u w n => some (BitVec.ofNat 32 (0x48000000 + t.toNat * 65536 + p.toNat * 16384 + u.toNat * 256 + w.toNat * 64 + n.toNat))
  | .asri t p u w n => some (BitVec.ofNat 32 (0x4A000000 + t.toNat * 65536 + p.toNat * 16384 + u.toNat * 256 + w.toNat * 64 + n.toNat))
  | .clz t v p w u => some (BitVec.ofNat 32 (0x4C000000 + t.toNat * 65536 + v.toNat * 128 + p.toNat * 32 + w.toNat * 8 + u.toNat * 4))
  | .popc t v p w u => some (BitVec.ofNat 32 (0x4E000000 + t.toNat * 65536 + v.toNat * 128 + p.toNat * 32 + w.toNat * 8 + u.toNat * 4))
  | .cmp t v p w u f => some (BitVec.ofNat 32 (0x50000000 + t.toNat * 65536 + v.toNat * 128 + p.toNat * 32 + w.toNat * 8 + u.toNat * 4 + f.toNat))
  | .min t v p w u => some (BitVec.ofNat 32 (0x52000000 + t.toNat * 65536 + v.toNat * 128 + p.toNat * 32 + w.toNat * 8 + u.toNat * 4))
  | .max t v p w u => some (BitVec.ofNat 32 (0x54000000 + t.toNat * 65536 + v.toNat * 128 + p.toNat * 32 + w.toNat * 8 + u.toNat * 4))
  | .bfx t v p u => some (BitVec.ofNat 32 (0x56000000 + t.toNat * 65536 + v.toNat * 128 + p.toNat * 32 + u.toNat * 4))
  | .bfi t v => some (BitVec.ofNat 32 (0x58000000 + t.toNat * 65536 + v.toNat * 128))
  | .lea t v p x k => some (BitVec.ofNat 32 (0x5A000000 + t.toNat * 65536 + v.toNat * 128 + p.toNat * 32 + x.toNat * 16 + k.toNat))
  | .adds t v p w u s => some (BitVec.ofNat 32 (0x5C000000 + t.toNat * 65536 + v.toNat * 128 + p.toNat * 32 + w.toNat * 8 + u.toNat * 4 + s.toNat))
  | .subs t v p w u s => some (BitVec.ofNat 32 (0x5E000000 + t.toNat * 65536 + v.toNat * 128 + p.toNat * 32 + w.toNat * 8 + u.toNat * 4 + s.toNat))
  | .fadd t v p s i o r => some (BitVec.ofNat 32 (0x60000000 + t.toNat * 65536 + v.toNat * 128 + p.toNat * 32 + s.toNat * 16 + i.toNat * 8 + o.toNat * 4 + r.toNat))
  | .fsub t v p s i o r => some (BitVec.ofNat 32 (0x62000000 + t.toNat * 65536 + v.toNat * 128 + p.toNat * 32 + s.toNat * 16 + i.toNat * 8 + o.toNat * 4 + r.toNat))
  | .fmul t v p s i o r => some (BitVec.ofNat 32 (0x64000000 + t.toNat * 65536 + v.toNat * 128 + p.toNat * 32 + s.toNat * 16 + i.toNat * 8 + o.toNat * 4 + r.toNat))
  | .ffma t v s i o r => some (BitVec.ofNat 32 (0x66000000 + t.toNat * 65536 + v.toNat * 128 + s.toNat * 16 + i.toNat * 8 + o.toNat * 4 + r.toNat))
  | .fmin t v p s i o q => some (BitVec.ofNat 32 (0x68000000 + t.toNat * 65536 + v.toNat * 128 + p.toNat * 32 + s.toNat * 16 + i.toNat * 8 + o.toNat * 4 + q.toNat * 2))
  | .fmax t v p s i o q => some (BitVec.ofNat 32 (0x68000001 + t.toNat * 65536 + v.toNat * 128 + p.toNat * 32 + s.toNat * 16 + i.toNat * 8 + o.toNat * 4 + q.toNat * 2))
  | .fneg t v p => some (BitVec.ofNat 32 (0x6A000000 + t.toNat * 65536 + v.toNat * 128 + p.toNat * 32))
  | .fabs t v p => some (BitVec.ofNat 32 (0x6A000001 + t.toNat * 65536 + v.toNat * 128 + p.toNat * 32))
  | .fcmp t v p s i c => some (BitVec.ofNat 32 (0x6C000000 + t.toNat * 65536 + v.toNat * 128 + p.toNat * 32 + s.toNat * 16 + i.toNat * 8 + c.toNat))
  | .fclass t v p c => some (BitVec.ofNat 32 (0x6E000000 + t.toNat * 65536 + v.toNat * 128 + p.toNat * 32 + c.toNat))
  | .padd t f p s i o r => some (BitVec.ofNat 32 (0x70000000 + t.toNat * 65536 + f.toNat * 4096 + p.toNat * 32 + s.toNat * 16 + i.toNat * 8 + o.toNat * 4 + r.toNat))
  | .pmul t f p s i o r => some (BitVec.ofNat 32 (0x72000000 + t.toNat * 65536 + f.toNat * 4096 + p.toNat * 32 + s.toNat * 16 + i.toNat * 8 + o.toNat * 4 + r.toNat))
  | .pfma t f s i o r => some (BitVec.ofNat 32 (0x74000000 + t.toNat * 65536 + f.toNat * 4096 + s.toNat * 16 + i.toNat * 8 + o.toNat * 4 + r.toNat))
  | .pdot t f s i o r => some (BitVec.ofNat 32 (0x76000000 + t.toNat * 65536 + f.toNat * 4096 + s.toNat * 16 + i.toNat * 8 + o.toNat * 4 + r.toNat))
  | .rcp t v p s i o r => some (BitVec.ofNat 32 (0x78000000 + t.toNat * 65536 + v.toNat * 128 + p.toNat * 32 + s.toNat * 16 + i.toNat * 8 + o.toNat * 4 + r.toNat))
  | .rsq t v p s i o r => some (BitVec.ofNat 32 (0x7A000000 + t.toNat * 65536 + v.toNat * 128 + p.toNat * 32 + s.toNat * 16 + i.toNat * 8 + o.toNat * 4 + r.toNat))
  | .exp2 t v p s i o r => some (BitVec.ofNat 32 (0x7C000000 + t.toNat * 65536 + v.toNat * 128 + p.toNat * 32 + s.toNat * 16 + i.toNat * 8 + o.toNat * 4 + r.toNat))
  | .log2 t v p s i o r => some (BitVec.ofNat 32 (0x7E000000 + t.toNat * 65536 + v.toNat * 128 + p.toNat * 32 + s.toNat * 16 + i.toNat * 8 + o.toNat * 4 + r.toNat))
  | .tanh t v p s i o r => some (BitVec.ofNat 32 (0x80000000 + t.toNat * 65536 + v.toNat * 128 + p.toNat * 32 + s.toNat * 16 + i.toNat * 8 + o.toNat * 4 + r.toNat))
  | .cvt t x y p s i o r => some (BitVec.ofNat 32 (0x82000000 + t.toNat * 65536 + x.toNat * 4096 + y.toNat * 256 + p.toNat * 32 + s.toNat * 16 + i.toNat * 8 + o.toNat * 4 + r.toNat))
  | .srnd t y p s i o => some (BitVec.ofNat 32 (0x84000000 + t.toNat * 65536 + y.toNat * 256 + p.toNat * 32 + s.toNat * 16 + i.toNat * 8 + o.toNat * 4))
  | .rdflg t p m => some (BitVec.ofNat 32 (0x86000000 + t.toNat * 65536 + p.toNat * 16384 + m.toNat))
  | .clrflg t p m => some (BitVec.ofNat 32 (0x88000000 + t.toNat * 65536 + p.toNat * 16384 + m.toNat))
  | .rngn t p c k => some (BitVec.ofNat 32 (0x8A000000 + t.toNat * 65536 + p.toNat * 16384 + c.toNat * 128 + k.toNat))
  | .ld t p n s z q => some (BitVec.ofNat 32 (0x90000000 + t.toNat * 65536 + p.toNat * 16384 + n.toNat * 512 + s.toNat * 128 + z.toNat * 32 + q.toNat * 4))
  | .st t p n s z q => some (BitVec.ofNat 32 (0x92000000 + t.toNat * 65536 + p.toNat * 16384 + n.toNat * 512 + s.toNat * 128 + z.toNat * 32 + q.toNat * 4))
  | .ldv t p n s z q => some (BitVec.ofNat 32 (0x94000000 + t.toNat * 65536 + p.toNat * 16384 + n.toNat * 512 + s.toNat * 128 + z.toNat * 32 + q.toNat * 4))
  | .stv t p n s z q => some (BitVec.ofNat 32 (0x96000000 + t.toNat * 65536 + p.toNat * 16384 + n.toNat * 512 + s.toNat * 128 + z.toNat * 32 + q.toNat * 4))
  | .feset t p n s z q => some (BitVec.ofNat 32 (0x98000000 + t.toNat * 65536 + p.toNat * 16384 + n.toNat * 512 + s.toNat * 128 + z.toNat * 32 + q.toNat * 4))
  | .cbinit t p s h => some (BitVec.ofNat 32 (0x9A000000 + t.toNat * 65536 + p.toNat * 16384 + s.toNat * 16 + h.toNat))
  | .cbwait t p n y h => some (BitVec.ofNat 32 (0x9C000000 + t.toNat * 65536 + p.toNat * 16384 + n.toNat * 32 + y.toNat * 16 + h.toNat))
  | .cbrsv t p n y h => some (BitVec.ofNat 32 (0x9E000000 + t.toNat * 65536 + p.toNat * 16384 + n.toNat * 32 + y.toNat * 16 + h.toNat))
  | .cbadv t p n e h => some (BitVec.ofNat 32 (0xA0000000 + t.toNat * 65536 + p.toNat * 16384 + n.toNat * 32 + e.toNat * 16 + h.toNat))
  | .sbind t p c r z s o n => some (BitVec.ofNat 32 (0xA2000000 + t.toNat * 65536 + p.toNat * 16384 + c.toNat * 4096 + r.toNat * 2048 + z.toNat * 512 + s.toNat * 128 + o.toNat * 64 + n.toNat))
  | .bset t p n => some (BitVec.ofNat 32 (0xA4000000 + t.toNat * 65536 + p.toNat * 16384 + n.toNat))
  | .bperm t v p n => some (BitVec.ofNat 32 (0xA6000000 + t.toNat * 65536 + v.toNat * 128 + p.toNat * 32 + n.toNat))
  | .aadd t p n s z => some (BitVec.ofNat 32 (0xB0000000 + t.toNat * 65536 + p.toNat * 16384 + n.toNat * 512 + s.toNat * 128 + z.toNat * 32))
  | .amin t p n s z => some (BitVec.ofNat 32 (0xB0000004 + t.toNat * 65536 + p.toNat * 16384 + n.toNat * 512 + s.toNat * 128 + z.toNat * 32))
  | .amax t p n s z => some (BitVec.ofNat 32 (0xB0000008 + t.toNat * 65536 + p.toNat * 16384 + n.toNat * 512 + s.toNat * 128 + z.toNat * 32))
  | .aand t p n s z => some (BitVec.ofNat 32 (0xB000000C + t.toNat * 65536 + p.toNat * 16384 + n.toNat * 512 + s.toNat * 128 + z.toNat * 32))
  | .aor t p n s z => some (BitVec.ofNat 32 (0xB0000010 + t.toNat * 65536 + p.toNat * 16384 + n.toNat * 512 + s.toNat * 128 + z.toNat * 32))
  | .axor t p n s z => some (BitVec.ofNat 32 (0xB0000014 + t.toNat * 65536 + p.toNat * 16384 + n.toNat * 512 + s.toNat * 128 + z.toNat * 32))
  | .aswp t p n s z => some (BitVec.ofNat 32 (0xB0000018 + t.toNat * 65536 + p.toNat * 16384 + n.toNat * 512 + s.toNat * 128 + z.toNat * 32))
  | .acas t n s z => some (BitVec.ofNat 32 (0xB2000000 + t.toNat * 65536 + n.toNat * 512 + s.toNat * 128 + z.toNat * 32))
  | .aaddv t p n s z => some (BitVec.ofNat 32 (0xB4000000 + t.toNat * 65536 + p.toNat * 16384 + n.toNat * 512 + s.toNat * 128 + z.toNat * 32))
  | .aminv t p n s z => some (BitVec.ofNat 32 (0xB4000004 + t.toNat * 65536 + p.toNat * 16384 + n.toNat * 512 + s.toNat * 128 + z.toNat * 32))
  | .amaxv t p n s z => some (BitVec.ofNat 32 (0xB4000008 + t.toNat * 65536 + p.toNat * 16384 + n.toNat * 512 + s.toNat * 128 + z.toNat * 32))
  | .aandv t p n s z => some (BitVec.ofNat 32 (0xB400000C + t.toNat * 65536 + p.toNat * 16384 + n.toNat * 512 + s.toNat * 128 + z.toNat * 32))
  | .aorv t p n s z => some (BitVec.ofNat 32 (0xB4000010 + t.toNat * 65536 + p.toNat * 16384 + n.toNat * 512 + s.toNat * 128 + z.toNat * 32))
  | .axorv t p n s z => some (BitVec.ofNat 32 (0xB4000014 + t.toNat * 65536 + p.toNat * 16384 + n.toNat * 512 + s.toNat * 128 + z.toNat * 32))
  | .aswpv t p n s z => some (BitVec.ofNat 32 (0xB4000018 + t.toNat * 65536 + p.toNat * 16384 + n.toNat * 512 + s.toNat * 128 + z.toNat * 32))
  | .afadd t p n s => some (BitVec.ofNat 32 (0xB6000040 + t.toNat * 65536 + p.toNat * 16384 + n.toNat * 512 + s.toNat * 128))
  | .afinit t v p l x => some (BitVec.ofNat 32 (0xB8000000 + t.toNat * 65536 + v.toNat * 128 + p.toNat * 32 + l.toNat * 2 + x.toNat))
  | .phase t p s => some (BitVec.ofNat 32 (0xBA000000 + t.toNat * 65536 + p.toNat * 16384 + s.toNat))
  | .fence t p a w => some (BitVec.ofNat 32 (0xBC000000 + t.toNat * 65536 + p.toNat * 16384 + a.toNat * 2 + w.toNat))
  | .publish t v p x => some (BitVec.ofNat 32 (0xBE000000 + t.toNat * 65536 + v.toNat * 128 + p.toNat * 32 + x.toNat))
  | .mda t n p => some (BitVec.ofNat 32 (0xC0000000 + t.toNat * 65536 + n.toNat * 128 + p.toNat * 32))
  | .mdb t n p => some (BitVec.ofNat 32 (0xC0000200 + t.toNat * 65536 + n.toNat * 128 + p.toNat * 32))
  | .mma t b a p s => some (BitVec.ofNat 32 (0xC2000000 + t.toNat * 65536 + b.toNat * 512 + a.toNat * 128 + p.toNat * 32 + s.toNat * 16))
  | .accrd t p => some (BitVec.ofNat 32 (0xC4000000 + t.toNat * 65536 + p.toNat * 32))
  | .accwr t p => some (BitVec.ofNat 32 (0xC4000080 + t.toNat * 65536 + p.toNat * 32))
  | .accz t p => some (BitVec.ofNat 32 (0xC6000000 + t.toNat * 65536 + p.toNat * 32))
  | .kld t k p => some (BitVec.ofNat 32 (0xC8000000 + t.toNat * 65536 + k.toNat * 128 + p.toNat * 32))
  | .drain t p => some (BitVec.ofNat 32 (0xCA000000 + t.toNat * 65536 + p.toNat * 32))
  | .rtset t r p => some (BitVec.ofNat 32 (0xCC000000 + t.toNat * 65536 + r.toNat * 128 + p.toNat * 32))
  | .mstat t p c e => some (BitVec.ofNat 32 (0xCE000000 + t.toNat * 65536 + p.toNat * 32 + c.toNat * 4 + e.toNat))
  | .lcfg t n p => some (BitVec.ofNat 32 (0xD0000000 + t.toNat * 65536 + n.toNat * 128 + p.toNat * 32))
  | .lrun t n p s i o r => some (BitVec.ofNat 32 (0xD2000000 + t.toNat * 65536 + n.toNat * 128 + p.toNat * 32 + s.toNat * 16 + i.toNat * 8 + o.toNat * 4 + r.toNat))
  | .lwait t p y => some (BitVec.ofNat 32 (0xD4000000 + t.toNat * 65536 + p.toNat * 32 + y.toNat * 16))
  | .lstat t p c e => some (BitVec.ofNat 32 (0xD6000000 + t.toNat * 65536 + p.toNat * 32 + c.toNat * 4 + e.toNat))
  | .steer t v => some (BitVec.ofNat 32 (0xE0000000 + t.toNat * 65536 + v.toNat * 128))
  | .merge t v => some (BitVec.ofNat 32 (0xE2000000 + t.toNat * 65536 + v.toNat * 128))
  | .carry t v => some (BitVec.ofNat 32 (0xE4000000 + t.toNat * 65536 + v.toNat * 128))
  | .invar t v => some (BitVec.ofNat 32 (0xE6000000 + t.toNat * 65536 + v.toNat * 128))
  | .rrmerge t v b => some (BitVec.ofNat 32 (0xE8000000 + t.toNat * 65536 + v.toNat * 128 + b.toNat))
  | .hset t p => some (BitVec.ofNat 32 (0xF0000080 + t.toNat * 65536 + p.toNat * 32))
  | .hmask t p m => some (BitVec.ofNat 32 (0xF0000100 + t.toNat * 65536 + p.toNat * 32 + m.toNat))
  | .hclr t p d => some (BitVec.ofNat 32 (0xF0000180 + t.toNat * 65536 + p.toNat * 32 + d.toNat))
  | .chsend t p => some (BitVec.ofNat 32 (0xF0000200 + t.toNat * 65536 + p.toNat * 32))
  | .chmcast t p => some (BitVec.ofNat 32 (0xF0000280 + t.toNat * 65536 + p.toNat * 32))
  | .inrd t p c y => some (BitVec.ofNat 32 (0xF0000300 + t.toNat * 65536 + p.toNat * 32 + c.toNat * 16 + y.toNat * 8))
  | .bara t p b => some (BitVec.ofNat 32 (0xF0000380 + t.toNat * 65536 + p.toNat * 32 + b.toNat))
  | .barw t p b => some (BitVec.ofNat 32 (0xF0000400 + t.toNat * 65536 + p.toNat * 32 + b.toNat))
  | .chapp t p => some (BitVec.ofNat 32 (0xF0000480 + t.toNat * 65536 + p.toNat * 32))
  | .seqwait t p c => some (BitVec.ofNat 32 (0xF0000500 + t.toNat * 65536 + p.toNat * 32 + c.toNat))
  | .seqrd t p => some (BitVec.ofNat 32 (0xF0000580 + t.toNat * 65536 + p.toNat * 32))
  | .park p x => some (BitVec.ofNat 32 (0xF0000600 + p.toNat * 32 + x.toNat))
  | .wgrpDef t p => some (BitVec.ofNat 32 (0xF2000080 + t.toNat * 65536 + p.toNat * 32))
  | .wgrpPresent t p => some (BitVec.ofNat 32 (0xF2000081 + t.toNat * 65536 + p.toNat * 32))
  | .wgrpRel t p => some (BitVec.ofNat 32 (0xF2000082 + t.toNat * 65536 + p.toNat * 32))
  | .wld t p k y o => some (BitVec.ofNat 32 (0xF2000100 + t.toNat * 65536 + p.toNat * 32 + k.toNat * 16 + y.toNat * 4 + o.toNat))
  | .wlds t p y o => some (BitVec.ofNat 32 (0xF2000180 + t.toNat * 65536 + p.toNat * 32 + y.toNat * 4 + o.toNat))
  | .wstat t p c => some (BitVec.ofNat 32 (0xF2000200 + t.toNat * 65536 + p.toNat * 32 + c.toNat))
  | .cpdef t p => some (BitVec.ofNat 32 (0xF2002000 + t.toNat * 65536 + p.toNat * 32))
  | .cpdefRel t p => some (BitVec.ofNat 32 (0xF2002001 + t.toNat * 65536 + p.toNat * 32))
  | .cpcall t p n r => some (BitVec.ofNat 32 (0xF2002080 + t.toNat * 65536 + p.toNat * 32 + n.toNat * 16 + r.toNat))
  | .cpread t p => some (BitVec.ofNat 32 (0xF2002100 + t.toNat * 65536 + p.toNat * 32))
  | .cpwait t p c => some (BitVec.ofNat 32 (0xF2002180 + t.toNat * 65536 + p.toNat * 32 + c.toNat))
  | .cptrim t p => some (BitVec.ofNat 32 (0xF2002200 + t.toNat * 65536 + p.toNat * 32))
  | .cpstat t p e => some (BitVec.ofNat 32 (0xF2002280 + t.toNat * 65536 + p.toNat * 32 + e.toNat))
  | .cparg t p e => some (BitVec.ofNat 32 (0xF2002300 + t.toNat * 65536 + p.toNat * 32 + e.toNat))
  | .cpret t p => some (BitVec.ofNat 32 (0xF2002380 + t.toNat * 65536 + p.toNat * 32))
  | .guess t p => some (BitVec.ofNat 32 (0xF4000080 + t.toNat * 65536 + p.toNat * 32))
  | .launch t p => some (BitVec.ofNat 32 (0xF4000100 + t.toNat * 65536 + p.toNat * 32))
  | .tagrd t p => some (BitVec.ofNat 32 (0xF4000180 + t.toNat * 65536 + p.toNat * 32))
  | .sqchk t p r s => some (BitVec.ofNat 32 (0xF4000200 + t.toNat * 65536 + p.toNat * 32 + r.toNat * 8 + s.toNat))
  | .sqregChan t p => some (BitVec.ofNat 32 (0xF4000280 + t.toNat * 65536 + p.toNat * 32))
  | .sqregRows t p => some (BitVec.ofNat 32 (0xF4000281 + t.toNat * 65536 + p.toNat * 32))
  | .sqregRel t p => some (BitVec.ofNat 32 (0xF4000282 + t.toNat * 65536 + p.toNat * 32))
  | .kvwr t p => some (BitVec.ofNat 32 (0xF4000300 + t.toNat * 65536 + p.toNat * 32))
  | .topk t p s => some (BitVec.ofNat 32 (0xF4002000 + t.toNat * 65536 + p.toNat * 32 + s.toNat))
  | .candld t p => some (BitVec.ofNat 32 (0xF4002080 + t.toNat * 65536 + p.toNat * 32))
  | .candst t p => some (BitVec.ofNat 32 (0xF4002100 + t.toNat * 65536 + p.toNat * 32))
  | .rngseed t p n => some (BitVec.ofNat 32 (0xF4002180 + t.toNat * 65536 + p.toNat * 32 + n.toNat))
  | .rngnext t p n => some (BitVec.ofNat 32 (0xF4002200 + t.toNat * 65536 + p.toNat * 32 + n.toNat))
  | .draw t p s g => some (BitVec.ofNat 32 (0xF4002280 + t.toNat * 65536 + p.toNat * 32 + s.toNat * 16 + g.toNat))
  | .pen t p s r q f => some (BitVec.ofNat 32 (0xF4002300 + t.toNat * 65536 + p.toNat * 32 + s.toNat * 16 + r.toNat * 4 + q.toNat * 2 + f.toNat))
  | .jrnl t p => some (BitVec.ofNat 32 (0xF4002380 + t.toNat * 65536 + p.toNat * 32))
  | .jcommit t p => some (BitVec.ofNat 32 (0xF4002400 + t.toNat * 65536 + p.toNat * 32))
  | .jdrop t p => some (BitVec.ofNat 32 (0xF4002480 + t.toNat * 65536 + p.toNat * 32))
  | .gmask t p s => some (BitVec.ofNat 32 (0xF4002500 + t.toNat * 65536 + p.toNat * 32 + s.toNat))
  | .gsnap t p => some (BitVec.ofNat 32 (0xF4002580 + t.toNat * 65536 + p.toNat * 32))
  | .grest t p => some (BitVec.ofNat 32 (0xF4002600 + t.toNat * 65536 + p.toNat * 32))
  | .tmask t p g => some (BitVec.ofNat 32 (0xF4002680 + t.toNat * 65536 + p.toNat * 32 + g.toNat))
  | .tmload t p => some (BitVec.ofNat 32 (0xF4002700 + t.toNat * 65536 + p.toNat * 32))
  | .tdepth t p x g => some (BitVec.ofNat 32 (0xF4002780 + t.toNat * 65536 + p.toNat * 32 + x.toNat * 8 + g.toNat))
  | .trap t p => some (BitVec.ofNat 32 (0xF6000080 + t.toNat * 65536 + p.toNat * 32))
  | .rft t p => some (BitVec.ofNat 32 (0xF6000100 + t.toNat * 65536 + p.toNat * 32))
  | .csrr t p => some (BitVec.ofNat 32 (0xF6000180 + t.toNat * 65536 + p.toNat * 32))
  | .csrw t p => some (BitVec.ofNat 32 (0xF6000200 + t.toNat * 65536 + p.toNat * 32))
  | .freeze t p => some (BitVec.ofNat 32 (0xF6000280 + t.toNat * 65536 + p.toNat * 32))
  | .thaw t p => some (BitVec.ofNat 32 (0xF6000300 + t.toNat * 65536 + p.toNat * 32))
  | .ctxout t p w f => some (BitVec.ofNat 32 (0xF6000380 + t.toNat * 65536 + p.toNat * 32 + w.toNat * 2 + f.toNat))
  | .ctxoutDrop t p w f => some (BitVec.ofNat 32 (0xF6000384 + t.toNat * 65536 + p.toNat * 32 + w.toNat * 2 + f.toNat))
  | .ctxin t p => some (BitVec.ofNat 32 (0xF6000400 + t.toNat * 65536 + p.toNat * 32))
  | .tlbinv t p a => some (BitVec.ofNat 32 (0xF6000480 + t.toNat * 65536 + p.toNat * 32 + a.toNat))
  | .tlbprobe t p h => some (BitVec.ofNat 32 (0xF6000500 + t.toNat * 65536 + p.toNat * 32 + h.toNat))
  | .cfginv t p m => some (BitVec.ofNat 32 (0xF6000580 + t.toNat * 65536 + p.toNat * 32 + m.toNat))
  | .halt p => some (BitVec.ofNat 32 (0xF6000600 + p.toNat * 32))
  | .blockFetch _ => none
  | .blockCommit _ => none
  | .nocommit _ => none
  | .selector _ => none
  | .handlerAging _ _ => none
  | .forcedYield _ => none
  | .channelWordArrival _ => none
  | .inboxRetry _ => none
  | .updateWordAbsorb _ => none
  | .pageArrivalAbsorb _ => none
  | .mcastReplicate _ => none
  | .streamReadAhead _ _ => none
  | .streamOutStore _ _ => none
  | .taskDispatch _ _ _ => none
  | .chainAging _ => none
  | .taskComplete _ _ => none
  | .completionWrite _ => none
  | .chainEntryReread _ => none
  | .copyEntry _ => none
  | .swapOut _ _ => none
  | .swapIn _ _ => none
  | .barrierGenerationComplete _ _ => none
  | .roundMarkerIssue => none
  | .regionRoundEdge _ _ => none
  | .laneRunStart _ => none
  | .laneRunComplete _ => none
  | .matrixEntryExecute _ => none
  | .matrixEntryComplete _ => none
  | .tileDispatch _ => none
  | .tileSteal _ => none
  | .tileTask _ => none
  | .tileTaskAged _ => none
  | .atomicApply _ => none
  | .afaddApply _ => none
  | .afinitApply _ => none
  | .scTokenVisit => none
  | .phaseBoundaryComplete _ => none
  | .phaseovf _ _ => none
  | .washMemberRead _ _ => none
  | .copybookAppend _ => none
  | .scribeApply _ _ => none
  | .squashAbsorb _ _ => none
  | .pageRequest _ => none
  | .enginePageRewalk _ => none
  | .seqWatcherWake _ => none
  | .seqOverflowScan _ => none
  | .roundWrite => none
  | .ownrngWrite _ _ => none
  | .wellshareWrite _ _ _ => none
  | .smpctxAssign _ _ _ => none
  | .smpctxUnassign _ _ => none
  | .jobkill _ => none
  | .prqWrite _ _ => none
  | .nibpartWrite _ _ _ => none
  | .keyslotLoad _ => none
  | .keyslotErase _ => none
  | .swqWrite _ _ _ => none
  | .roletabWrite _ _ _ => none
  | .replayWrite _ _ => none
  | .bandwidthRefill _ => none
  | .gatewayRefill => none
  | .slewStep _ => none
  | .routerPowerGate _ _ => none
  | .routerWake _ _ => none
  | .correctableError _ _ _ => none
  | .uncorrectableError _ _ _ _ => none
  | .configStoreError _ _ => none
  | .configImageReloaded _ _ => none
  | .dieLinkFlit _ _ _ => none
  | .wydalFlit _ _ _ => none
  | .peerWordArrival _ _ _ => none
  | .linkLaneRetrain _ => none
  | .laneSpareRemap _ _ => none
  | .wellRowRemap _ _ _ => none
  | .hostMemWrite _ _ _ => none
  | .hostMemRead _ _ _ => none
  | .hostSnoop _ _ => none
  | .doorbellAddress _ _ => none
  | .doorbellAppend _ _ => none
  | .doorbellResultRead _ => none
  | .doorbellStatusRead _ => none
  | .attestNonce _ => none
  | .moduleReset _ _ => none
  | .clockChange _ => none
  | .memoryReply _ => none
  | .peerMemoryAccess _ _ _ _ _ _ => none
  | .ucieLinkTraining _ => none
  | .copyRebuilt _ _ => none

/-- A little-endian 32-bit word from four bytes, lowest address first (R6). -/
def wordOfBytes (b0 b1 b2 b3 : Byte) : BitVec 32 :=
  BitVec.ofNat 32 (b0.toNat + b1.toNat * 256 + b2.toNat * 65536 + b3.toNat * 16777216)

/-- Decode an instruction from its bytes as memory holds them (R6): the instruction and the bytes after it. -/
def decodeBytes : List Byte → Option (Instr × List Byte)
  | b0 :: b1 :: b2 :: b3 :: rest =>
    match decodeWord (wordOfBytes b0 b1 b2 b3) with
    | .ok i => some (i, rest)
    | .error _ => none
  | _ => none

/-- The instruction read from a word numbered as spec/opcode_table.json numbers its bits: every instruction is one
32-bit word, laid out in memory lowest byte first. -/
def decodeTableWord (nbits w : Nat) : Option Instr :=
  let v := w % 2 ^ nbits
  (decodeBytes [BitVec.ofNat 8 v, BitVec.ofNat 8 (v / 256), BitVec.ofNat 8 (v / 65536),
    BitVec.ofNat 8 (v / 16777216)]).map (·.1)

end Sys2Proof
end

