-- ==== Sys2Proof/Machine/Tables.lean ====
section
/-!
DEFINITION. Machine/Tables.lean: reading and writing sparse tables. Keys rise strictly, so equal contents are equal
lists.
-/
namespace Sys2Proof.Machine

/-- The entry of key `k`. -/
def tabFind {α : Type} : Table α → Nat → Option α
  | [], _ => none
  | (j, v) :: t, k => if j = k then some v else if k < j then none else tabFind t k

/-- The entry of key `k`, or `d`. -/
def tabGet {α : Type} (t : Table α) (k : Nat) (d : α) : α := (tabFind t k).getD d

/-- Set the entry of key `k`. -/
def tabPut {α : Type} : Table α → Nat → α → Table α
  | [], k, v => [(k, v)]
  | (j, u) :: t, k, v =>
    if k < j then (k, v) :: (j, u) :: t
    else if k = j then (k, v) :: t
    else (j, u) :: tabPut t k v

/-- Remove the entry of key `k`. -/
def tabDel {α : Type} : Table α → Nat → Table α
  | [], _ => []
  | (j, u) :: t, k => if k < j then (j, u) :: t else if k = j then t else (j, u) :: tabDel t k

/-- Keys rise strictly from above `lo` on. -/
def tabRises {α : Type} : Nat → Table α → Bool
  | _, [] => true
  | lo, (k, _) :: t => decide (lo ≤ k) && tabRises (k + 1) t

/-- Set the value of key `k` in a table that lists no entry equal to the default `d`. -/
def tabSet {α : Type} [DecidableEq α] : Table α → Nat → α → α → Table α
  | [], k, v, d => if v = d then [] else [(k, v)]
  | (j, u) :: t, k, v, d =>
    if k < j then if v = d then (j, u) :: t else (k, v) :: (j, u) :: t
    else if k = j then if v = d then t else (k, v) :: t
    else (j, u) :: tabSet t k v d

/-- Replace the `n`-th element of a list. -/
def listSet {α : Type} : List α → Nat → α → List α
  | [], _, _ => []
  | _ :: t, 0, v => v :: t
  | x :: t, n + 1, v => x :: listSet t n v

/-- Remove the `n`-th element of a list. -/
def listDrop {α : Type} : List α → Nat → List α
  | [], _ => []
  | _ :: t, 0 => t
  | x :: t, n + 1 => x :: listDrop t n

/-- Position of the first element that satisfies `p`, from `n` on. -/
def findIdx {α : Type} (p : α → Bool) : List α → Nat → Option Nat
  | [], _ => none
  | x :: t, n => if p x then some n else findIdx p t (n + 1)

end Sys2Proof.Machine
end

