-- ==== Sys2Proof/Machine/Layout.lean ====
section
/-!
DEFINITION. Machine/Layout.lean: where the parts of the module stand: slabs, die links and external interfaces (R15, R16), the sites of a slab,
its wells and its nib sites (R19–R22).
-/
namespace Sys2Proof.Machine

/-! ## Slabs (R16) -/

/-- Slab `s` lies in row `s / 4` and column `s % 4`; row 0 is north, column 0 west. -/
def slabRow (s : Nat) : Nat := s / 4
def slabCol (s : Nat) : Nat := s % 4

/-- The edges of a slab, and its die-link ports: 0 west, 1 north, 2 east, 3 south. -/
def edgeWest : Nat := 0
def edgeNorth : Nat := 1
def edgeEast : Nat := 2
def edgeSouth : Nat := 3

/-- The slab and port that a die-link port of slab `s` is joined to, when it faces a slab. -/
def neighbour (s port : Nat) : Option (Nat × Nat) :=
  if s > 11 then none
  else if port == edgeWest && slabCol s != 0 then some (s - 1, edgeEast)
  else if port == edgeEast && slabCol s != 3 then some (s + 1, edgeWest)
  else if port == edgeNorth && slabRow s != 0 then some (s - 4, edgeSouth)
  else if port == edgeSouth && slabRow s != 2 then some (s + 4, edgeNorth)
  else none

/-- The die links, each by its west or north end: east links first within a slab. -/
def dieLinks : List (Nat × Nat) :=
  (List.range 12).flatMap fun s => ([edgeEast, edgeSouth].filter fun p => (neighbour s p).isSome).map fun p => (s, p)

/-- Keys of the two ends of die link `n`. -/
def dieLinkEnds (n : Nat) : Option ((Nat × Nat) × (Nat × Nat)) :=
  (dieLinks[n]?).bind fun e => (neighbour e.1 e.2).map fun f => (e, f)

/-- External interfaces (Table 1-2). -/
inductive Interface where
  | ucie (module : Nat)
  | root (port : Nat)
  | wydal (first last : Nat)
  deriving DecidableEq, Repr

/-- What an edge of a slab carries besides a die link. -/
def interfaceAt (slab edge : Nat) : Option Interface :=
  if edge == edgeNorth && slab < 4 then some (.ucie slab)
  else if edge == edgeWest && slab == 0 then some (.root 0)
  else if edge == edgeEast && slab == 11 then some (.root 1)
  else if edge == edgeWest && slab == 4 then some (.wydal 0 3)
  else if edge == edgeWest && slab == 8 then some (.wydal 4 7)
  else if edge == edgeEast && slab == 3 then some (.wydal 8 11)
  else if edge == edgeEast && slab == 7 then some (.wydal 12 15)
  else none

/-- The first grain row and column of a region of a nib: four regions of 8 by 8 grains (Table 1-7). -/
def regionRow (r : Nat) : Nat := 8 * (r / 2)
def regionCol (r : Nat) : Nat := 8 * (r % 2)

/-- Row and column of the accumulator store at which element `i` of tile `t` lies, the tile's elements in row order (R26). -/
def accRow (t i : Nat) : Nat := 64 * (t / 4) + i / 64
def accCol (t i : Nat) : Nat := 64 * (t % 4) + i % 64

/-- Offset of an element in the 256 rows of 256 words of the store. -/
def accOffset (t i : Nat) : Nat := 4 * (256 * accRow t i + accCol t i)

/-- Wydal ports of the module (Table 1-1). -/
def wydalPorts : Nat := 16

/-- The slab at whose edge a Wydal port stands. -/
def wydalSlab (port : Nat) : Nat := if port < 4 then 4 else if port < 8 then 8 else if port < 12 then 3 else 7

/-- The slab at whose edge a session store root port stands, which is that of its swap engine (R416). -/
def rootSlab (port : Nat) : Nat := if port == 0 then 0 else 11

/-! ## Sites (R19–R22) -/

/-- Sites of a slab: 24 columns of 8. -/
def sites : Nat := 192

def siteAt (col row : Nat) : Nat := col * 8 + row
def siteCol (site : Nat) : Nat := site / 8
def siteRow (site : Nat) : Nat := site % 8

/-- Columns 7, 15 and 23 are well columns; the others hold nib sites. -/
def wellColumn (col : Nat) : Bool := col == 7 || col == 15 || col == 23

/-- The site of well `w` (R20). -/
def wellSite (w : Nat) : Nat := siteAt (7 + 8 * (w / 8)) (w % 8)

/-- The well at a site, when it is one. -/
def wellAt (site : Nat) : Option Nat :=
  if site < sites && wellColumn (siteCol site) then some (siteCol site / 8 * 8 + siteRow site) else none

/-- Nib sites of a slab (R21). -/
def nibSites : Nat := 168

/-- The column of nib site `n`: the columns in order, without the well columns. -/
def nibSiteCol (n : Nat) : Nat := let c := n / 8; if c < 7 then c else if c < 14 then c + 1 else c + 2

/-- The site number of nib site `n`. -/
def nibSite (n : Nat) : Nat := siteAt (nibSiteCol n) (n % 8)

/-- The nib site at a site, when it is one. -/
def nibSiteAt (site : Nat) : Option Nat :=
  if site < sites && !wellColumn (siteCol site) then some ((siteCol site - siteCol site / 8) * 8 + siteRow site) else none

end Sys2Proof.Machine
end

