-- ==== Sys2Proof/Machine/State.lean ====
section
/-!
DEFINITION. State.lean: everything the manual gives the module, as plain data, and the state after reset.

Numbering used for keys (a convention of the model, log entry 2):
* a unit is `slab * 256 + n`: n = 0–167 a logical nib, 0xF0 and 0xF1 the sampler cores, 0xE0–0xE7 the eight
  method contexts of the slab's scribe engine;
* a stroke is `unit * 32 + residency slot`;
* a place (slab, nib, channel) is `unit * 64 + channel`.
-/
namespace Sys2Proof.Machine

/-! ## Strokes and their instances -/

/-- What a slot of a running instance is doing (R42, R48, R122). -/
inductive SlotMode where
  /-- the slot may fire when its firing rule is met -/
  | ready
  /-- the slot has tokens on every port it waits for and holds them as a waiting instance (R122, R358) -/
  | held
  /-- the slot has fired and its reply is still owed (R48) -/
  | owed
  deriving DecidableEq, Repr

/-- What an LDV that has fired has still to move into the window of its stroke (R118): its instance and slot, the boundaries of the stroke before
it (R267), its FE field, the source key, or the window offset when it reads its own window, the destination's window offset, the granules
moved and those left; or the bytes that it has still to write. -/
structure Move where
  serial : Nat
  slot : Nat
  bnd : BitVec 32
  fe : Nat
  own : Bool
  src : Nat
  dst : Nat
  at_ : Nat
  left : Nat
  bytes : Option (List Byte) := none
  /-- region, page and level of the leaf that translated a source in a page (R396) -/
  via : Option (Nat × Nat × Nat) := none
  deriving DecidableEq, Repr

/-- One slot of a running instance (R42–R48, R88–R91). A port holds at most one token; a result whose target port
is full is held in `out1` or `out2`. -/
structure SlotSt where
  portA : Option Token := none
  portB : Option Token := none
  portP : Option Token := none
  /-- the port has received a token in this instance (R45) -/
  gotA : Bool := false
  gotB : Bool := false
  gotP : Bool := false
  /-- results held for targets 1 and 2, and the route codes they go to -/
  out1 : Option Token := none
  out2 : Option Token := none
  to1 : BitVec 9 := 0
  to2 : BitVec 9 := 0
  mode : SlotMode := .ready
  /-- the slot owes a reply and still holds its tokens: an update at an owner node (R239, R248) -/
  kept : Bool := false
  /-- iterations in which the slot has fired or resolved (R46) -/
  done : Nat := 0
  /-- how many times the slot fired rather than resolved; an RNGN's firing count (R79) -/
  fired : Nat := 0
  /-- a CTR's count (R88); the granules a vector copy has moved before it waits (R120) -/
  count : Nat := 0
  /-- a CARRY's fresh and drop flags (R90) -/
  fresh : Bool := true
  drop : Bool := false
  /-- an INVAR's held value (R90) -/
  keep : Option Token := none
  /-- an RRMERGE has taken an odd number of tokens (R90) -/
  turned : Bool := false
  /-- a PUT's last non-null value (R48) -/
  put : Option Word := none
  /-- the token kept for a trap that resolves without firing again: REQUEST's A (R366) -/
  stash : Option Token := none
  /-- an LDV that waits part-way: what is left to move (R118) -/
  move : Option Move := none
  /-- a vector atomic: lanes still to be sent once those on their way have applied (R243) -/
  lanes : List Nat := []
  deriving DecidableEq, Repr

/-- The exit that has fired (R47, R87, R185). -/
inductive ExitKind where
  /-- BRA, BRI, CALL, RET: the next PC, bits 63:0 -/
  | goto (pc : Word)
  /-- EXIT with its status -/
  | exit (status : BitVec 20)
  /-- PARK -/
  | park
  deriving DecidableEq, Repr

structure ExitRec where
  slot : Nat
  kind : ExitKind
  deriving DecidableEq, Repr

/-- A per-stroke register write recorded for commit (R372). -/
structure CsrRec where
  slot : Nat
  code : Nat
  value : Word
  deriving DecidableEq, Repr

/-- The registers a stroke holds (Table 1-8). -/
structure StrokeRegs where
  pc : BitVec 80 := 0
  g : List Word := []
  flags : BitVec 5 := 0
  aregion : BitVec 16 := 0
  curch : Nat := 0
  /-- PHASENO.NUMBER; PHASENO.PEND is counted from the pending versions -/
  phaseNumber : BitVec 32 := 0
  gentag : Word := 0
  wstat : Word := 0
  cpstat : Word := 0
  cplast : Word := 0
  trapcause : Word := 0
  trapslot : Word := 0
  trapval : Word := 0
  resumeidx : Word := 0
  deriving DecidableEq, Repr

/-- A running block instance (R45–R49): it keeps the decoded image it started from (R369). -/
structure Instance where
  serial : Nat
  /-- the block's 80-bit address -/
  addr : Nat
  header : BitVec 32
  words : List (BitVec 32)
  slots : List SlotSt
  /-- indices the root counter has emitted; 1 in single mode (R45, R46) -/
  emitted : Nat := 0
  /-- the root counter's bound once taken -/
  bound : Option Nat := none
  fired : List ExitRec := []
  /-- the pending flag sets of R72 -/
  raised : BitVec 5 := 0
  clear : BitVec 5 := 0
  csrw : List CsrRec := []
  /-- the stroke's registers as at instance start (R48, R81, R372), and PHASENO.PEND then -/
  start : StrokeRegs := {}
  pend0 : Nat := 0
  /-- frozen by a config-store error until the image is reloaded (R421) -/
  reloading : Bool := false
  /-- a HALT has fired in it (R370) -/
  halting : Bool := false
  deriving DecidableEq, Repr

/-- Stroke states of Table 6-3, with TRAPPED of R352. -/
inductive StrokeState where
  | run | ready | parked | pagewait | trapped
  deriving DecidableEq, Repr

/-- A circular-buffer handle (R125). -/
structure Handle where
  buffer : Word := 0
  partner : Word := 0
  producer : Bool := false
  head : BitVec 32 := 0
  tail : BitVec 32 := 0
  /-- armed wait: kind (true CBRSV) and count -/
  armed : Option (Bool × Nat) := none
  ready : Bool := false
  deriving DecidableEq, Repr

/-- A token read ahead by an in-port binding, or the fault met instead (R135, R138). -/
inductive Ahead where
  /-- `high`: the second token of an element of a D4 page -/
  | tok (t : Word) (high : Bool)
  /-- the marker token of a round (R159) -/
  | marker (n : Nat)
  | fault (code : Nat) (val : Word)
  deriving DecidableEq, Repr

/-- A stream binding (R133–R138). -/
structure Binding where
  space : Nat
  size : Nat
  raw : Bool
  base : Word
  /-- words 1 to 4 of the pattern record -/
  levels : List Word
  /-- elements read or stored so far -/
  pos : Nat := 0
  /-- in-port: tokens read ahead, with the markers of the rounds between them; a D4 page queues two per address -/
  ahead : List Ahead := []
  /-- in-port: the first token of the next element was taken before a context was saved, and is not read again (R363) -/
  skip : Bool := false
  /-- out-port: tokens sent and not yet stored -/
  sent : List Token := []
  /-- out-port on a D4 page: the low nibble's token waiting for its partner -/
  nibble : Option Token := none
  /-- out-port: a deferred fault has stopped the binding (R138) -/
  stopped : Bool := false
  deriving DecidableEq, Repr

/-- A phase boundary that has fired and not completed (R230, R232). -/
structure Boundary where
  scope : Nat
  /-- 0 PHASE, 1 barrier arrival, 2 EXIT -/
  kind : Nat
  /-- the instance and slot that fired it, which receive the result -/
  serial : Nat
  slot : Nat
  /-- barrier arrival: the barrier's index and the generation arrived at -/
  bar : Nat := 0
  gen : Nat := 0
  /-- the order number of the last pending write of the old phase -/
  upto : Nat
  deriving DecidableEq, Repr

/-- What a stroke was placed with: set at dispatch or by CTXIN (R144, R164, R166, R368). -/
structure StrokeDecl where
  job : Nat := 0
  part : Nat := 0
  folio : Nat := 0
  /-- general registers declared, in units of 8 -/
  regs : Nat := 1
  chans : Nat := 1
  chbase : Nat := 0
  frank : Nat := 0
  srank : Nat := 0
  inst : BitVec 32 := 0
  /-- scratchpad window, in bytes -/
  wbase : Nat := 0
  wsize : Nat := 0
  shared : Bool := false
  readpol : Nat := 0
  arrch : Nat := 0
  deriving DecidableEq, Repr

/-- An outstanding wash (R267–R272). -/
structure Wash where
  loader : Nat
  serial : Nat
  slot : Nat
  num : Nat
  group : Nat
  wide : Bool
  op : Nat
  ty : Nat
  pt : Bool
  k : BitVec 32
  soff : Nat
  dst : Nat
  members : List Word
  present : Word
  /-- members still to read, each with its hold standing -/
  left : List Nat
  /-- leaves read: member, lanes, poison cause of each lane (0 none) -/
  leaves : List (Nat × List Word × List Nat)
  /-- withdrawn by a freeze; reissues on resumption (R269) -/
  withdrawn : Bool := false
  /-- the strokes that owned the members' places as it issued, `noStroke` for none: a member that is streamed out is followed (R269) -/
  owners : List Nat := []
  /-- boundaries of the loader before the wash (R267) -/
  bnd : BitVec 32 := 0
  deriving DecidableEq, Repr

/-- Scheduling, streams, phases and traps of one stroke. -/
structure StrokeRun where
  state : StrokeState := .parked
  /-- the state in which a trap found it -/
  before : StrokeState := .run
  frozen : Bool := false
  region : Option Nat := none
  /-- the region it last held (R151 item 4) -/
  lastRegion : Nat := 0
  inst : Option Instance := none
  /-- number of the last instance started, so that a reply to another instance is told apart; a stroke's numbers begin at 2^64 times its birth -/
  serial : Nat := 0
  /-- priority the handler entry of CURCH held at the start of the activation (R150) -/
  prio : Nat := 0
  /-- priority levels gained by waiting, per candidate channel; key 64 is the stroke itself (R151) -/
  age : Table Nat := []
  forced : Bool := false
  /-- a handler start must be repeated on this channel (R149) -/
  startCh : Option Nat := none
  /-- the region and 64 KiB page a PAGEWAIT stroke waits for (R388) -/
  waitPage : Option (Nat × Nat) := none
  handles : Table Handle := []
  /-- bindings, keyed by port, or 64 + port for an out-port -/
  binds : Table Binding := []
  boundaries : List Boundary := []
  /-- stable values fixed in this phase, by granule (R235, R111) -/
  stable : Table (List Byte) := []
  /-- LDVs of committed instances that have not moved all their bytes (R118) -/
  moves : List Move := []
  /-- deferred traps not yet taken, oldest first: code and TRAPVAL (R351) -/
  deferred : List (Nat × Word) := []
  /-- slot traps met while the stroke was TRAPPED: slot, code and TRAPVAL -/
  later : List (Nat × Nat × Word) := []
  /-- an RFT action recorded while the folio is frozen (R355) -/
  rftAct : Option Nat := none
  /-- flags of WLDSs that completed after their instance committed (R275) -/
  lateFlags : BitVec 5 := 0
  /-- numbers given to the stroke's washes as they fire (R273) -/
  washes : Nat := 0
  /-- WLDSs of committed instances that wait for a wash slot of the nib, oldest first: what they capture as they issue is still open (R272) -/
  waiting : List Wash := []
  /-- EXIT has committed and its boundary is not complete: the exit status (R232) -/
  ending : Option (BitVec 20) := none
  deriving DecidableEq, Repr

structure Stroke where
  decl : StrokeDecl := {}
  regs : StrokeRegs := {}
  run : StrokeRun := {}
  deriving DecidableEq, Repr

/-! ## Units: nibs, sampler cores, scribe method contexts -/

/-- A bound handler entry (R147); `stroke` is the owner's key. -/
structure HandlerEntry where
  stroke : Nat
  entry : BitVec 80
  prio : Nat
  masked : Bool
  deriving DecidableEq, Repr

/-- A word in an inbox, with the round it was sent in (R158). -/
structure InWord where
  word : Word
  round : Nat
  deriving DecidableEq, Repr

/-- A decoded block image (R36): the words read at decode and the first failed stroke-independent check. -/
structure Image where
  addr : Nat
  header : BitVec 32
  words : List (BitVec 32)
  /-- first failed check of R54 that does not depend on the stroke: (subcode, TRAPSLOT) -/
  bad : Option (Nat × Nat)
  /-- its signature (R26, R421) -/
  sig : Nat
  deriving DecidableEq, Repr

/-- One lane-pipe run, queued or running (R200, R201). -/
structure LaneRun where
  ticket : Nat
  stroke : Nat
  /-- the instance that launched it, and the round of its LRUN (R204) -/
  serial : Nat := 0
  round : Nat := 0
  desc : List Word
  config : Word
  bn : List Word
  modifier : Nat
  wbase : Nat
  wsize : Nat
  /-- order number of the launching stroke's last pending write before the launch (R249) -/
  upto : Nat
  /-- boundaries of the launching stroke before the launch (R267) -/
  bnd : BitVec 32 := 0
  /-- once started: the beats to write, oldest first, and the flags of the sixteen lanes -/
  started : Bool := false
  beats : List (List Word) := []
  flags : List (BitVec 5) := []
  deriving DecidableEq, Repr

/-- The lane pipe of a nib (R189, R197, R200, R202). -/
structure LanePipe where
  lc : List Word := List.replicate 8 0
  bn : List Word := List.replicate 4 0
  lflags0 : Word := 0
  lflags1 : Word := 0
  runseq : Word := 0
  completed : Word := 0
  queue : List LaneRun := []
  /-- a failed lane that the spare replaces; invisible to programs (R26, R422) -/
  spareFor : Option Nat := none
  deriving DecidableEq, Repr

/-- What a queued matrix entry does, with what it captured when it fired (R211, R212). -/
inductive MatrixOp where
  | mma (a0 a1 b0 b1 ctl : Word) (sf : Bool)
  | kld (k : Nat) (off : Nat)
  | accz (mask : Nat)
  | accrd (ctl : Word) (off : Nat)
  | accwr (ctl : Word) (off : Nat)
  | drain (ctl r0 r1 : Word) (dst : Word)
  | tmload (block : List Word)
  deriving DecidableEq, Repr

structure MatrixEntry where
  ticket : Nat
  stroke : Nat
  serial : Nat
  slot : Nat
  wbase : Nat
  wsize : Nat
  upto : Nat
  /-- boundaries of the launching stroke before the launch (R267) -/
  bnd : BitVec 32 := 0
  /-- the round it was fired in (R214) -/
  round : Nat := 0
  op : MatrixOp
  executed : Bool := false
  deriving DecidableEq, Repr

/-- The matrix state of Table 8-2, but for acc0–acc15 and k0–k7, which lie in `Memory`. -/
structure MatrixUnit where
  ma : List (Word × Word) := List.replicate 4 (0, 0)
  mb : List (Word × Word) := List.replicate 4 (0, 0)
  rt : List (Word × Word) := List.replicate 16 (0, 0)
  mask : List Word := List.replicate 5 0
  mflags : BitVec 5 := 0
  mseq : Word := 0
  mdone : Word := 0
  queue : List MatrixEntry := []
  /-- tile-tasks on the local tile queue: (chain key, entry number, entry address), oldest first (R226) -/
  tiles : List (Nat × Nat × Nat) := []
  /-- the head tile-task has waited 16,384 cycles (R226) -/
  tileAged : Bool := false
  /-- the head tile-task has started and waits for a page -/
  tileRunning : Bool := false
  /-- what a started tile-task has computed and still has to write, by address, and its flags (R225) -/
  tileRows : Option (List (Nat × List Byte) × BitVec 5) := none
  deriving DecidableEq, Repr

/-- A registered region of rows (R314). -/
structure PipeRegion where
  record : Nat
  stroke : Nat
  offset : Nat
  rgran : Nat
  nrows : Nat
  deriving DecidableEq, Repr

/-- A pipeline slot: the record's key and its kill table, floor by position (R311, R315). -/
structure PipeSlot where
  record : Nat
  kill : Table (Nat × Nat) := []
  deriving DecidableEq, Repr

/-- The pipeline state of a nib (R314, R315). -/
structure PipeUnit where
  slots : Table PipeSlot := []
  regions : Table PipeRegion := []
  /-- token channels: physical channel to (stroke, record) -/
  tokens : Table (Nat × Nat) := []
  deriving DecidableEq, Repr

/-- A scratchpad window or a run of channels held on a unit: base, length, owning stroke or save area. -/
structure Alloc where
  base : Nat
  len : Nat
  /-- the stroke's key, or `sharedOwner` of a folio whose strokes on the unit share the window -/
  owner : Nat
  /-- its stroke has ended: it is released once its engine entries have completed (R204, R214) -/
  dead : Bool := false
  deriving DecidableEq, Repr

/-- One nib, sampler core or method context. -/
structure UnitSt where
  handlers : Table HandlerEntry := []
  inboxes : Table (List InWord) := []
  /-- channels whose unbound-channel report has been sent (R148) -/
  reported : Table Bool := []
  images : List Image := []
  /-- images whose store holds an uncorrectable error: block addresses (R421) -/
  badImages : List Nat := []
  /-- the channel the selector chose last (R151) -/
  lastChosen : Nat := 63
  windows : List Alloc := []
  chanRuns : List Alloc := []
  lane : LanePipe := {}
  matrix : MatrixUnit := {}
  pipe : PipeUnit := {}
  /-- a HALT has stopped the management nib until a word arrives (R370) -/
  halted : Bool := false
  /-- a trap of an M stroke has stopped the management nib (R353) -/
  stopped : Bool := false
  /-- register words of which an uncorrectable error is recorded: stroke keys (R418 KIND 4) -/
  badRegs : List Nat := []
  /-- its ROLETAB entry has been given another site since it was taken out of service (R423) -/
  moved : Bool := false
  /-- rounds whose edge each region has passed (R160) -/
  edges : List Nat := [0, 0, 0, 0]
  /-- regions that hold a stream-mode image whose instance has committed, with the stroke it ran for (R162) -/
  streamed : Table Nat := []
  deriving DecidableEq, Repr

/-! ## Memory -/

/-- A pending version of one byte (R229): writer, order number, key, value and the widest scope at which it has
been made visible, 0 for none (R230). The unit `anyEngine` stands for the engines. -/
structure PendByte where
  writer : Nat
  /-- the writer's folio -/
  folio : Nat
  order : Nat
  key : Nat
  val : Byte
  scope : Nat := 0
  /-- a boundary of folio scope has passed -/
  gang : Bool := false
  /-- units that see the version (R121, R131), the nibs of boundaries of nib scope among them, and slabs of boundaries of slab scope: where the
  writer stood as it passed them (R227, R252) -/
  also : List Nat := []
  slabs : List Nat := []
  deriving DecidableEq, Repr

/-- A cached translation (R392): a leaf's two words, or the word of a pointer entry or, at level 0, of a region entry; its level, the page it was
walked for, and who walked: a stroke's key, or `engineWho` of a slab. -/
structure TlbEntry where
  unit : Nat
  region : Nat
  page : Nat
  level : Nat
  w0 : Nat
  w1 : Nat
  part : Nat
  sonly : Bool
  leaf : Bool := true
  /-- evicted: it only tells what its stroke has used (R394) -/
  gone : Bool := false
  deriving DecidableEq, Repr

/-- A read that waits for the full bit of a granule at its bank (R120). -/
structure BankWait where
  granule : Nat
  stroke : Nat
  serial : Nat
  slot : Nat
  clears : Bool
  deriving DecidableEq, Repr

structure Memory where
  /-- every byte whose value is not 0, at its home: keys rise strictly (log entry 3) -/
  cells : List Host.Cell := []
  /-- full granules of the scratchpads, by granule key (R119) -/
  full : Table Bool := []
  /-- reads that wait on empty granules, in the order they reached their bank (R120) -/
  waits : List BankWait := []
  /-- 4-byte words that hold an uncorrectable error, by key / 4 (R418) -/
  poison : Table Bool := []
  /-- pending versions, oldest first (R229) -/
  pend : List PendByte := []
  /-- order numbers given to pending writes -/
  order : Nat := 0
  tlb : List TlbEntry := []
  /-- TLBMISS: walks begun for leaves that a slab's TLB lacked, by slab (R398) -/
  misses : Table Word := []
  deriving DecidableEq, Repr

/-! ## The network: words, replies, owner queues -/

/-- What to do when a word enters its inbox (R145): resolve a CHSEND, count a CHMCAST branch, or nothing. -/
inductive Sender where
  | engine (id : Nat)
  | chsend (stroke serial slot iter : Nat)
  /-- a stroke's update word: nothing to resolve -/
  | stroke (k : Nat)
  | mcast (id : Nat)
  /-- a pipeline action whose end waits for the token word (R307) -/
  | action (id : Nat)
  deriving DecidableEq, Repr

/-- A channel word in flight or refused by a full inbox (R145). -/
structure NetWord where
  sender : Sender
  place : Nat
  word : Word
  round : Nat
  /-- refused once by a full inbox -/
  refused : Bool := false
  /-- the word is an update word of R130, an arrival word of R177, or a plain word -/
  kind : Nat := 0
  /-- peer number the word is bound for, 0xFF for this module -/
  module : Nat := 0xFF
  /-- the gateway entry that admitted the word, and its DPART (R404) -/
  gate : Option (Nat × Nat) := none
  /-- the word has taken its unit of the entry's budget -/
  paid : Bool := false
  deriving DecidableEq, Repr

/-- A multicast that waits for the replication point, or for its branches (R163). -/
structure Mcast where
  id : Nat
  stroke : Nat
  serial : Nat
  slot : Nat
  /-- the iteration it was fired in -/
  iter : Nat := 0
  word : Word
  places : List Word
  /-- how each branch was admitted as CHMCAST fired: its gateway entry and DPART, when it crosses one (R404) -/
  gates : List (Option (Nat × Nat))
  /-- round of the sender, and its partition when it sent -/
  round : Nat
  part : Nat
  sent : Bool := false
  left : Nat
  deriving DecidableEq, Repr

/-- What the delivery of a copybook result leaves in CPLAST and CPSTAT (R287). -/
structure CpNote where
  obj : Nat
  method : Nat
  ro : Bool
  index : Nat
  code : Nat
  deriving DecidableEq, Repr

/-- A reply on its way to a slot (R48): the token for both targets. -/
structure Reply where
  stroke : Nat
  serial : Nat
  slot : Nat
  tok : Token
  cp : Option CpNote := none
  deriving DecidableEq, Repr

/-- The kind of an update that waits at an owner node or bank (R239, R244, R245, R248). -/
inductive AtomKind where
  /-- operation 0–6, or 7 for ACAS -/
  | scalar (op : Nat) (size : Nat) (b c : Word)
  /-- one lane of a vector atomic: the key of its OPERAND in the lane record -/
  | lane (op : Nat) (size : Nat) (b : Word) (rec : Nat)
  | afadd (index : Nat) (b : BitVec 32) (held : Bool)
  | afinit (rel : Bool) (base : BitVec 32)
  /-- bytes, page format, scale code when scaled, nibble of a D4 page, raw -/
  | scLoad (n fmt : Nat) (scale : Option Nat) (high raw : Bool)
  /-- bytes, value, and the nibble when only one is written -/
  | scStore (n : Nat) (v : Nat) (nibble : Option Bool)
  deriving DecidableEq, Repr

structure AtomReq where
  stroke : Nat
  serial : Nat
  slot : Nat
  /-- owner: slab * 32 + well, or 4096 + unit for a scratchpad bank -/
  node : Nat
  key : Nat
  /-- the address as the program gave it, and its region; 65536 for a scratchpad -/
  addr : Word
  region : Nat := 65536
  /-- level of the leaf that translated it -/
  level : Nat := 4
  /-- performed only while the node holds the SC ring's token (R248) -/
  sc : Bool := false
  /-- an AFADD that its owner has tested (R244) -/
  tried : Bool := false
  kind : AtomKind
  deriving DecidableEq, Repr

/-- A floating-point sequence context at an owner well (R244, R245). -/
structure AfCtx where
  node : Nat
  key : Nat
  next : BitVec 32
  deriving DecidableEq, Repr

structure Net where
  words : List NetWord := []
  mcasts : List Mcast := []
  nextId : Nat := 1
  replies : List Reply := []
  atoms : List AtomReq := []
  afctx : List AfCtx := []
  /-- the SC ring's members in this circuit of the token, and the index of the one that takes it next (R248, R374) -/
  scRing : List Nat := []
  scTurn : Nat := 0
  deriving DecidableEq, Repr

/-! ## Folios, chains, engines -/

structure Barrier where
  gen : Nat := 0
  /-- strokes whose arrival boundary has completed, and strokes that have arrived -/
  arrived : List Nat := []
  settled : List Nat := []
  /-- armed BARW wakes: stroke and place -/
  waiters : List (Nat × Nat) := []
  deriving DecidableEq, Repr

/-- What a seam route carries: a token, or the marker token of a round (R159). -/
inductive SeamItem where
  | tok (t : Token)
  | marker (n : Nat)
  deriving DecidableEq, Repr

/-- A seam route with its items, oldest first (R154). -/
structure Seam where
  src : Nat
  sport : Nat
  dst : Nat
  dport : Nat
  toks : List SeamItem := []
  deriving DecidableEq, Repr

/-- A member stroke of a folio that has ended: instance, ranks, status; supervisor-ended when `killed`. -/
structure Ended where
  frank : Nat
  srank : Nat
  status : Nat
  killed : Bool
  deriving DecidableEq, Repr

structure Folio where
  id : Nat
  slab : Nat
  job : Nat
  /-- resident strokes -/
  strokes : List Nat
  /-- strokes streamed out with KEEP, or with FREE, and not yet back -/
  away : Nat := 0
  frozen : Bool := false
  bars : List Barrier := []
  seams : List Seam := []
  ended : List Ended := []
  /-- the task it belongs to: chain key and entry number; chain 0 for none -/
  chain : Nat := 0
  entry : Nat := 0
  inst : Nat := 0
  /-- boundaries of folio scope or wider that its strokes have passed: its folio-scope phase sequence (Table 1-9) -/
  phases : Nat := 0
  deriving DecidableEq, Repr

/-- An entry of a chain that has been taken up and whose completion is still to come (R169, R173). -/
structure ChainEntry where
  num : Nat
  addr : Nat
  region : Nat
  priv : Nat
  stroke : Nat
  upto : Nat
  /-- words of the entry as it was read -/
  words : List Word
  /-- task: instances still to place, all of them, folios alive -/
  toPlace : Nat := 0
  total : Nat := 0
  live : Nat := 0
  /-- the first nonzero exit status with its rank, and whether the supervisor ended some stroke -/
  firstErr : Option (Nat × Nat) := none
  killed : Bool := false
  /-- elements, bytes or pages moved before the engine waited for a page -/
  progress : Nat := 0
  /-- CODE is known: only the completion is left -/
  finished : Bool := false
  code : Nat := 0
  deriving DecidableEq, Repr

/-- An entry appended to a chain and not yet taken up (R183): its number, its address and region, the privilege and stroke of its appender,
and the appender's order number at the launch (R249). -/
structure Posted where
  num : Nat
  addr : Nat
  region : Nat
  priv : Nat
  stroke : Nat
  upto : Nat
  deriving DecidableEq, Repr

/-- A link still to be written to word 0 of an entry whose page was not present when the next one was appended (R183, R388). -/
structure ChainLink where
  region : Nat
  at_ : Nat
  priv : Nat
  next : Nat
  deriving DecidableEq, Repr

/-- An engine chain (R172), keyed by `chainKey`. -/
structure Chain where
  kind : Nat
  slab : Nat
  engine : Nat
  chain : Nat
  /-- the job that owns it; 4096 for chains of PART 0 that the host appends to without a job (R410) -/
  job : Nat
  part : Nat
  region : Nat
  prio : Nat
  age : Nat := 0
  appended : Nat := 0
  completed : Nat := 0
  tail : Nat := 0
  tailRegion : Nat := 0
  entries : List ChainEntry := []
  posted : List Posted := []
  links : List ChainLink := []
  /-- halted at an unreadable entry (R172), waiting for a page (R388), or stopped by ERRSTOP (Table 6-6) -/
  halted : Bool := false
  waiting : Option (Nat × Nat) := none
  stopped : Bool := false
  deriving DecidableEq, Repr

/-- A job: the runtime's context (Table 1-9). -/
structure Job where
  id : Nat
  part : Nat
  region : Nat
  prio : Nat
  killed : Bool := false
  deriving DecidableEq, Repr

/-- A watcher of SEQWAIT or CPWAIT (R184, R297). -/
structure Watcher where
  stroke : Nat
  place : Nat
  /-- sequence word key, or none for the applied index of `obj` on `slab` -/
  key : Option Nat
  obj : Nat := 0
  slab : Nat
  value : Word
  /-- entered in the overflow list (R184) -/
  overflow : Bool := false
  /-- the value has been reached -/
  latched : Bool := false
  deriving DecidableEq, Repr

/-- A Read or Write command of a swap entry (R417): its queue pair, the page it moves, its first LBA, the LBAs it takes, the bytes a Write
carries, and its status once complete. -/
structure SwapCmd where
  pair : Nat
  page : Nat
  lba : Nat
  count : Nat
  data : List Byte := []
  status : Option Bool := none
  deriving DecidableEq, Repr

structure Engines where
  jobs : List Job := []
  chains : Table Chain := []
  folios : List Folio := []
  nextFolio : Nat := 1
  /-- strokes placed so far: each has serial numbers of its own (log entry 2) -/
  born : Nat := 0
  watchers : List Watcher := []
  /-- the nib the tile dispatcher of each slab chose last (R226) -/
  tileLast : Table Nat := []
  /-- outstanding page requests: (region, page) (R389) -/
  pageReqs : List (Nat × Nat) := []
  /-- page requests that wait for their ring slot: (partition, region, page, engine, slab) -/
  pageQueue : List (Nat × Nat × Nat × Bool × Nat) := []
  /-- doorbell pairs: staged address, last result, refused (R410); key 4096 is PART 0 -/
  doorbells : Table (Word × Word × Bool) := []
  /-- swap engines: the queue pair used last, by slab (R417) -/
  swapLast : Table Nat := []
  /-- commands of a swap chain's head entry, in the order of their pages (R417) -/
  swapCmds : Table (List SwapCmd) := []
  /-- queue pairs, by slab * 16 + pair: submission tail, as rung at the doorbell, and completion head -/
  swapQueues : Table (Nat × Nat) := []
  /-- tails rung at submission doorbells, by bus address (R417) -/
  swapBells : Table Nat := []
  deriving DecidableEq, Repr

/-! ## Rounds, freezing, saved contexts -/

/-- A FREEZE that waits for its folio (R357). -/
structure FreezeReq where
  folio : Nat
  round : Nat
  stroke : Nat
  serial : Nat
  slot : Nat
  deriving DecidableEq, Repr

/-- A stroke that CTXOUT has saved (R363, R364): the words it wrote to the area, by offset, and what the words of the area stand for. -/
structure SavedCtx where
  id : Nat
  /-- where it was streamed out from -/
  home : Nat
  /-- FREE: its channels were released -/
  free : Bool
  /-- WIN: its window was written after the area -/
  win : Bool
  /-- a KEEP area is restored at most once (R368) -/
  used : Bool := false
  rows : Nat
  area : List (Nat × Word)
  stroke : Stroke
  /-- FREE: handler entries and inboxes by relative channel -/
  handlers : Table HandlerEntry := []
  inboxes : Table (List InWord) := []
  deriving DecidableEq, Repr

structure Rounds where
  /-- number of the last marker issued plus one; 0 before the first -/
  issued : Nat := 0
  requested : Bool := false
  freezes : List FreezeReq := []
  saved : List SavedCtx := []
  nextSave : Nat := 1
  deriving DecidableEq, Repr

/-! ## Wash loads, copybook objects, pipeline actions, sampler -/

structure WashGroup where
  part : Nat
  members : List Word
  present : Word
  marks : List (BitVec 32)
  deriving DecidableEq, Repr

/-- A finished wash whose WSTAT update waits for the washes that fired before it (R273). -/
structure WashDone where
  loader : Nat
  num : Nat
  group : Nat
  empty : Bool
  pmask : Nat
  cause : Nat
  member : Nat
  /-- WASHPOIS to be taken once it is recorded: the instance and slot (R272) -/
  trap : Option (Nat × Nat) := none
  deriving DecidableEq, Repr

structure CbMethod where
  entry : Word
  ro : Bool
  args : Nat
  deriving DecidableEq, Repr

/-- A defined copybook object (R277–R279). -/
structure CbObject where
  part : Nat
  region : Nat
  statesz : Nat
  caplog : Nat
  hslab : Nat
  hwell : Nat
  methods : List CbMethod
  next : Nat := 1
  trim : Nat := 1
  applied : List Nat := List.replicate 12 0
  /-- log entries TRIM to NEXT − 1 -/
  log : Table (List Word) := []
  /-- results of the calls TRIM to the last applied anywhere, by index: value and fault code, the same on every slab (R283) -/
  results : Table (Word × Nat) := []
  /-- slabs whose copy is damaged (R288) -/
  damaged : List Nat := []
  deriving DecidableEq, Repr

/-- A CPCALL that waits to be appended, or whose result is owed (R281, R290, R295). -/
structure CbCall where
  stroke : Nat
  serial : Nat
  slot : Nat
  obj : Nat
  method : Nat
  nw : Bool
  rch : Nat
  args : List Word
  place : Word
  /-- index once appended -/
  index : Option Nat := none
  /-- it has reached the home and waits for room (R289) -/
  waited : Bool := false
  deriving DecidableEq, Repr

/-- A CPREAD that waits for catch-up (R296), with what it read as it fired. -/
structure CbRead where
  stroke : Nat
  serial : Nat
  slot : Nat
  obj : Nat
  known : Nat
  args : List Word
  deriving DecidableEq, Repr

/-- A method running in a method context (R284, R286). Keyed by unit. -/
structure CbRun where
  obj : Nat
  method : Nat
  ro : Bool
  /-- the call's index, or for a read-only method the applied index it runs after -/
  index : Nat
  entry : List Word
  /-- the value of the last CPRET in program order, and where that CPRET stands -/
  result : Word := 0
  retAt : Nat := 0
  /-- the status of the EXIT that has committed -/
  exit : Option Nat := none
  /-- the trap code the method has met (R284) -/
  fault : Option Nat := none
  /-- bytes the method has written, by copy offset (R285) -/
  buffer : Table Byte := []
  blocks : Nat := 0
  /-- read-only: the reader that waits -/
  reader : Option (Nat × Nat × Nat) := none
  deriving DecidableEq, Repr

structure Copybook where
  objects : Table CbObject := []
  calls : List CbCall := []
  reads : List CbRead := []
  runs : Table CbRun := []
  deriving DecidableEq, Repr

/-- What a GUESS or a LAUNCH asks of the owner (R308, R309): the token it issues from and the guess, or the position and the value. -/
inductive PipeOp where
  | guess (p l b : Nat)
  | launch (q v : Nat)
  deriving DecidableEq, Repr

/-- A pipeline action that has fired (R307): one that the owner has begun, or one that is still to be sent or begun. -/
structure PipeAct where
  id : Nat
  stroke : Nat
  serial : Nat
  slot : Nat
  record : Nat
  /-- result token once the action ends -/
  result : Word
  /-- a squash being delivered: q, s, low, and the member units still to absorb it -/
  squash : Option (Nat × Nat × Nat)
  members : List Word
  /-- relaunch position and value, once every member has absorbed -/
  launch : Nat × Nat
  /-- the iteration it was fired in -/
  iter : Nat := 0
  /-- what it asks, while the owner has not begun it -/
  todo : Option PipeOp := none
  /-- members on peer modules to which the squash is still to be sent (R323) -/
  toSend : List Word := []
  deriving DecidableEq, Repr

structure Services where
  groups : Table WashGroup := []
  washes : List Wash := []
  washDone : List WashDone := []
  book : Copybook := {}
  acts : List PipeAct := []
  deriving DecidableEq, Repr

/-! ## Module registers, links, power -/

/-- A message that leaves by a Wydal port, with the channel word it carries: the word is in flight until the flit is acknowledged (R145, R413). -/
structure LinkMsg where
  msg : PeerMsg
  word : Option NetWord := none
  deriving DecidableEq, Repr

/-- One link's end: a die-link port or a Wydal port (R411, R418, R422). -/
structure LinkEnd where
  /-- sequence number expected next, and failures of the CRC in a row -/
  next : Nat := 0
  bad : Nat := 0
  /-- spare lanes brought in -/
  lanes : Nat := 0
  /-- Wydal: messages that wait for a flit, the next flit's sequence number, and the replay buffer: flits sent and not acknowledged, oldest first -/
  queue : List LinkMsg := []
  send : Nat := 0
  buffer : List (Nat × List LinkMsg) := []
  /-- flits that the other end takes yet, and the kind of its last flit -/
  credits : Nat := 0
  kind : Nat := 0
  deriving DecidableEq, Repr

/-- Engines of a folio that wait for the slew limiter's admission since a barrier release, and the steps since then (R425). -/
structure SlewRelease where
  folio : Nat
  slab : Nat
  step : Nat := 0
  wait : List Nat
  deriving DecidableEq, Repr

/-- Links, power and the host site (R405–R411, R418, R422, R425, R426, R428). -/
structure Platform where
  /-- core clock in MHz (R17) -/
  clock : Nat := 2250
  /-- UCIe modules trained (R407) -/
  ucie : Nat := 0
  /-- bases of the HDM decoders (R408) -/
  hdm0 : Nat := 0
  hdm1 : Nat := 2 ^ 40
  /-- die-link ports, by slab * 4 + port, and Wydal ports, by 4096 + port -/
  links : Table LinkEnd := []
  /-- routers that are power-gated: slab * 256 + site (R426) -/
  gated : Table Bool := []
  /-- nib sites of spares that a nib has been moved to: slab * 256 + site (R423) -/
  spares : Table Bool := []
  /-- well rows replaced by the spare row: slab * 32 + well (R422) -/
  wellRows : Table Nat := []
  /-- gateway budgets spent in this period, by entry (R404) -/
  spent : Table Nat := []
  /-- bandwidth buckets, by `bucketKey` (R405), and the beats that left or waited at each in this period (R406) -/
  buckets : Table Nat := []
  beats : Table Nat := []
  /-- slew limiter: releases whose engines wait for admission (R425) -/
  slewing : List SlewRelease := []
  /-- step of an engine's ramp: 1 to 3 up, 4 to 6 down -/
  ramp : Table Nat := []
  /-- engines that were idle for 256 cycles and wait for a step of their own, and the steps that each engine has been idle -/
  slewLone : Table (List Nat) := []
  idle : Table Nat := []
  /-- the host's mailbox: nonce and attestation report bytes (R428) -/
  nonce : List Byte := []
  report : List Byte := []
  /-- the last host read's data (R408, R410) -/
  hostData : List Byte := []
  /-- the Wydal port by which each peer's last flit came: the way back to one that PEER gives no port (R413) -/
  peerVia : Table Nat := []
  deriving DecidableEq, Repr

/-! ## Choices and the whole state -/

/-- What the next step is to do when the manual leaves the order open (log entry 4). -/
inductive Pick where
  /-- fire slot `slot` of stroke `stroke`; `stale` lets the access use a cached translation (R393) -/
  | slot (stroke slot : Nat) (stale : Bool)
  /-- one event of the opcode table -/
  | event (i : Instr)
  /-- fix the stable values of the granule of a memory key for a stroke's phase (R235) -/
  | fix (stroke key : Nat)
  /-- the `n`-th FREEZE that waits sends its result if R357 item 3 holds -/
  | freeze (n : Nat)
  /-- the host programs HDM decoder 0 or 1 through CXL.io (R407, R408) -/
  | hdm (decoder base : Nat)
  /-- the host reads `n` bytes of the mailbox at a BAR0 offset (R428) -/
  | mailbox (off n : Nat)
  /-- the runtime creates a job (R28, R402), or one of its chains (R172) -/
  | newJob (job part region prio : Nat)
  | newChain (job kind slab engine chain region : Nat)
  /-- SLEW_STEP of a slab (R425) -/
  | slew (slab : Nat)
  /-- a message of a flit that has come in from a peer (R411) -/
  | message (peer : Nat) (m : PeerMsg)
  /-- the unit of a stroke decodes a block before the stroke's PC reaches it (R36) -/
  | predecode (stroke addr : Nat)
  /-- cached translation `n` is evicted (R393) -/
  | evict (n : Nat)
  deriving DecidableEq, Repr

/-- The replay log of R424. An entry is a choice with the count of free values that it found, which fixes every outcome that it drew: choices made since
the last round edge, those in the log ring, oldest first, and how many entries the ring has ever taken. -/
structure ReplayLog where
  made : List (Pick × Nat) := []
  ring : List (Pick × Nat) := []
  written : Nat := 0
  /-- free values drawn outside replay, while a replayed choice draws those of its entry -/
  drawn : Nat := 0
  deriving DecidableEq, Repr

/-- Where the instruction being executed stands. -/
structure Cursor where
  stroke : Nat := 0
  slot : Nat := 0
  stale : Bool := false
  deriving DecidableEq, Repr

structure State where
  strokes : Table Stroke := []
  units : Table UnitSt := []
  mem : Memory := {}
  net : Net := {}
  eng : Engines := {}
  rounds : Rounds := {}
  svc : Services := {}
  /-- system registers, keyed by `csrKey code slab index`; an unlisted one holds its reset value (Tables 14-11, 16-1, R398, R429) -/
  csr : Table Word := []
  plat : Platform := {}
  cur : Cursor := {}
  agenda : List Pick := []
  /-- choices that the model has made itself (log entry 4) -/
  turn : Nat := 0
  /-- what recorded replay has logged (R424) -/
  log : ReplayLog := {}
  /-- free values handed out so far (log entry 1) -/
  fresh : Nat := 0
  /-- the module is held in reset after a failed firmware check (R427): only a reset acts on it -/
  inReset : Bool := false
  deriving DecidableEq, Repr

/-- Faults: the machine stops. No rule of the manual stops the machine, so no meaning of this model raises one. -/
inductive Fault where
  /-- raised by no meaning of this model; kept so that the type is inhabited. Safe. -/
  | never
  deriving DecidableEq, Repr

inductive Refusal where
  /-- an instruction without a meaning yet, by its mnemonic. Raised by `exec` only. Safe. -/
  | notModelled (mnemonic : String)
  deriving DecidableEq, Repr

/-- The module after reset: no stroke is resident, memory lists nothing, every register holds its reset value
(log entry 5 for those the manual gives none). -/
def State.reset : State := {}

end Sys2Proof.Machine
end

