-- ==== Sys2Proof/Machine/Access.lean ====
section
/-!
DEFINITION. Machine/Access.lean: reading and updating the pieces of State: strokes, instances, slots, units, system registers,
folios, free values; and the numbers that name strokes, units and places.
-/
namespace Sys2Proof.Machine

/-! ## Numbers -/

/-- The unit of a stroke key. -/
def unitOf (k : Nat) : Nat := k / 32

/-- The slab of a unit. -/
def slabOf (u : Nat) : Nat := u / 256

/-- The number of a unit within its slab. -/
def nibOf (u : Nat) : Nat := u % 256

def unitNum (slab nib : Nat) : Nat := slab * 256 + nib

/-- A pseudo-unit that stands for every engine (R131). -/
def anyEngine : Nat := 65535

/-- Whether a unit is a sampler core. -/
def isSampler (u : Nat) : Bool := nibOf u == 0xF0 || nibOf u == 0xF1

/-- Whether a unit is a method context of a scribe engine. -/
def isScribe (u : Nat) : Bool := 0xE0 ≤ nibOf u && nibOf u ≤ 0xE7

/-- Whether a unit is a nib. -/
def isNib (u : Nat) : Bool := nibOf u < 168

/-- R53, R346: the privilege of a unit: 0 U, 1 S, 2 M. -/
def unitPriv (u : Nat) : Nat :=
  if nibOf u == 160 || nibOf u == 161 then 1 else if nibOf u == 162 then 2 else 0

/-- Residency slots of a unit (R29): 32 on a nib, 8 on a sampler core. -/
def slotsOf (u : Nat) : Nat := if isSampler u then 8 else if isScribe u then 1 else 32

/-- Grain regions of a unit (R26): four on a nib, one on a sampler core or a method context. -/
def regionsOf (u : Nat) : Nat := if isNib u then 4 else 1

/-- Table 14-5: the stroke word of a stroke. -/
def strokeWord (k : Nat) : Nat := slabOf (unitOf k) * 16384 + nibOf (unitOf k) * 64 + k % 32

/-- The stroke key of a stroke word with no reserved bit set. -/
def keyOfStrokeWord (w : Nat) : Option Nat :=
  if w / 262144 != 0 || bit w 5 then none
  else some (unitNum (bits w 17 14) (bits w 13 6) * 32 + bits w 4 0)

/-- A place number, and the low 18 bits of its place word (Table 6-13). -/
def placeNum (slab nib ch : Nat) : Nat := unitNum slab nib * 64 + ch

def placeWord (place : Nat) : Nat := slabOf (place / 64) * 16384 + nibOf (place / 64) * 64 + place % 64

/-- The key under which what a streamed-out stroke keeps reserved is held (R364). -/
def savedKey (id : Nat) : Nat := 2 ^ 41 + id

def isSaved (k : Nat) : Bool := 2 ^ 41 ≤ k

/-- The issuer of a peer's atomics (R413): a key that no stroke has. -/
def peerStroke (peer : Nat) : Nat := 2 ^ 52 + peer

def isPeer (k : Nat) : Bool := 2 ^ 52 ≤ k

def peerOf (k : Nat) : Nat := k - 2 ^ 52

/-- A key that no stroke has: the writer and launcher of what no stroke launches. -/
def noStroke : Nat := 2 ^ 50

/-! ## Strokes -/

def State.stroke (s : State) (k : Nat) : Option Stroke := tabFind s.strokes k

def State.setStroke (s : State) (k : Nat) (t : Stroke) : State := { s with strokes := tabPut s.strokes k t }

def State.modStroke (s : State) (k : Nat) (f : Stroke → Stroke) : State :=
  match s.stroke k with
  | some t => s.setStroke k (f t)
  | none => s

def Stroke.modRun (t : Stroke) (f : StrokeRun → StrokeRun) : Stroke := { t with run := f t.run }

def Stroke.modRegs (t : Stroke) (f : StrokeRegs → StrokeRegs) : Stroke := { t with regs := f t.regs }

def State.modRun (s : State) (k : Nat) (f : StrokeRun → StrokeRun) : State := s.modStroke k (·.modRun f)

def State.modRegs (s : State) (k : Nat) (f : StrokeRegs → StrokeRegs) : State := s.modStroke k (·.modRegs f)

def State.modInst (s : State) (k : Nat) (f : Instance → Instance) : State :=
  s.modRun k fun r => { r with inst := r.inst.map f }

def Instance.modSlot (i : Instance) (n : Nat) (f : SlotSt → SlotSt) : Instance :=
  match i.slots[n]? with
  | some x => { i with slots := listSet i.slots n (f x) }
  | none => i

def State.modSlot (s : State) (k n : Nat) (f : SlotSt → SlotSt) : State := s.modInst k (·.modSlot n f)

def State.inst (s : State) (k : Nat) : Option Instance := (s.stroke k).bind (·.run.inst)

def State.slot (s : State) (k n : Nat) : Option SlotSt := (s.inst k).bind (·.slots[n]?)

/-- The instruction in a slot of a running instance. -/
def Instance.instr (i : Instance) (n : Nat) : Option Instr :=
  match i.words[n]? with
  | some w =>
    match decodeWord w with
    | .ok x => some x
    | .error _ => none
  | none => none

/-- Boundaries that a stroke has fired: what it does now follows them in program order (R267). -/
def Stroke.bnd (t : Stroke) : BitVec 32 := t.regs.phaseNumber + BitVec.ofNat 32 t.run.boundaries.length

/-- The stroke owns the physical channel `ch` of its unit (R143). -/
def Stroke.owns (t : Stroke) (ch : Nat) : Bool := t.decl.chbase ≤ ch && ch < t.decl.chbase + t.decl.chans

/-- The stroke that owns a physical channel of a unit (R143). -/
def State.channelOwner (s : State) (u ch : Nat) : Option Nat :=
  (s.strokes.find? fun e => unitOf e.1 == u && e.2.owns ch).map (·.1)

/-! ## Units -/

def State.unit (s : State) (u : Nat) : UnitSt := tabGet s.units u {}

/-- The management nib issues nothing (R353, R370). -/
def UnitSt.still (u : UnitSt) : Bool := u.halted || u.stopped

/-- The stroke that owns the handler entry of a place (R255). -/
def State.boundAt (s : State) (place : Nat) : Option Nat := (tabFind (s.unit (place / 64)).handlers (place % 64)).map (·.stroke)

/-- A channel that a streamed-out stroke keeps reserved. -/
def UnitSt.reserves (u : UnitSt) (ch : Nat) : Bool :=
  u.chanRuns.any fun a => isSaved a.owner && a.base ≤ ch && ch < a.base + a.len

def State.modUnit (s : State) (u : Nat) (f : UnitSt → UnitSt) : State :=
  { s with units := tabPut s.units u (f (s.unit u)) }

/-! ## Free values (log entry 1) -/

def State.drawWord (s : State) : Word × State := (Config.freeWord s.fresh, { s with fresh := s.fresh + 1 })

def State.drawBool (s : State) : Bool × State := (Config.freeBool s.fresh, { s with fresh := s.fresh + 1 })

/-! ## System registers -/

def csrKey (code slab index : Nat) : Nat := code * 1048576 + slab * 4096 + index

/-- Reset values of the system registers (R375, R405, R425, R426; 0 for the others): ROLETAB maps nib `n` to nib site `n`, as on a part with no
repairs (R22; log entry 5). -/
def csrReset (code index : Nat) : Nat :=
  match code with
  | 0x62 => index
  | 0x42 => 32
  | 0x64 => 2
  | 0x65 => 4
  | 0x49 => 131072
  | 0x48 => 1
  | _ => 0

def State.csrGet (s : State) (code slab index : Nat) : Nat :=
  match tabFind s.csr (csrKey code slab index) with
  | some v => v.toNat
  | none => csrReset code index

def State.csrPut (s : State) (code slab index v : Nat) : State :=
  { s with csr := tabSet s.csr (csrKey code slab index) (word v) (word (csrReset code index)) }

/-! ## Folios -/

def State.folio (s : State) (id : Nat) : Option Folio := s.eng.folios.find? (·.id == id)

def State.modFolio (s : State) (id : Nat) (f : Folio → Folio) : State :=
  { s with eng := { s.eng with folios := s.eng.folios.map fun x => if x.id == id then f x else x } }

def State.folioOf (s : State) (k : Nat) : Option Folio :=
  match s.stroke k with
  | some t => s.folio t.decl.folio
  | none => none

/-! ## Engines, services, network -/

def State.modEng (s : State) (f : Engines → Engines) : State := { s with eng := f s.eng }
def State.modNet (s : State) (f : Net → Net) : State := { s with net := f s.net }
def State.modSvc (s : State) (f : Services → Services) : State := { s with svc := f s.svc }
def State.modPlat (s : State) (f : Platform → Platform) : State := { s with plat := f s.plat }
def State.modMem (s : State) (f : Memory → Memory) : State := { s with mem := f s.mem }

/-! ## Bandwidth buckets (R405) -/

/-- Bucket of a nib's port: the unit. Bucket of partition `p` at the port of a sampler core, and bucket of its engines on a slab. -/
def coreBucket (u p : Nat) : Nat := 2 ^ 20 + u * 256 + p
def engineBucket (slab p : Nat) : Nat := 2 ^ 24 + slab * 256 + p

/-- The slab of a bucket. -/
def bucketSlab (b : Nat) : Nat := if b < 2 ^ 20 then slabOf b else if b < 2 ^ 24 then slabOf ((b - 2 ^ 20) / 256) else (b - 2 ^ 24) / 256

/-- The bucket that a stroke's traffic draws from; none for partition 0 (R405). -/
def strokeBucket (k part : Nat) : Option Nat :=
  if part == 0 then none else if isSampler (unitOf k) then some (coreBucket (unitOf k) part) else some (unitOf k)

/-- `n` beats leave by a port, or wait at it: each takes a token while there is one (R405, R406). What waits is a matter of time. -/
def State.beat (s : State) (b : Option Nat) (n : Nat) : State :=
  match b with
  | none => s
  | some b => s.modPlat fun p =>
    { p with buckets := tabPut p.buckets b (tabGet p.buckets b 0 - n), beats := tabPut p.beats b (tabGet p.beats b 0 + n) }

/-- Beats of a stroke. -/
def State.strokeBeat (s : State) (k n : Nat) : State :=
  match s.stroke k with
  | some t => s.beat (strokeBucket k t.decl.part) n
  | none => s

/-- A reply for a slot is queued (R48). -/
def State.pushReply (s : State) (stroke serial slot : Nat) (tok : Token) : State :=
  s.modNet fun n => { n with replies := n.replies ++ [{ stroke, serial, slot, tok }] }


/-- An AFADD (R246). -/
def isAdd : AtomKind → Bool
  | .afadd .. => true
  | _ => false


/-! ## Links to peers (R411–R413) -/

/-- Key of a Wydal port among the links. -/
def wydalKey (port : Nat) : Nat := 4096 + port

def State.link (s : State) (key : Nat) : LinkEnd := tabGet s.plat.links key {}

def State.setLink (s : State) (key : Nat) (x : LinkEnd) : State := s.modPlat fun p => { p with links := tabPut p.links key x }

/-- The port that messages for a place of a peer take: all of one place take one port. -/
def State.peerPort (s : State) (peer : Nat) (place : Word) : Nat :=
  let l := (span 0 wydalPorts).filter (bit (s.csrGet 0x4A 0 (2 * peer)))
  (l[Config.portHash place % l.length]?).getD (tabGet s.plat.peerVia peer 0)

/-- A message for a peer comes to its port. -/
def State.sendPeer (s : State) (peer : Nat) (place : Word) (m : LinkMsg) : State :=
  let key := wydalKey (s.peerPort peer place)
  let x := s.link key
  s.setLink key { x with queue := x.queue ++ [m] }

/-- The messages that a flit of `room` bytes takes, and those that wait on; one is never larger than a flit. -/
def takeFlit (room : Nat) : List LinkMsg → List LinkMsg × List LinkMsg
  | [] => ([], [])
  | m :: t =>
    let n := min 240 (Config.messageBytes m.msg)
    if n ≤ room then let r := takeFlit (room - n) t; (m :: r.1, r.2) else ([], m :: t)

/-- A flit leaves: the other end has a credit for it, and the replay buffer of 128 flits a place (R411). -/
def LinkEnd.sendFlit (x : LinkEnd) : LinkEnd :=
  if x.queue.isEmpty || x.credits == 0 || x.buffer.length ≥ 128 then x
  else
    let r := takeFlit 240 x.queue
    { x with queue := r.2, send := (x.send + 1) % 4096, buffer := x.buffer ++ [(x.send, r.1)], credits := x.credits - 1 }

/-- Ports send what waits at them, a flit at a time. -/
def State.pumpLinks (s : State) : State :=
  s.plat.links.foldl (fun s e => if e.2.queue.isEmpty then s else s.setLink e.1 (s.link e.1).sendFlit) s

/-- Channel words in flight on links. -/
def State.linkWords (s : State) : List NetWord :=
  s.plat.links.flatMap fun e => (e.2.queue ++ e.2.buffer.flatMap (·.2)).filterMap (·.word)

/-- The peer, and the address in it, of a key of peer memory (Table 15-4, R374). -/
def peerOfKey (key : Nat) : Option (Nat × Nat) :=
  if 3 * 2 ^ 57 ≤ key && key < 4 * 2 ^ 57 then some (bits key 56 49, key % 2 ^ 49) else none

/-- The request of an access to peer memory leaves by a port; any other leaves none (R411). -/
def State.request (s : State) (key : Nat) (a : PeerAccess) (n : Nat) (data : List Byte) : State :=
  match peerOfKey key with
  | some (peer, pa) => s.sendPeer peer (word pa) { msg := .access a (pa / 2 ^ 48) (pa % 2 ^ 48) n data }
  | none => s

/-- Messages wait at the port that an access of peer memory takes: it takes no other (R411). -/
def State.portFull (s : State) (key : Nat) : Bool :=
  (peerOfKey key).any fun e => !(s.link (wydalKey (s.peerPort e.1 (word e.2)))).queue.isEmpty

/-! ## Births (log entry 2) -/

/-- The serial number that a newly placed stroke begins with. -/
def State.newSerial (s : State) : Nat := (s.eng.born + 1) * 2 ^ 64

/-- A new stroke stands in a residency slot. -/
def State.bear (s : State) (k : Nat) (t : Stroke) : State :=
  (s.setStroke k (t.modRun fun r => { r with serial := s.newSerial })).modEng fun e => { e with born := e.born + 1 }

end Sys2Proof.Machine
end

