-- ==== Sys2Proof/Machine/Memory.lean ====
section
/-!
DEFINITION. Machine/Memory.lean: memory keys, bytes at their homes, pending versions and what a reader sees of them
(R105, R106, R227–R235).
-/
namespace Sys2Proof.Machine

/-! ## Keys (log entry 2) -/

def physKey (tier pa : Nat) : Nat := tier * 2 ^ 57 + pa
def spadKey (unit off : Nat) : Nat := 2 ^ 60 + unit * 2 ^ 21 + off
def candKey (unit off : Nat) : Nat := 2 ^ 61 + unit * 2 ^ 23 + off
def accKey (unit off : Nat) : Nat := 2 ^ 62 + unit * 2 ^ 18 + off
def tileKey (unit off : Nat) : Nat := 2 ^ 63 + unit * 2 ^ 15 + off
def copyKey (slab obj off : Nat) : Nat := 2 ^ 64 + (slab * 1024 + obj) * 2 ^ 18 + off
def driveKey (port off : Nat) : Nat := 2 ^ 65 + port * 2 ^ 80 + off

/-- The key lies in the scratchpad of a unit. -/
def inSpad (unit key : Nat) : Bool := spadKey unit 0 ≤ key && key < spadKey (unit + 1) 0

/-- The granule of a key. -/
def granule (key : Nat) : Nat := key / 16

/-! ## Bytes at their homes -/

/-- What an unlisted byte reads as (log entry 3). -/
def unlisted : Byte := 0

def Memory.byte (m : Memory) (key : Nat) : Byte := tabGet m.cells key unlisted

def Memory.setByte (m : Memory) (key : Nat) (v : Byte) : Memory :=
  { m with cells := tabSet m.cells key v unlisted }

def Memory.bytes (m : Memory) (key : Nat) : Nat → List Byte
  | 0 => []
  | n + 1 => m.byte key :: m.bytes (key + 1) n

def Memory.setBytes (m : Memory) (key : Nat) : List Byte → Memory
  | [] => m
  | b :: bs => (m.setByte key b).setBytes (key + 1) bs

/-- Write `n` bytes at their home: a committed or nib-local write. -/
def Memory.put (m : Memory) (key n v : Nat) : Memory := m.setBytes key (toBytes v n)

/-- The canonical form: keys rise strictly and no entry equals what an unlisted byte reads as. -/
def cellsRise : Nat → List Host.Cell → Bool
  | _, [] => true
  | lo, (k, v) :: t => decide (lo ≤ k) && decide (v ≠ unlisted) && cellsRise (k + 1) t

abbrev Memory.wf (m : Memory) : Bool := cellsRise 0 m.cells

/-! ## Full bits and poison (R119, R418) -/

def Memory.isFull (m : Memory) (key : Nat) : Bool := tabGet m.full (granule key) false

def Memory.setFull (m : Memory) (key : Nat) (b : Bool) : Memory :=
  { m with full := tabSet m.full (granule key) b false }

/-- Set or clear the full bits of `n` granules from the one at `key`. -/
def Memory.setFulls (m : Memory) (key : Nat) (b : Bool) : Nat → Memory
  | 0 => m
  | n + 1 => (m.setFull key b).setFulls (key + 16) b n

/-- Number of granules that `n` bytes at `key` touch. -/
def granules (key n : Nat) : Nat := if n == 0 then 0 else (key + n - 1) / 16 - key / 16 + 1

/-- Bytes that share one check (Table 17-1, R419): 4 in tile registers and the accumulator store, 8 in candidate memory, a granule elsewhere. -/
def codeBytes (key : Nat) : Nat := if key < 2 ^ 61 then 16 else if key < 2 ^ 62 then 8 else if key < 2 ^ 64 then 4 else 16

/-- Start of the checked unit of a key. -/
def codeStart (key : Nat) : Nat := key / codeBytes key * codeBytes key

/-- `n` 4-byte words from the one at `key` on hold an uncorrectable error. -/
def Memory.poisonFrom (m : Memory) (key : Nat) : Nat → Memory
  | 0 => m
  | n + 1 => ({ m with poison := tabPut m.poison (key / 4) true }).poisonFrom (key + 4) n

/-- Bytes at `key` share a word with an error: the key of the granule. -/
def Memory.poisoned (m : Memory) (key n : Nat) : Option Nat :=
  ((m.poison.map (·.1)).find? fun w => w * 4 < key + n && key < w * 4 + 4).map (· / 4 * 16)

/-- TRAPVAL of UNCORR (R419): the physical address, or the scratchpad offset, of the granule. -/
def granuleVal (key : Nat) : Word :=
  if key < 2 ^ 60 then word (key % 2 ^ 57) else word (key % 2 ^ 21)

/-- The checked unit of a word lies whole in `n` bytes at `key`. -/
def wholeUnit (key n w : Nat) : Bool := key ≤ codeStart (w * 4) && codeStart (w * 4) + codeBytes (w * 4) ≤ key + n

/-- R419: a write that covers whole checked units clears their errors; a unit covered in part keeps its error. -/
def Memory.heal (m : Memory) (key n : Nat) : Memory := { m with poison := m.poison.filter fun e => !wholeUnit key n e.1 }

/-- A poisoned granule that a write of `n` bytes at `key` would cover only in part. -/
def Memory.partPoisoned (m : Memory) (key n : Nat) : Option Nat :=
  ((m.poison.map (·.1)).find? fun w =>
    codeStart (w * 4) < key + n && key < codeStart (w * 4) + codeBytes (w * 4) && !wholeUnit key n w).map (· / 4 * 16)

/-! ## Pending versions -/

/-- A reader: its stroke key (0 with `unit = anyEngine` for an engine), unit, slab and folio. -/
structure Reader where
  who : Nat
  unit : Nat
  slab : Nat
  folio : Nat
  /-- an engine reading for its launcher sees the launcher's versions up to this order number (R249) -/
  upto : Option Nat := none
  deriving DecidableEq, Repr

/-- R227: a boundary that the version has passed covers a reader, or a setting write or CBADV has shown it there (R121, R131). -/
def covers (p : PendByte) (r : Reader) : Bool :=
  p.scope ≥ 4 || (p.gang && p.folio == r.folio && p.folio != 0) || p.slabs.contains r.slab || p.also.contains r.unit

/-- The version is the reader's own. -/
def ownVersion (p : PendByte) (r : Reader) : Bool :=
  p.writer == r.who && (match r.upto with
    | some n => p.order ≤ n
    | none => true)

/-- The latest pending version of a byte that satisfies `f`. -/
def lastVersion (l : List PendByte) (f : PendByte → Bool) : Option PendByte :=
  l.foldl (fun acc p => if f p then some p else acc) none

/-- The value of a byte committed at module scope: a version that a module boundary has passed but whose home lies with the host or a
peer (R409, R253), else the byte at its home. -/
def Memory.committed (m : Memory) (key : Nat) : Byte :=
  match lastVersion m.pend fun p => p.key == key && p.scope ≥ 4 with
  | some p => p.val
  | none => m.byte key

def Memory.committedBytes (m : Memory) (key : Nat) : Nat → List Byte
  | 0 => []
  | n + 1 => m.committed key :: m.committedBytes (key + 1) n

/-- The little-endian value of `n` bytes as committed at module scope. -/
def Memory.get (m : Memory) (key n : Nat) : Nat := ofBytes (m.committedBytes key n)

/-- The value a reader sees now, its own pending versions aside. -/
def Memory.visible (m : Memory) (r : Reader) (key : Nat) : Byte :=
  match lastVersion m.pend fun p => p.key == key && covers p r with
  | some p => p.val
  | none => m.byte key

/-- R235: the value a plain load of one byte returns, given the value fixed for it in the reader's phase. -/
def Memory.loadByte (m : Memory) (r : Reader) (fixed : Option Byte) (key : Nat) : Byte :=
  match lastVersion m.pend fun p => p.key == key && ownVersion p r with
  | some p => p.val
  | none =>
    match fixed with
    | some v => v
    | none => m.visible r key

/-- The reader that a stroke is. -/
def State.readerOf (s : State) (k : Nat) : Reader :=
  let u := unitOf k
  match s.stroke k with
  | some t => { who := k, unit := u, slab := slabOf u, folio := t.decl.folio }
  | none => { who := k, unit := u, slab := slabOf u, folio := 0 }

/-- The reader that an engine on a slab is, reading for stroke `k` as of order number `upto` (R249). -/
def engineReader (slab k upto : Nat) : Reader :=
  { who := k, unit := anyEngine, slab := slab, folio := 0, upto := some upto }

/-- Bytes as a reader finds them now, its own versions first (R235, R249). -/
def Memory.engineBytes (m : Memory) (r : Reader) (key : Nat) : Nat → List Byte
  | 0 => []
  | n + 1 => m.loadByte r none key :: m.engineBytes r (key + 1) n

def Memory.engineGet (m : Memory) (r : Reader) (key n : Nat) : Nat := ofBytes (m.engineBytes r key n)

/-- R235, R111: the bytes of a granule become stable for a phase at one instant, so that no load sees a part of a store (log entry 66). -/
def State.fixGranule (s : State) (k g : Nat) : State :=
  s.modRun k fun x =>
    if (tabFind x.stable g).isSome then x else { x with stable := tabPut x.stable g (s.mem.engineBytes (s.readerOf k) (16 * g) 16) }

/-- The `n` granules from `g` on become stable. -/
def State.fixGranules (s : State) (k g : Nat) : Nat → State
  | 0 => s
  | n + 1 => (s.fixGranule k g).fixGranules k (g + 1) n

/-- The value of a byte that is stable in a phase. -/
def StrokeRun.fixed (r : StrokeRun) (key : Nat) : Option Byte := (tabFind r.stable (granule key)).bind (·[key % 16]?)

/-- What a stroke loads plainly from `n` bytes whose stable values stand (R235). -/
def State.ownBytes (s : State) (k : Nat) (own : Bool) (key : Nat) : Nat → List Byte
  | 0 => []
  | n + 1 =>
    s.mem.loadByte (s.readerOf k) (if own then none else (s.stroke k).bind fun t => t.run.fixed key) key :: s.ownBytes k own (key + 1) n

/-- R235: bytes that a stroke loads plainly. Those outside the stroke's own scratchpad become stable for its phase. -/
def State.loadBytes (s : State) (k key n : Nat) : List Byte × State :=
  let own := inSpad (unitOf k) key
  let s := if own then s else s.fixGranules k (granule key) (granules key n)
  (s.ownBytes k own key n, s.request key .read n [])

/-- Bytes that a stroke reads from where they stand: plainly, or with a full bit, which shows the data of the write that set it (R120; log entry 66). -/
def State.readBytes (s : State) (k : Nat) (full : Bool) (key n : Nat) : List Byte × State :=
  if full then (s.mem.engineBytes (s.readerOf k) key n, s) else s.loadBytes k key n

def State.load (s : State) (k key n : Nat) : Nat × State :=
  let (bs, s) := s.loadBytes k key n
  (ofBytes bs, s)

/-- R235 item "Own write": a committed write of stroke `k` is the latest write it has seen. -/
def State.restable (s : State) (k key : Nat) (bs : List Byte) : State :=
  s.modRun k fun x =>
    { x with stable := x.stable.map fun e => (e.1, e.2.zipIdx.map fun b =>
        let a := 16 * e.1 + b.2
        if key ≤ a && a < key + bs.length then bs.getD (a - key) 0 else b.1) }

/-- A nib-local write: a version that a boundary has passed, or that strokes of the nib see, has reached the bank before it (R230, R234). -/
def Memory.localWrite (m : Memory) (unit key : Nat) (bs : List Byte) : Memory :=
  let hit : PendByte → Bool := fun p => key ≤ p.key && p.key < key + bs.length && (p.scope > 0 || p.also.contains unit)
  ({ m with pend := m.pend.filter (!hit ·) }.setBytes key bs).heal key bs.length

/-- A committed write (Table 9-2). Versions of host or peer bytes that a module boundary has passed and that have not reached their home are
older: they are superseded. -/
def Memory.commitWrite (m : Memory) (key : Nat) (bs : List Byte) : Memory :=
  let old : PendByte → Bool := fun p => p.scope ≥ 4 && key ≤ p.key && p.key < key + bs.length
  ({ m with pend := m.pend.filter (!old ·) }.setBytes key bs).heal key bs.length

/-- Some reader other than its writer has been shown the version: by a boundary, a setting write or a CBADV (R121, R131, R230). -/
def PendByte.shown (p : PendByte) : Bool := p.scope > 0 || p.gang || !p.also.isEmpty || !p.slabs.isEmpty

/-- What goes home when the versions that satisfy `f` do, and what stays: a shown version of the same byte that stands before one of them goes home
first, so that no reader that has seen the later one comes back to it (R230, R234). -/
def splitHome (f : PendByte → Bool) : List PendByte → List PendByte × List PendByte
  | [] => ([], [])
  | p :: t =>
    let r := splitHome f t
    if f p || (p.shown && r.1.any (·.key == p.key)) then (p :: r.1, r.2) else (r.1, p :: r.2)

/-- Versions go home, oldest first (R230). -/
def Memory.home (m : Memory) (f : PendByte → Bool) : Memory :=
  let w := splitHome f m.pend
  { w.1.foldl (fun acc p => acc.setByte p.key p.val) m with pend := w.2 }

/-- R234, R239: before a committed write of `n` bytes by reader `r` is placed, the versions that stand before it go home: the writer's own, those
that a boundary has passed, and those that the writer's unit or the unit of the bank has been shown (log entry 67). -/
def Memory.homeSeen (m : Memory) (r : Reader) (bank : Option Nat) (key n : Nat) : Memory :=
  m.home fun p => key ≤ p.key && p.key < key + n &&
    (p.writer == r.who || p.scope > 0 || p.also.contains r.unit || bank.any p.also.contains)

/-- Distinct members of a list. -/
def distinct {α : Type} [BEq α] : List α → List α
  | [] => []
  | x :: t => let r := distinct t; if r.contains x then r else x :: r

/-- PHASENO.PEND: granules of a stroke not yet at their home (R229). -/
def Memory.pendCount (m : Memory) (k : Nat) : Nat :=
  (distinct ((m.pend.filter fun p => p.writer == k && p.scope < 4).map fun p => granule p.key)).length

/-- Granules that a write adds to the pending granules of its writer. -/
def newGranules (m : Memory) (k key n : Nat) : List Nat :=
  (span (key / 16) (granules key n)).filter fun g => !(m.pend.any fun p => p.writer == k && p.scope < 4 && granule p.key == g)

/-- The smallest pending share of a well, in granules (R229, R375). -/
def State.minShare (s : State) : Nat :=
  (s.csr.foldl (fun a e => if e.1 / 1048576 == 0x42 then min a (bits e.2.toNat 5 0) else a) 32) * 4096

/-- Granules that wells hold pending, each with the writer that its version is tagged with. What a module boundary has passed is no longer
counted (R229). -/
def Memory.pendGranules (m : Memory) : List (Nat × Nat) := distinct ((m.pend.filter (·.scope < 4)).map fun p => (p.writer, granule p.key))

/-- R229: a pending write of `n` bytes fits the writer's limit and the limits of the wells that its granules fall to. -/
def State.pendFits (s : State) (k key n : Nat) : Bool :=
  let new := newGranules s.mem k key n
  let all := s.mem.pendGranules
  new.isEmpty ||
    (s.mem.pendCount k + new.length ≤ 4096 &&
      (all.length + new.length ≤ s.minShare ||
        new.all fun g =>
          let w := Config.wellOf g
          let here := fun (l : List Nat) => (l.filter fun h => Config.wellOf h == w).length
          here (all.map (·.2)) + here new ≤ bits (s.csrGet 0x42 (w / 32) (w % 32)) 5 0 * 4096))

/-- The versions that a pending write adds, in order of address. Older ones of the same bytes stay: an engine launched before the write still
reads them (R249), and a boundary before it still shows them. -/
def pushPend (w f o key : Nat) : List PendByte → List Byte → List PendByte
  | l, [] => l
  | l, b :: bs => pushPend w f o (key + 1) (l ++ [{ writer := w, folio := f, order := o, key := key, val := b }]) bs

/-- A pending write of stroke `k` (R229): the caller has checked that it fits. The writer goes on seeing it in its phase, should a later version of
another stroke bring it home (R235). -/
def State.pendWrite (s : State) (k key : Nat) (bs : List Byte) : State :=
  match s.stroke k with
  | none => s
  | some t =>
    let o := s.mem.order + 1
    ((s.modMem fun m =>
      { m with order := o, pend := pushPend k t.decl.folio o key m.pend bs }.heal key bs.length).restable k key bs).request key .write bs.length bs

/-- A committed write of stroke `k` to a place that is not nib-local to it (Table 9-2): it is placed as it performs, after what the stroke and the
nib of its bank have seen (R234), and the stroke sees it from then on (R235). -/
def State.commitOwn (s : State) (k : Nat) (bank : Option Nat) (key : Nat) (bs : List Byte) : State :=
  (s.modMem fun m => ((m.homeSeen (s.readerOf k) bank key bs.length).setBytes key bs).heal key bs.length).restable k key bs

/-- Make a writer's versions in a key range visible to the given units as well (R121, R131). -/
def Memory.reveal (m : Memory) (w lo hi : Nat) (units : List Nat) : Memory :=
  { m with pend := m.pend.map fun p =>
      if p.writer == w && lo ≤ p.key && p.key < hi then { p with also := distinct (p.also ++ units) } else p }

/-- The byte's home lies in host or peer memory. -/
def outsideKey (key : Nat) : Bool := 2 * 2 ^ 57 ≤ key && key < 4 * 2 ^ 57

/-- A version passes a boundary of a scope below system, of a stroke of unit `u`. -/
def PendByte.pass (p : PendByte) (u sc : Nat) : PendByte :=
  { p with scope := max p.scope sc, gang := p.gang || sc == 2, also := if sc == 1 then distinct (p.also ++ [u]) else p.also,
           slabs := if sc == 3 then distinct (p.slabs ++ [slabOf u]) else p.slabs }

/-- R230: the effect of a boundary of scope `sc` on the versions of a writer up to an order number. A module boundary brings versions
home, but for those of host and peer memory, which a system boundary writes there (R253, R409). A boundary shows versions to the readers it covers and
to no other, and a narrower one than module brings none home (log entry 67). -/
def Memory.passBoundary (m : Memory) (w sc upto : Nat) : Memory :=
  let mine : PendByte → Bool := fun p => p.writer == w && p.order ≤ upto
  if sc ≥ 5 then m.home mine
  else
    let m := if sc == 4 then m.home fun p => mine p && !outsideKey p.key else m
    { m with pend := m.pend.map fun p => if mine p then p.pass (unitOf w) sc else p }

/-- R252: the versions of a stroke ended by the supervisor vanish. -/
def Memory.discard (m : Memory) (w : Nat) : Memory := { m with pend := m.pend.filter (·.writer != w) }

/-! ## Recorded replay (R424) -/

/-- MODE of REPLAY: 0 off, 1 records, 2 replays. -/
def State.replayMode (s : State) : Nat := bits (s.csrGet 0x63 0 0) 63 62

/-- The next choice is taken from the log. -/
def State.replaying (s : State) : Bool := s.replayMode == 2 && !s.log.ring.isEmpty

/-- A choice, which found `f` free values drawn, joins the log while the module records. After one that was replayed, values go on where none has been
drawn. -/
def State.record (s : State) (p : Pick) (f : Nat) : State :=
  if s.replayMode == 1 then { s with log := { s.log with made := s.log.made ++ [(p, f)] } }
  else if s.replayMode == 2 then { s with fresh := max s.fresh s.log.drawn }
  else s

/-- Entries that the log ring holds at most: LOGTAIL numbers 4,096, and a full ring keeps one apart from an empty one (log entry 62). -/
def ringRoom : Nat := 4095

/-- The address of a place of the log ring, in tier one (log entry 62). -/
def State.ringPlace (s : State) (i : Nat) : Nat := bits (s.csrGet 0x63 0 1) 56 12 * 4096 + i % 4096 * Config.logPitch

/-- At a round edge the choices of the round are written into the ring, as far as it has room. -/
def State.writeLog (s : State) : State :=
  let n := min (ringRoom - s.log.ring.length) s.log.made.length
  if s.replayMode == 1 then
    { s with
      mem := (span s.log.written n).foldl (fun m i => m.commitWrite (physKey 0 (s.ringPlace i)) (Config.logEntry i)) s.mem,
      log := { s.log with made := s.log.made.drop n, ring := s.log.ring ++ s.log.made.take n, written := s.log.written + n } }
  else s

/-- Choices are left for which the ring has no room: issue stalls at the edge. -/
def State.logStalls (s : State) : Bool := s.replayMode == 1 && !s.log.made.isEmpty

/-- LOGTAIL moves to `t`: the entries before it leave the ring. -/
def State.logTail (s : State) (t : Nat) : State :=
  let n := (t + s.log.ring.length + 4096 - s.log.written % 4096) % 4096
  { s with log := { s.log with ring := s.log.ring.drop n } }

end Sys2Proof.Machine
end

