-- ==== Sys2Proof/Machine/Translate.lean ====
section
/-!
DEFINITION. Machine/Translate.lean: partitions of units and peers, the region table, page tables, the walk and its checks,
cached translations, and the location of an access (R108, R110, R378–R394).
-/
namespace Sys2Proof.Machine

/-! ## Partitions and peers -/

/-- R400: the partition of a unit of the module: none for an unassigned user nib. -/
def State.unitPart (s : State) (u : Nat) : Option Nat :=
  if nibOf u < 160 then
    let p := bits (s.csrGet 0x46 (slabOf u) (nibOf u)) 7 0
    if p == 0 then none else some p
  else some 0

/-- The partition of a place (R402): on a sampler core that of the stroke that owns the channel. -/
def State.placePart (s : State) (place : Nat) : Option Nat :=
  let u := place / 64
  if isSampler u then
    some (((s.channelOwner u (place % 64)).bind fun k => (s.stroke k).map (·.decl.part)).getD 0)
  else s.unitPart u

/-- The NIB field of a place word names a nib or a sampler core (R328). -/
def placeNibOk (nib : Nat) : Bool := nib ≤ 167 || nib == 0xF0 || nib == 0xF1

/-- R412: the peer number names a configured peer. -/
def State.peerOk (s : State) (e : Nat) : Bool := e < 64 && bit (s.csrGet 0x4A 0 (2 * e)) 63

/-! ## Page tables -/

/-- A leaf as a walk read it. -/
structure Leaf where
  level : Nat
  w0 : Nat
  w1 : Nat
  part : Nat
  sonly : Bool
  /-- tier-one address of the entry -/
  at_ : Nat := 0
  deriving DecidableEq, Repr

inductive Walk where
  | fault (code level : Nat)
  /-- an entry of the walk shares this granule with an uncorrectable error (R418) -/
  | poison (granule : Nat)
  | leaf (l : Leaf)
  deriving DecidableEq, Repr

/-- Tier-one limit of Table 15-4. -/
def tierOne : Nat := 0x3000000000
def tierTwo : Nat := 0x18000000000

/-- Bits of offset within a leaf of each level (Table 15-2). -/
def leafBits (level : Nat) : Nat := 64 - 12 * level

/-- PA<56:16> of an entry word. -/
def entryPa (w : Nat) : Nat := bits w 56 16 * 65536

/-- R382. -/
def malformed (w0 w1 level : Nat) : Bool :=
  if !bit w0 61 then
    level == 4 || w1 != 0 || w0 % 2 ^ 63 != entryPa w0 || entryPa w0 ≥ tierOne
  else
    let sz := leafBits level
    level == 1 || bits w0 60 57 != 0 || bit w0 0 || bits w1 62 57 != 0 || bits w1 15 8 != 0 ||
      bit w0 9 || (bit w0 14 && !bit w0 15) ||
      (let f := bits w0 7 4; 9 ≤ f && f ≤ 14) ||
      entryPa w0 % 2 ^ sz != 0 || (bit w1 63 && entryPa w1 % 2 ^ sz != 0)

/-- The walk of R385 from a table at `t` of level `level`; each entry is read as committed at module scope. -/
def walkFrom (m : Memory) (off part : Nat) (sonly : Bool) : Nat → Nat → Nat → Walk
  | 0, _, level => .fault 0x62 level
  | fuel + 1, t, level =>
    let a := t + 16 * bits off (75 - 12 * level) (64 - 12 * level)
    let w0 := m.get (physKey 0 a) 8
    let w1 := m.get (physKey 0 (a + 8)) 8
    match m.poisoned (physKey 0 a) 16 with
    | some g => .poison g
    | none =>
      if !bit w0 63 then .fault 0x62 level
      else if malformed w0 w1 level then .fault 0x63 level
      else if bit w0 61 then .leaf { level, w0, w1, part, sonly, at_ := a }
      else walkFrom m off part sonly fuel (entryPa w0) (level + 1)

/-- R379, R385: the region entry, then the tables; `check` decides on the region entry's PART and SONLY. -/
def State.walk (s : State) (region off : Nat) (check : Nat → Bool → Bool) : Walk :=
  let rb := s.csrGet 0x50 0 0
  let a := bits rb 56 20 * 1048576 + 16 * region
  let re := s.mem.get (physKey 0 a) 8
  if !bit rb 63 then .fault 0x60 0
  else match s.mem.poisoned (physKey 0 a) 8 with
    | some g => .poison g
    | none =>
      if !bit re 63 then .fault 0x60 0
      else if !check (bits re 15 8) (bit re 62) then .fault 0x61 0
      else walkFrom s.mem off (bits re 15 8) (bit re 62) 4 (entryPa re) 1

/-- R65: the format fields are a legal combination. -/
def formatOk (w0 : Nat) : Bool :=
  let fmt := bits w0 7 4
  let blk := bits w0 3 2
  let scl := bit w0 1
  if blk == 0 then !scl else scl && (fmt == 3 || fmt == 4 || fmt == 5)

/-- R383: the leaf's whole extent lies in its tier. -/
def State.extentOk (s : State) (l : Leaf) : Bool :=
  let pa := entryPa l.w0
  let top := pa + 2 ^ leafBits l.level
  match bits l.w0 11 10 with
  | 0 => top ≤ tierOne
  | 1 => top ≤ tierTwo
  | 2 => true
  | _ => s.peerOk (bits pa 56 49)

/-- Table 15-5. -/
def permits (w0 kind : Nat) : Bool :=
  match kind with
  | 2 => bit w0 14
  | 3 => bit w0 15 && bit w0 14
  | 4 => bit w0 13
  | _ => bit w0 15

/-- A translated access. -/
structure Phys where
  tier : Nat
  pa : Nat
  leaf : Leaf
  region : Nat
  off : Nat
  deriving DecidableEq, Repr

def Phys.key (p : Phys) : Nat := physKey p.tier p.pa
def Phys.fmt (p : Phys) : Nat := bits p.leaf.w0 7 4
def Phys.scaled (p : Phys) : Bool := bit p.leaf.w0 1
def Phys.blockLen (p : Phys) : Nat := 8 * 2 ^ bits p.leaf.w0 3 2
/-- Table 15-3: the shadow physical address of the same byte, when there is one. -/
def Phys.shadow (p : Phys) : Option Nat :=
  if bit p.leaf.w1 63 then some (entryPa p.leaf.w1 + p.off % 2 ^ leafBits p.leaf.level) else none

inductive Trans where
  | fault (code level : Nat)
  /-- the walk met an uncorrectable error, at this granule -/
  | poison (granule : Nat)
  | absent
  | ok (p : Phys)
  deriving DecidableEq, Repr

/-- The checks of R385 that follow the walk. -/
def State.checkLeaf (s : State) (l : Leaf) (priv region off kind : Nat) : Trans :=
  if !permits l.w0 kind || (priv == 0 && !bit l.w0 12) then .fault 0x64 l.level
  else if !formatOk l.w0 || (bit off 60 && bits l.w0 7 4 != 15) then .fault 0x65 l.level
  else if !bit l.w0 62 then .absent
  else if !s.extentOk l then .fault 0x66 l.level
  else .ok { tier := bits l.w0 11 10, pa := entryPa l.w0 + off % 2 ^ leafBits l.level, leaf := l, region, off }

/-- What a walk gives an access. -/
def State.checkWalk (s : State) (w : Walk) (priv region off kind : Nat) : Trans :=
  match w with
  | .fault c l => .fault c l
  | .poison g => .poison g
  | .leaf l => s.checkLeaf l priv region off kind

/-- R385: a fresh walk for a requester of partition `part` at privilege `priv`. -/
def State.translate (s : State) (part priv region off kind : Nat) : Trans :=
  s.checkWalk (s.walk region off fun p sonly => p == part && !(sonly && priv == 0)) priv region off kind

/-! ## Cached translations (R392–R394) -/

/-- The entry covers an offset of a region. -/
def TlbEntry.covers (e : TlbEntry) (region off : Nat) : Bool :=
  e.region == region && e.page * 65536 / 2 ^ leafBits e.level == off / 2 ^ leafBits e.level

/-- The pages that an entry of a level covers with a page: the first, and how many. -/
def leafPages (level page : Nat) : Nat × Nat :=
  let n := 2 ^ leafBits level / 65536
  (page / n * n, n)

/-- The newest entry that satisfies `f`. -/
def lastEntry (l : List TlbEntry) (f : TlbEntry → Bool) : Option TlbEntry := l.foldl (fun a e => if f e then some e else a) none

/-- The deepest entry of a list, the newest of two of one level. -/
def deepest (l : List TlbEntry) : Option TlbEntry :=
  l.foldl (fun a e => match a with
    | some d => if e.level ≥ d.level then some e else some d
    | none => some e) none

/-- The walk from a cached pointer or region entry on. -/
def State.walkBelow (s : State) (e : TlbEntry) (off : Nat) : Walk := walkFrom s.mem off e.part e.sonly (4 - e.level) (entryPa e.w0) (e.level + 1)

/-- R393: what is cached for an address: a leaf, else the deepest pointer or region entry. The requester's own come before any other's, and a leaf that
is gone bars every other, so that a stroke does not go back to a value older than one it has used (R394). -/
def State.cachedFor (s : State) (who region off : Nat) : Option TlbEntry :=
  let own := s.mem.tlb.filter fun e => e.unit == who && e.covers region off
  let all := s.mem.tlb.filter fun e => !e.gone && e.covers region off
  match lastEntry own (·.leaf) with
  | some e => if e.gone then none else some e
  | none => (lastEntry all (·.leaf)).orElse fun _ => (deepest (own.filter (!·.gone))).orElse fun _ => deepest all

/-- The translation that a cached value gives: that of a leaf, else that of the tables below a pointer or region entry. -/
def State.fromCached (s : State) (e : TlbEntry) (part priv region off kind : Nat) : Trans :=
  if e.part != part || (e.sonly && priv == 0) then .fault 0x61 0
  else s.checkWalk (if e.leaf then .leaf { level := e.level, w0 := e.w0, w1 := e.w1, part := e.part, sonly := e.sonly } else s.walkBelow e off)
    priv region off kind

/-- R393: the translation that what is cached gives, if anything is. -/
def State.oldTranslate (s : State) (who part priv region off kind : Nat) : Option Trans :=
  (s.cachedFor who region off).map fun e => s.fromCached e part priv region off kind

/-- The pointer entries that a walk passes from a table on, with their levels. -/
def pointersFrom (m : Memory) (off : Nat) : Nat → Nat → Nat → List (Nat × Nat)
  | 0, _, _ => []
  | fuel + 1, t, level =>
    let w := m.get (physKey 0 (t + 16 * bits off (75 - 12 * level) (64 - 12 * level))) 8
    if bit w 61 then [] else (level, w) :: pointersFrom m off fuel (entryPa w) (level + 1)

/-- The region entry's word. -/
def State.regionWord (s : State) (region : Nat) : Nat := s.mem.get (physKey 0 (bits (s.csrGet 0x50 0 0) 56 20 * 1048576 + 16 * region)) 8

/-- The engines of a slab, as requesters of translations. -/
def engineWho (slab : Nat) : Nat := 2 ^ 51 + slab

/-- The slab whose TLB serves a requester. -/
def tlbSlab (who : Nat) : Nat := if 2 ^ 51 ≤ who then who - 2 ^ 51 else slabOf (unitOf who)

/-- A new entry takes the place of the requester's entry for the same extent. -/
def tlbAdd (l : List TlbEntry) (e : TlbEntry) : List TlbEntry :=
  (l.filter fun x => !(x.unit == e.unit && x.leaf == e.leaf && x.level == e.level && x.covers e.region (e.page * 65536))) ++ [e]

/-- R398: a walk begins for a leaf that the slab's TLB lacks. -/
def State.countWalk (s : State) (who region off : Nat) : State :=
  let slab := tlbSlab who
  if s.mem.tlb.any fun x => x.leaf && !x.gone && tlbSlab x.unit == slab && x.covers region off then s
  else s.modMem fun m => { m with misses := tabPut m.misses slab (tabGet m.misses slab 0 + 1) }

/-- R392: a walk that succeeded leaves its leaf in the TLBs, and one from the region entry on leaves in the walkers the entries it passed. -/
def State.fillTlb (s : State) (who : Nat) (whole : Bool) (p : Phys) : State :=
  let e : TlbEntry := { unit := who, region := p.region, page := p.off / 65536, level := p.leaf.level,
                        w0 := p.leaf.w0, w1 := p.leaf.w1, part := p.leaf.part, sonly := p.leaf.sonly }
  let path := if whole then
      (0, s.regionWord p.region) :: pointersFrom s.mem p.off 3 (entryPa (s.regionWord p.region)) 1
    else []
  s.modMem fun m =>
    { m with tlb := tlbAdd (path.foldl (fun l x => tlbAdd l { e with leaf := false, level := x.1, w0 := x.2, w1 := 0 }) m.tlb) e }

/-- A walk has ended in `r`. One that gave its stroke no page leaves a mark, so that what was cached before serves that page no more (R394). -/
def State.walked (s : State) (who region off : Nat) (whole : Bool) (r : Trans) : State :=
  let s := s.countWalk who region off
  let mark : TlbEntry := { unit := who, region, page := off / 65536, level := 4, w0 := 0, w1 := 0, part := 0, sonly := false, gone := true }
  match r with
  | .ok p => s.fillTlb who whole p
  | _ => s.modMem fun m => { m with tlb := tlbAdd m.tlb mark }

/-- A leaf from a TLB becomes an entry of the requester's own, which it has used (R394). -/
def State.useLeaf (s : State) (who : Nat) (e : TlbEntry) : State := s.modMem fun m => { m with tlb := tlbAdd m.tlb { e with unit := who } }

/-- A stroke's translation: by a fresh walk, or from what is cached when the step's choice says so (R393, R394). -/
def State.translateFor (s : State) (k : Nat) (stale : Bool) (region off kind : Nat) : Trans × State :=
  match s.stroke k with
  | none => (.fault 0x60 0, s)
  | some t =>
    let priv := unitPriv (unitOf k)
    match (if stale then s.cachedFor k region off else none) with
    | some e =>
      let r := s.fromCached e t.decl.part priv region off kind
      (r, if e.leaf then s.useLeaf k e else s.walked k region off false r)
    | none =>
      let r := s.translate t.decl.part priv region off kind
      (r, s.walked k region off true r)

/-- Two translations that an access cannot tell apart. -/
def sameTrans (a b : Trans) : Bool :=
  match a, b with
  | .ok p, .ok q => p.tier == q.tier && p.pa == q.pa && p.leaf.w0 == q.leaf.w0 && p.leaf.w1 == q.leaf.w1
  | .fault a x, .fault b y => a == b && x == y
  | .absent, .absent => true
  | .poison a, .poison b => a == b
  | _, _ => false

/-- R393: an access that no slot makes, a fetch or one of a stream, may use an older value: a free choice where it differs. -/
def State.drawStale (s : State) (k region off kind : Nat) : Bool × State :=
  match s.stroke k with
  | none => (false, s)
  | some t =>
    let priv := unitPriv (unitOf k)
    match s.oldTranslate k t.decl.part priv region off kind with
    | none => (false, s)
    | some old => if sameTrans old (s.translate t.decl.part priv region off kind) then (false, s) else s.drawBool

/-- R386, R393: an engine's translation, by a walk, or from what is cached where that differs and the part chooses so. -/
def State.translateEng (s : State) (part priv region off kind : Nat) : Trans :=
  let new := s.translate part priv region off kind
  match s.oldTranslate noStroke part priv region off kind with
  | some old => if !sameTrans old new && Config.engineStale s.fresh off then old else new
  | none => new

/-- An engine of a slab has used a page: by a walk, where its slab's engines do not hold the leaf. -/
def State.touch (s : State) (slab : Nat) (p : Phys) : State :=
  if s.mem.tlb.any fun e => e.leaf && !e.gone && e.unit == engineWho slab && e.covers p.region p.off && e.w0 == p.leaf.w0 && e.w1 == p.leaf.w1 then s
  else (s.countWalk (engineWho slab) p.region p.off).fillTlb (engineWho slab) true p

/-- A cached translation is evicted. A stroke's own leaf stays on record, as what the stroke has used (R394). -/
def evictTlb (n : Nat) (s : State) : State :=
  match s.mem.tlb[n]? with
  | none => s
  | some e => s.modMem fun m => { m with tlb := if e.leaf then listSet m.tlb n { e with gone := true } else listDrop m.tlb n }

/-- R387: TRAPVAL of a translation fault. -/
def transVal (off : Nat) (areg : Bool) (level kind : Nat) : Word :=
  word (off / 65536 * 65536 + (if areg then 256 else 0) + level * 16 + kind)

/-- The page table entry's second word and first word are replaced, as one committed write (R391). -/
def State.writeLeaf (s : State) (l : Leaf) (w0 w1 : Nat) : State :=
  s.modMem fun m => (m.put (physKey 0 l.at_) 8 w0).put (physKey 0 (l.at_ + 8)) 8 w1

/-! ## Nib addresses (R108) -/

def nibSelf (a : Nat) : Bool := bits a 32 29 == 15 && bits a 28 21 == 255

def nibMalformed (a : Nat) : Bool :=
  let slab := bits a 32 29
  let nib := bits a 28 21
  a / 2 ^ 33 != 0 || (12 ≤ slab && slab ≤ 14) || (slab == 15 && nib != 255) || (slab < 12 && nib ≥ 168)

def nibUnit (a : Nat) : Nat := unitNum (bits a 32 29) (bits a 28 21)

/-- The absolute form names a nib of the given partition. -/
def State.nibInPart (s : State) (a part : Nat) : Bool := s.unitPart (nibUnit a) == some part

/-! ## Location (R110) -/

/-- Where an access goes. -/
inductive Loc where
  | trap (code : Nat) (val : Word)
  /-- the page of the region is not present (R388) -/
  | absent (region page : Nat)
  /-- the port to the peer takes no message yet (R411) -/
  | busy
  | spad (unit off : Nat)
  | mem (p : Phys)
  deriving DecidableEq, Repr

def trUNCORR : Nat := 0x0E
def trBADPA : Nat := 0x66
def trMISALIGN : Nat := 0x10
def trSPADWIN : Nat := 0x11
def trNIBADDR : Nat := 0x12
def trSIZEFMT : Nat := 0x13

/-- Bits 79:64 of a stroke's addresses in a virtual space (Table 5-2). -/
def Stroke.region (t : Stroke) (areg : Bool) : Nat :=
  if areg then t.regs.aregion.toNat else t.regs.pc.toNat / 2 ^ 64

/-- Beats of 64 bytes that `n` bytes take (R405). -/
def beatsOf (n : Nat) : Nat := (n + 63) / 64

/-- `n` beats leave the port of a nib (R405). -/
def State.portBeat (s : State) (u n : Nat) : State := s.beat ((s.unitPart u).filter (· != 0) |>.map fun _ => u) n

/-- The traffic of an access of `n` bytes to the scratchpad of another nib: the request, with the data of a write, leaves the stroke's port, and the reply,
with the data of a read, that of the nib (R405). -/
def State.spadBeats (s : State) (k u n kind : Nat) : State :=
  (s.strokeBeat k (if kind == 2 then beatsOf n else 1)).portBeat u (if kind == 1 then beatsOf n else 1)

/-- A virtual access of a stroke. -/
def State.locateVa (s : State) (k : Nat) (stale areg : Bool) (a kind : Nat) : Loc × State :=
  match s.stroke k with
  | none => (.trap 0x60 0, s)
  | some t =>
    let region := t.region areg
    match s.translateFor k stale region a kind with
    | (.ok p, s') =>
      let s' := s'.strokeBeat k 1
      -- R413: a peer may refuse an access
      if p.tier == 3 then
        let (b, s') := s'.drawBool
        if s'.portFull p.key then (.busy, s')
        else if b then (.mem p, s') else (.trap 0x66 (transVal a areg p.leaf.level kind), s')
      else (.mem p, s')
    | (.absent, s') => (.absent region (a / 65536), s')
    | (.poison g, s') => (.trap trUNCORR (granuleVal g), s')
    | (.fault c l, s') => (.trap c (transVal a areg l kind), s')

/-- The format of the page of an address, present or not, once a walk finds its leaf. -/
def State.pageFmt (s : State) (k : Nat) (areg : Bool) (a : Nat) : Option Nat :=
  match s.stroke k with
  | none => none
  | some t =>
    match s.walk (t.region areg) a fun p sonly => p == t.decl.part && !(sonly && unitPriv (unitOf k) == 0) with
    | .leaf l => some (bits l.w0 7 4)
    | _ => none

/-- The own window: n bytes at an offset. -/
def Stroke.window (t : Stroke) (k off n : Nat) : Loc :=
  if off + n > t.decl.wsize then .trap trSPADWIN (word off) else .spad (unitOf k) (t.decl.wbase + off)

/-- R110. A self-form address with a bit of 63:33 set is malformed (R108; log entry 65). No nib address names the scratchpad of a sampler core
(R327). -/
def State.locate (s : State) (k : Nat) (stale : Bool) (space a n kind : Nat) : Loc × State :=
  match s.stroke k with
  | none => (.trap 0x60 0, s)
  | some t =>
    if a % n != 0 then (.trap trMISALIGN (word a), s)
    else if space == 0 then (t.window k a n, s)
    else if space == 2 then
      if nibMalformed a || (nibSelf a && isSampler (unitOf k)) then (.trap trNIBADDR (word a), s)
      else if nibSelf a then (t.window k (bits a 20 0) n, s)
      else if bits a 20 0 + n > 0x180000 || !s.nibInPart a t.decl.part then (.trap trNIBADDR (word a), s)
      else (.spad (nibUnit a) (bits a 20 0), s.spadBeats k (nibUnit a) n kind)
    else s.locateVa k stale (space == 3) a kind

end Sys2Proof.Machine
end

