-- ==== Sys2Proof/Machine/Ops.lean ====
section
/-!
DEFINITION. Machine/Ops.lean: the shared operations over a running instance: tokens and their delivery (R37–R46), the order of
firing (R50, R51), firing itself (R42, R44), taking a trap and its report (R348–R353), pages that are not present (R388, R389),
and posting words (R145).
-/
namespace Sys2Proof.Machine

/-! ## Trap codes (Table 14-3) -/

def trREQUEST : Nat := 0x01
def trILLBLOCK : Nat := 0x02
def trTOKENCLASH : Nat := 0x03
def trMULTIEXIT : Nat := 0x04
def trEARLYEXIT : Nat := 0x05
def trNOEXIT : Nat := 0x06
def trUNBOUNDPORT : Nat := 0x07
def trPCALIGN : Nat := 0x08
def trNOCOMMIT : Nat := 0x09
def trPRIVCSR : Nat := 0x0A
def trCSRBAD : Nat := 0x0B
def trFRZBAD : Nat := 0x0C
def trCTXBAD : Nat := 0x0D
def trCBDESC : Nat := 0x14
def trCBRANGE : Nat := 0x15
def trSTREAMBIND : Nat := 0x16
def trSTREAMEND : Nat := 0x17
def trHNDMODE : Nat := 0x18
def trCHANIDX : Nat := 0x19
def trNOHANDLER : Nat := 0x1A
def trPLACE : Nat := 0x1B
def trBARIDX : Nat := 0x1C
def trBARTWICE : Nat := 0x1D
def trCHAINID : Nat := 0x1E
def trRSVOPND : Nat := 0x1F
def trLCFGBAD : Nat := 0x20
def trRUNDESC : Nat := 0x21
def trMDESC : Nat := 0x22
def trMCTL : Nat := 0x23
def trMFMT : Nat := 0x24
def trROUTEBAD : Nat := 0x25
def trATOMOWN : Nat := 0x28
def trAFSEQ : Nat := 0x29
def trSCRANGE : Nat := 0x2A
def trPHASEOVF : Nat := 0x2B
def trPUBFAIL : Nat := 0x2C
def trWGRPBAD : Nat := 0x30
def trWASHBUSY : Nat := 0x31
def trWASHGRP : Nat := 0x32
def trWASHARG : Nat := 0x33
def trWASHPOIS : Nat := 0x34
def trCPOBJ : Nat := 0x38
def trCPMETH : Nat := 0x39
def trCPDEFBAD : Nat := 0x3A
def trCPBUSY : Nat := 0x3B
def trLOGFULL : Nat := 0x3C
def trPIPESTATE : Nat := 0x40
def trPIPEWIN : Nat := 0x41
def trPIPEFULL : Nat := 0x42
def trPIPEREG : Nat := 0x43
def trKVROW : Nat := 0x44
def trSMPCTX : Nat := 0x48
def trTOPKARG : Nat := 0x49
def trSMPARG : Nat := 0x4A
def trJRNLFULL : Nat := 0x4B
def trCNTFULL : Nat := 0x4C
def trGRAMBAD : Nat := 0x4D
def trTREEORD : Nat := 0x4E
def trMASKBAD : Nat := 0x4F
def trNOREGION : Nat := 0x60

/-! ## Posting words (R145, R353) -/

/-- Rounds whose edge the region of a stroke has passed (R160). -/
def State.edgeOf (s : State) (k : Nat) (t : Stroke) : Nat :=
  (s.unit (unitOf k)).edges.getD (t.run.region.getD 0) 0

/-- A word is sent to a place of this module, in the round that the last marker began (R158). -/
def State.post (s : State) (sender : Sender) (place : Nat) (w : Word) (kind : Nat := 0) : State :=
  s.modNet fun n => { n with words := n.words ++ [{ sender, place, word := w, round := s.rounds.issued, kind }] }

/-- The place named by bits 17:0 of a place word. -/
def placeOfWord (w : Nat) : Nat := placeNum (bits w 17 14) (bits w 13 6) (bits w 5 0)

/-- R353: where reports of partition `p`, or of a stroke of slab `slab`, go. -/
def State.reportPlace (s : State) (u : Nat) (part : Option Nat) : Nat :=
  let dflt := placeNum (slabOf u) 162 0
  match part with
  | none => dflt
  | some p =>
    let t := s.csrGet 0x43 0 p
    if unitPriv u == 0 && bit t 63 then placeOfWord t else dflt

/-- Table 14-4: the trap report. -/
def trapReport (k code : Nat) (deferred : Bool) : Word :=
  word (0x7E * 2 ^ 56 + code * 2 ^ 48 + (if deferred then 2 ^ 18 else 0) + strokeWord k)

/-- R420: an error report word of Table 17-2. -/
def errorReport (ue : Bool) (kind slab unit : Nat) : Word :=
  word (0xEE * 2 ^ 56 + (if ue then 2 ^ 55 else 0) + kind * 2 ^ 51 + slab * 2 ^ 47 + unit * 2 ^ 39)

/-! ## Taking a trap (R348–R353) -/

/-- The trap-state registers of R348. -/
def StrokeRegs.setTrap (r : StrokeRegs) (code slot : Nat) (val : Word) (deferred self : Bool) : StrokeRegs :=
  { r with trapcause := word (code + (if deferred then 256 else 0) + (if self then 32768 else 0)),
           trapslot := word slot, trapval := val }

/-- R49, R72: a block trap ends its instance; its raised flags reach FLAGS and its clear set is dropped. -/
def Stroke.endInstance (t : Stroke) : Stroke :=
  match t.run.inst with
  | some i =>
    { t with
      regs := { t.regs with flags := flagsAtTrap t.regs.flags i.raised t.run.lateFlags },
      run := { t.run with inst := some { i with raised := 0, clear := 0 }, lateFlags := 0 } }
  | none => t

/-- The one entry into a trap: the stroke's trap state is set, its region freezes with every token in place, it becomes TRAPPED,
and the report is posted. Slots 0–63 are slot traps, 64 a block trap, 65 a deferred trap (R350, R351). On the management nib the nib
stops issuing instead of reporting; in a method context the method ends with the fault (R284, R353). -/
def State.enterTrap (s : State) (k slot code : Nat) (val : Word) : State :=
  let u := unitOf k
  let deferred := slot == 65
  let s := s.modStroke k fun t =>
    let t := if slot == 64 then t.endInstance else t
    { t with regs := t.regs.setTrap code slot val deferred false,
             run := { t.run with state := .trapped, before := t.run.state } }
  if isScribe u then
    match tabFind s.svc.book.runs u with
    | some r => s.modSvc fun v => { v with book := { v.book with runs := tabPut v.book.runs u { r with fault := some code } } }
    | none => s
  else if unitPriv u == 2 then
    s.modUnit u fun x => { x with stopped := true }
  else
    let part := (s.stroke k).map (·.decl.part)
    s.post (.engine u) (s.reportPlace u part) (trapReport k code deferred)

/-- A trap that meets a stroke already TRAPPED, of an update or a wash that was under way, is taken when the first one has been resolved: the trap
registers hold one trap (R348; log entry 69). -/
def State.takeTrap (s : State) (k slot code : Nat) (val : Word) : State :=
  if (s.stroke k).any (·.run.state == .trapped) then s.modRun k fun r => { r with later := r.later ++ [(slot, code, val)] }
  else s.enterTrap k slot code val

/-- The first trap that waits, once the stroke is not TRAPPED. -/
def State.takeLater (s : State) (k : Nat) : State :=
  match s.stroke k with
  | none => s
  | some t =>
    match t.run.later with
    | (slot, code, val) :: l => if t.run.state == .trapped then s else (s.modRun k fun r => { r with later := l }).enterTrap k slot code val
    | [] => s

/-- R351: a deferred trap is taken at once when the stroke is not running, and otherwise waits for its next commit. -/
def State.deferTrap (s : State) (k code : Nat) (val : Word) : State :=
  match s.stroke k with
  | none => s
  | some t =>
    if (t.run.state == .run && !t.run.frozen) || t.run.state == .trapped then s.modRun k fun r => { r with deferred := r.deferred ++ [(code, val)] }
    else s.takeTrap k 65 code val

/-! ## Pages that are not present (R388, R389) -/

/-- R389: request a page, unless a request for it is outstanding. -/
def State.requestPage (s : State) (part region page : Nat) (eng : Bool) (slab : Nat) : State :=
  if s.eng.pageReqs.contains (region, page) then s
  else s.modEng fun e =>
    { e with pageReqs := e.pageReqs ++ [(region, page)],
             pageQueue := if bit (s.csrGet 0x52 0 part) 63
               then e.pageQueue ++ [(part, region, page, eng, slab)] else e.pageQueue }

/-- R362, R388: the stroke enters PAGEWAIT and gives up its region; its instance is spilled whole. A method's fetch waits in its context
(R285). -/
def State.pageWait (s : State) (k region page : Nat) : State :=
  match s.stroke k with
  | none => s
  | some t =>
    if isScribe (unitOf k) then
      (s.modRun k fun r => { r with state := .pagewait, waitPage := some (region, page) }).requestPage t.decl.part region page true
        (slabOf (unitOf k))
    else
    let s := s.modRun k fun r =>
      { r with state := .pagewait, lastRegion := r.region.getD r.lastRegion, region := none, waitPage := some (region, page) }
    s.requestPage t.decl.part region page false (slabOf (unitOf k))

/-! ## The slot at the cursor -/

/-- What a meaning sees of the slot it fires in. -/
structure Ctx where
  /-- stroke key and slot -/
  k : Nat
  n : Nat
  st : Stroke
  ins : Instance
  me : SlotSt
  stale : Bool
  deriving DecidableEq, Repr

/-- A stroke's region is running: R350, R357, R421. -/
def Stroke.running (t : Stroke) : Bool :=
  t.run.state == .run && !t.run.frozen && t.run.region.isSome && !(t.run.inst.any (·.reloading))

def State.ctx (s : State) : Option Ctx :=
  match s.stroke s.cur.stroke with
  | some t =>
    match t.run.inst with
    | some i =>
      match i.slots[s.cur.slot]? with
      | some x =>
        if t.running && !(s.unit (unitOf s.cur.stroke)).still then
          some { k := s.cur.stroke, n := s.cur.slot, st := t, ins := i, me := x, stale := s.cur.stale }
        else none
      | none => none
    | none => none
  | none => none

/-- MODE of a block header (Table 2-1): 1 is stream. -/
def Instance.stream (i : Instance) : Bool := bits i.header.toNat 25 24 == 1

/-- Iterations of the instance: known once the root counter has its bound (R46). -/
def Instance.total (i : Instance) : Option Nat :=
  if i.stream then i.bound.map fun b => max b 1 else some 1

/-- An FM slot: majors 0x48–0x4C and 0x58–0x5B (Table 2-6). -/
def isFM (w : BitVec 32) : Bool :=
  let m := w.toNat / 33554432
  (0x48 ≤ m && m ≤ 0x4C) || (0x58 ≤ m && m ≤ 0x5B)

/-- The load/store id of an FM word. -/
def fmId (w : BitVec 32) : Nat := bits w.toNat 13 9

/-- R83: port A of the root counter, of a CARRY or of an INVAR. -/
def Instance.armsA (i : Instance) (t : BitVec 9) : Bool :=
  let n := t.toNat
  let j := n % 64
  n / 128 == 1 && n / 64 % 2 == 0 &&
    (match i.words[j]? with
     | some w =>
       let m := w.toNat / 33554432
       (m == 0x0E && j == 0) || m == 0x72 || m == 0x73
     | none => false)

/-- R83: a start producer: a GET, MOVI, MOVX or RECV of a stream-mode block whose every target is such a port. -/
def Instance.startProducer (i : Instance) (t v : BitVec 9) : Bool :=
  i.stream && (t != 0 || v != 0) && (t == 0 || i.armsA t) && (v == 0 || i.armsA v)

/-! ## Order (R50, R51) -/

/-- Which earlier slots an instruction waits for. -/
inductive Order where
  | free
  /-- an FM operation of this id (R50) -/
  | fm (id : Nat)
  /-- an instruction that touches memory, launches an engine or posts (R51) -/
  | fe
  /-- one whose own entry waits for the memory operations before it in program order, those of earlier iterations too (R51, R131, R135, R183, R229),
  and with `outs` for the stores of the tokens sent by out-ports (R136) -/
  | seq (outs : Bool)
  deriving DecidableEq, Repr

/-- Slot `j` has performed or resolved in every iteration up to `it`. An update at an owner is counted when its reply comes (R239). -/
def Instance.performed (i : Instance) (j it : Nat) : Bool :=
  match i.slots[j]? with
  | some x => x.done > it
  | none => true

/-- Slots of a list of words that satisfy `f`. -/
def slotsWhere (f : BitVec 32 → Bool) : List (BitVec 32) → Nat → List Nat
  | [], _ => []
  | w :: t, n => if f w then n :: slotsWhere f t (n + 1) else slotsWhere f t (n + 1)

/-- FM slots of lower number have performed or resolved in this iteration. -/
def Ctx.lowerDone (x : Ctx) : Bool := (slotsWhere isFM x.ins.words 0).all fun j => j ≥ x.n || x.ins.performed j x.me.done

/-- Every other FM slot has performed or resolved in the earlier iterations. -/
def Ctx.pastDone (x : Ctx) : Bool :=
  x.me.done == 0 || (slotsWhere isFM x.ins.words 0).all fun j => j == x.n || x.ins.performed j (x.me.done - 1)

/-- The slots that the order names have performed or resolved. -/
def Ctx.orderOk (x : Ctx) (o : Order) : Bool :=
  match o with
  | .free => true
  | .fe => x.lowerDone
  | .seq _ => x.lowerDone && x.pastDone
  | .fm id =>
    (slotsWhere (fun w => isFM w && fmId w < id) x.ins.words 0).all (fun j => j == x.n || x.ins.performed j x.me.done) && x.pastDone

/-- Every token sent earlier to a bound out-port has been stored (R136). -/
def Stroke.outsStored (t : Stroke) : Bool := t.run.binds.all fun e => e.1 < 64 || e.2.sent.isEmpty

/-- What the order waits for outside the instance: LDVs of committed instances (R118), and out-port stores (R136). -/
def Ctx.settledFor (x : Ctx) (o : Order) : Bool :=
  match o with
  | .seq outs => x.st.run.moves.isEmpty && (!outs || x.st.outsStored)
  | _ => true

/-- Every slot of lower number whose instruction is of the class has acted in this iteration (R132, R181, R200, R211, …). -/
def Ctx.classOk (x : Ctx) (cls : Instr → Bool) : Bool :=
  (span 0 x.n).all fun j =>
    match x.ins.instr j with
    | some i => !cls i || (match x.ins.slots[j]? with
      | some y => y.done > x.me.done
      | none => true)
    | none => true

/-- Every slot of higher number of the class has acted in the earlier iterations (R281, R307, R331). -/
def Ctx.classPast (x : Ctx) (cls : Instr → Bool) : Bool :=
  (span (x.n + 1) (x.ins.slots.length - x.n - 1)).all fun j =>
    match x.ins.instr j with
    | some i => !cls i || (match x.ins.slots[j]? with
      | some y => y.done ≥ x.me.done
      | none => true)
    | none => true

/-- Slot `j` holds a RECV of in-port `n`: whether it is a start producer. -/
def Instance.recvAt (i : Instance) (n : BitVec 6) (j : Nat) : Option Bool :=
  match i.instr j with
  | some (.recv t _ m) => if m == n then some (i.startProducer t 0) else none
  | _ => none

/-- R83, R85: RECVs of one in-port take its tokens in ascending slot order, the start producers first and then iteration by iteration. -/
def Ctx.recvOk (x : Ctx) (n : BitVec 6) : Bool :=
  let done := fun j => ((x.ins.slots[j]?).map (·.done)).getD 0
  let start := x.ins.recvAt n x.n == some true
  (span 0 x.ins.slots.length).all fun j => j == x.n || (match x.ins.recvAt n j with
    | none => true
    | some true => (start && x.n < j) || done j > 0
    | some false => start || (if j < x.n then done j > x.me.done else done j ≥ x.me.done))

/-! ## Tokens and targets (R37–R39, R45) -/

inductive Dest where
  | nowhere
  | port (slot port : Nat)
  | out (n : Nat)
  deriving DecidableEq, Repr

/-- Table 2-2. -/
def dest (t : BitVec 9) : Dest :=
  let n := t.toNat
  if n / 128 == 0 then .nowhere else if n / 64 % 2 == 1 then .out (n % 64) else .port (n % 64) (n / 128)

def SlotSt.port (x : SlotSt) (p : Nat) : Option Token :=
  match p with
  | 1 => x.portA
  | 2 => x.portB
  | _ => x.portP

def SlotSt.got (x : SlotSt) (p : Nat) : Bool :=
  match p with
  | 1 => x.gotA
  | 2 => x.gotB
  | _ => x.gotP

def SlotSt.putPort (x : SlotSt) (p : Nat) (t : Option Token) : SlotSt :=
  match p with
  | 1 => { x with portA := t }
  | 2 => { x with portB := t }
  | _ => { x with portP := t }

def SlotSt.arrive (x : SlotSt) (p : Nat) (t : Token) : SlotSt :=
  match p with
  | 1 => { x with portA := some t, gotA := true }
  | 2 => { x with portB := some t, gotB := true }
  | _ => { x with portP := some t, gotP := true }

/-- R134: the number of elements of a pattern. -/
def patternCount : List Word → Nat → Nat
  | [], acc => acc
  | w :: t, acc => let c := bits w.toNat 31 0; if c == 0 then acc else patternCount t (acc * c)

def Binding.count (b : Binding) : Nat :=
  match b.levels with
  | [] => 0
  | w :: _ => if bits w.toNat 31 0 == 0 then 0 else patternCount b.levels 1

/-- Offset of element `i` over the levels in use (R134): level 0 fastest. -/
def patternOffset : List Word → Nat → Int
  | [], _ => 0
  | w :: t, i =>
    let c := bits w.toNat 31 0
    if c == 0 then 0
    else ((i % c : Nat) : Int) * toSigned (w.toNat / 2 ^ 32) 32 + patternOffset t (i / c)

/-- R134: the address of element `i`, modulo 2^64. -/
def Binding.addr (b : Binding) (i : Nat) : Nat := ofInt ((b.base.toNat : Int) + patternOffset b.levels i) 64

/-- Tokens of element `i` of a binding (R135, R136): two where the element's page, present or not, has format D4 and the binding is not raw. -/
def State.perElement (s : State) (k : Nat) (b : Binding) (i : Nat) : Nat :=
  if b.raw || b.space % 2 == 0 then 1
  else if s.pageFmt k (b.space == 3) (b.addr i) == some 4 then 2 else 1

/-- The element that takes the token after `n` more, from element `i` on; `half` when its low nibble is taken (R136). -/
def State.elementAfter (s : State) (k : Nat) (b : Binding) (i : Nat) (half : Bool) : Nat → Nat
  | 0 => i
  | n + 1 => if !half && s.perElement k b i == 2 then s.elementAfter k b i true n else s.elementAfter k b (i + 1) false n

/-- Why a token cannot leave by an out-port: the trap it raises. -/
def State.outTrap (s : State) (k o : Nat) : Option (Nat × Word) :=
  match s.stroke k with
  | none => none
  | some t =>
    match tabFind t.run.binds (64 + o) with
    | some b =>
      if b.stopped || s.elementAfter k b b.pos b.nibble.isSome b.sent.length < b.count then none
      else some (trSTREAMEND, word (o + 64))
    | none =>
      match s.folio t.decl.folio with
      | some f => if f.seams.any fun r => r.src == k && r.sport == o then none else some (trUNBOUNDPORT, word o)
      | none => some (trUNBOUNDPORT, word o)

/-- Outcome of sending one token. -/
inductive Sent where
  | ok (s : State)
  /-- the port or the route is full: the producer holds the token -/
  | full
  /-- a slot trap of slot `slot` -/
  | trap (s : State) (slot code : Nat) (val : Word)

def pushSeam (k o : Nat) (t : Token) : List Seam → List Seam
  | [] => []
  | r :: rs => if r.src == k && r.sport == o then { r with toks := r.toks ++ [.tok t] } :: rs else r :: pushSeam k o t rs

/-- R45: the slot has fired, or has done a part of what it does and keeps its tokens. -/
def SlotSt.begun (x : SlotSt) : Bool := x.done > 0 || x.mode == .owed || x.count > 0 || x.move.isSome

/-- Send a token from slot `n` along a route code. -/
def State.sendOne (s : State) (k n : Nat) (r : BitVec 9) (t : Token) : Sent :=
  match dest r with
  | .nowhere => .ok s
  | .port j p =>
    match s.inst k with
    | none => .ok s
    | some i =>
      match i.slots[j]? with
      | none => .ok s
      | some y =>
        if !i.stream && y.got p then
          -- R45: of the two tokens the port keeps one, either of them; a slot that has begun keeps its own
          if y.begun || (y.port p).isNone then .trap s j trTOKENCLASH (word p)
          else
            let (b, s) := s.drawBool
            let s := if b then s.modSlot k j (·.putPort p (some t)) else s
            .trap s j trTOKENCLASH (word p)
        else if (y.port p).isSome then .full
        else .ok (s.modSlot k j (·.arrive p t))
  | .out o =>
    match s.outTrap k o with
    | some (code, val) => .trap s n code val
    | none =>
      match (s.stroke k).bind fun x => tabFind x.run.binds (64 + o) with
      | some b =>
        .ok (s.modRun k fun x => { x with binds := tabPut x.binds (64 + o) { b with sent := b.sent ++ [t] } })
      | none =>
        match s.folioOf k with
        | none => .ok s
        | some f =>
          match f.seams.find? fun r => r.src == k && r.sport == o with
          | some r =>
            if (r.toks.filter fun x => match x with | .tok _ => true | .marker _ => false).length ≥ 16 then .full
            else .ok (s.modFolio f.id fun f => { f with seams := pushSeam k o t f.seams })
          | none => .ok s

/-- Deliver the held results of one slot; a trap of the delivery is taken. -/
def State.flushSlot (s : State) (k n : Nat) : State :=
  match s.slot k n with
  | none => s
  | some x =>
    let s := match x.out1 with
      | none => s
      | some t =>
        match s.sendOne k n x.to1 t with
        | .ok s => s.modSlot k n fun y => { y with out1 := none }
        | .full => s
        | .trap s j code val =>
          let s := if code == trTOKENCLASH then s.modSlot k n fun y => { y with out1 := none } else s
          s.takeTrap k j code val
    match s.slot k n with
    | none => s
    | some x =>
      match x.out2 with
      | none => s
      | some t =>
        if (s.stroke k).any (·.run.state != .run) then s
        else
          match s.sendOne k n x.to2 t with
          | .ok s => s.modSlot k n fun y => { y with out2 := none }
          | .full => s
          | .trap s j code val =>
            let s := if code == trTOKENCLASH then s.modSlot k n fun y => { y with out2 := none } else s
            s.takeTrap k j code val

/-- Deliver held results of the slots from `n` on, `m` of them, until a trap stops the region (R37). -/
def State.flushFrom (s : State) (k n : Nat) : Nat → State
  | 0 => s
  | m + 1 =>
    if (s.stroke k).any (·.running) then (s.flushSlot k n).flushFrom k (n + 1) m else s

def State.flush (s : State) (k : Nat) : State :=
  match s.inst k with
  | some i => s.flushFrom k 0 i.slots.length
  | none => s

/-- Put results on a slot's outputs and deliver what can be delivered. -/
def State.emit (s : State) (k n : Nat) (t v : BitVec 9) (r1 r2 : Option Token) : State :=
  let s := s.modSlot k n fun x =>
    { x with out1 := if t == 0 then none else r1, out2 := if v == 0 then none else r2, to1 := t, to2 := v }
  s.flush k

/-! ## Firing (R42, R44) -/

/-- The tokens a firing consumed. -/
structure Args where
  a : Token := none
  b : Token := none
  c : Token := none
  deriving DecidableEq, Repr

/-- What a firing does. -/
inductive Fire where
  /-- the effect is taken; these tokens go to the targets -/
  | send (s : State) (r1 r2 : Option Token)
  /-- the effect is taken; the reply comes later (R48) -/
  | owed (s : State)
  /-- an update is on its way to its owner; the slot keeps its tokens until the reply (R239, R244) -/
  | sent (s : State)
  /-- the slot holds its tokens as a waiting instance (R122, R358) -/
  | hold (s : State)
  /-- a precise slot trap -/
  | trap (s : State) (code : Nat) (val : Word)
  /-- a slot trap that names another slot (R49) -/
  | trapAt (s : State) (slot code : Nat) (val : Word)
  /-- the access met a page that is not present -/
  | page (s : State) (region page : Nat)

/-- One result for both targets. -/
def Fire.result (s : State) (t : Token) : Fire := .send s (some t) (some t)

/-- One word for both targets. -/
def Fire.value (s : State) (w : Word) : Fire := .result s (some w)

/-- How an instruction fires: predicate mode, data ports (C arrives on port P), targets, order, and whether it defines its own
handling of null. -/
structure Form where
  p : BitVec 2 := 0
  a : Bool := false
  b : Bool := false
  c : Bool := false
  t : BitVec 9 := 0
  v : BitVec 9 := 0
  order : Order := .free
  ownNull : Bool := false
  /-- a GET, MOVI, MOVX or RECV, which may be a start producer (R83) -/
  producer : Bool := false
  /-- one of the actions that wait for the boundaries of earlier instances (R231) -/
  after : Bool := false
  /-- an instruction of a class that acts in ascending slot order -/
  cls : Option (Instr → Bool) := none
  /-- and in program order over iterations too -/
  whole : Bool := false
  /-- a RECV's in-port -/
  inPort : Option (BitVec 6) := none

/-- Every port the instruction uses holds a token. -/
def Form.fed (f : Form) (x : SlotSt) : Bool :=
  (!f.a || x.portA.isSome) && (!f.b || x.portB.isSome) && (!(f.c || f.p != 0) || x.portP.isSome)

/-- Firings the slot may have made by now (R45, R46, R83). -/
def Form.quota (f : Form) (x : Ctx) : Nat :=
  if f.producer && x.ins.startProducer f.t f.v then 1 else x.ins.emitted

/-- R231, R268: no boundary that an earlier instance fired is still incomplete, and no wash of one still to issue. -/
def Ctx.boundariesDone (x : Ctx) : Bool := x.st.run.boundaries.all (·.serial == x.ins.serial) && x.st.run.waiting.isEmpty

/-- What the predicate port decides (Table 2-5). -/
inductive Verdict where
  | fires | declines | nulls
  deriving DecidableEq, Repr

def verdict (p : BitVec 2) (t : Option Token) : Verdict :=
  match p.toNat, t with
  | 0, _ => .fires
  | 1, some (some w) => if w != 0 then .fires else .declines
  | 2, some (some w) => if w == 0 then .fires else .declines
  | 3, some (some w) => if w != 0 then .fires else .nulls
  | 3, _ => .nulls
  | _, _ => .declines

/-- Some data port that the instruction uses carries null. -/
def Form.anyNull (f : Form) (g : Args) : Bool :=
  (f.a && g.a.isNone) || (f.b && g.b.isNone) || (f.c && g.c.isNone)

/-- The tokens at a slot's ports. -/
def SlotSt.args (x : SlotSt) : Args := { a := x.portA.join, b := x.portB.join, c := x.portP.join }

/-- The slot resolves without performing anything: it declines, or sends null (R42, R44). -/
def Form.resolves (f : Form) (x : SlotSt) : Bool :=
  verdict f.p x.portP != .fires || (!f.ownNull && f.anyNull x.args)

/-- The slot has what its firing rule waits for. -/
def Ctx.armed (x : Ctx) (f : Form) : Bool :=
  x.me.mode != .owed && x.me.out1.isNone && x.me.out2.isNone && x.me.done < f.quota x && f.fed x.me

/-- The slot's turn has come among the slots of its instance. -/
def Ctx.inTurn (x : Ctx) (f : Form) : Bool :=
  x.orderOk f.order && (match f.cls with
    | some c => x.classOk c && (!f.whole || x.classPast c)
    | none => true) && (match f.inPort with
    | some n => x.recvOk n
    | none => true)

/-- What is to act before the slot has acted. -/
def Ctx.ordered (x : Ctx) (f : Form) : Bool := x.inTurn f && x.settledFor f.order && (!f.after || x.boundariesDone)

/-- The slot may fire now. One that only resolves waits for no other (R50, R51). -/
def Ctx.fireable (x : Ctx) (f : Form) : Bool := x.armed f && (f.resolves x.me || x.ordered f)

/-- The tokens of the used ports are consumed and the iteration is counted. -/
def Form.consume (f : Form) (x : SlotSt) (fired : Bool) : SlotSt :=
  { x with portA := if f.a then none else x.portA, portB := if f.b then none else x.portB,
           portP := if f.c || f.p != 0 then none else x.portP,
           mode := .ready, lanes := [], done := x.done + 1, fired := if fired then x.fired + 1 else x.fired }

def State.consume (s : State) (f : Form) (x : Ctx) (fired : Bool) : State :=
  s.modSlot x.k x.n fun y => f.consume y fired

/-- The trap of a token that would leave by an out-port with no binding or an exhausted one (R39, R138). -/
def State.routeTrap (s : State) (k : Nat) (r : BitVec 9) (t : Option Token) : Option (Nat × Word) :=
  match t, dest r with
  | some _, .out o => s.outTrap k o
  | _, _ => none

/-- Close a firing: consume the tokens and send the results, or trap, hold or wait for a page with the tokens in place. Where neither target has a binding,
the trap names target 1's out-port: the model's choice (log entry 74). -/
def State.finish (s : State) (f : Form) (x : Ctx) (r : Fire) : State :=
  match r with
  | .send s' r1 r2 =>
    match (s.routeTrap x.k f.t r1).or (s.routeTrap x.k f.v r2) with
    | some (code, val) => s.takeTrap x.k x.n code val
    | none => (s'.consume f x true).emit x.k x.n f.t f.v r1 r2
  | .owed s' =>
    ((s'.consume f x true).modSlot x.k x.n fun y => { y with mode := .owed, to1 := f.t, to2 := f.v }).flush x.k
  | .sent s' =>
    s'.modSlot x.k x.n fun y => { y with mode := .owed, kept := true, to1 := f.t, to2 := f.v }
  | .hold s' => s'.modSlot x.k x.n fun y => { y with mode := .held }
  | .trap s' code val => s'.takeTrap x.k x.n code val
  | .trapAt s' slot code val => s'.takeTrap x.k slot code val
  | .page s' region page => s'.pageWait x.k region page

/-- Fire the slot at the cursor, or do nothing when it cannot fire. -/
def State.fireWith (s : State) (f : Form) (op : Ctx → Args → Fire) : State :=
  match s.ctx with
  | none => s
  | some x =>
    if !x.fireable f then s
    else
      match verdict f.p x.me.portP with
      | .declines => (s.consume f x false).flush x.k
      | .nulls => (s.consume f x false).emit x.k x.n f.t f.v (some none) (some none)
      | .fires =>
        let g := x.me.args
        if !f.ownNull && f.anyNull g then (s.consume f x false).emit x.k x.n f.t f.v (some none) (some none)
        else s.finish f x (op x g)

/-- Payload of a token that is not null. -/
def Args.av (g : Args) : Word := g.a.getD 0
def Args.bv (g : Args) : Word := g.b.getD 0
def Args.cv (g : Args) : Word := g.c.getD 0

/-- R72: flags raised by a slot join the pending set of the instance. -/
def State.raise (s : State) (k : Nat) (f : Flags) : State :=
  if f == 0 then s else s.modInst k fun i => { i with raised := i.raised ||| f }

/-- A value with the flags its computation raised, unless SF suppresses them (R41). -/
def Fire.flagged (s : State) (k : Nat) (sf : BitVec 1) (r : Word × Flags) : Fire :=
  .value (if sf == 1 then s else s.raise k r.2) r.1

/-- Where an access went, as a firing that failed. -/
def failLoc (s : State) (l : Loc) : Option Fire :=
  match l with
  | .trap c v => some (.trap s c v)
  | .absent r p => some (.page s r p)
  | _ => none

end Sys2Proof.Machine
end

