-- ==== Sys2Proof/Machine/Ports.lean ====
section
/-!
DEFINITION. Machine/Ports.lean: how each instruction fires: its data ports, predicate mode, targets, order and class, as the port
columns of the instruction tables give them (Tables 4-1 to 4-9, 5-6, 6-12, 9-4, 10-5, 11-7, 12-8, 13-4, 14-9; R132, R181, R200, R211, R281,
R307, R331).
-/
namespace Sys2Proof.Machine

/-- R132: circular-buffer instructions that name one handle. -/
def cbClass (h : BitVec 4) : Instr → Bool
  | .cbinit _ _ _ g => g == h
  | .cbwait _ _ _ _ g => g == h
  | .cbrsv _ _ _ _ g => g == h
  | .cbadv _ _ _ _ g => g == h
  | _ => false

/-- R181. -/
def isInrd : Instr → Bool
  | .inrd _ _ _ _ => true
  | _ => false

/-- R200. -/
def isLrun : Instr → Bool
  | .lrun _ _ _ _ _ _ _ => true
  | _ => false

/-- R211. -/
def isMatrix : Instr → Bool
  | .mma _ _ _ _ _ => true
  | .accrd _ _ => true
  | .accwr _ _ => true
  | .accz _ _ => true
  | .kld _ _ _ => true
  | .drain _ _ => true
  | .tmload _ _ => true
  | _ => false

/-- R331. -/
def isSampled : Instr → Bool
  | .topk _ _ _ => true
  | .candld _ _ => true
  | .candst _ _ => true
  | .rngseed _ _ _ => true
  | .rngnext _ _ _ => true
  | .draw _ _ _ _ => true
  | .pen _ _ _ _ _ _ => true
  | .jrnl _ _ => true
  | .jcommit _ _ => true
  | .jdrop _ _ => true
  | .gmask _ _ _ => true
  | .gsnap _ _ => true
  | .grest _ _ => true
  | _ => false

/-- R307. -/
def isPipe : Instr → Bool
  | .guess _ _ => true
  | .launch _ _ => true
  | .sqregChan _ _ => true
  | .sqregRows _ _ => true
  | .sqregRel _ _ => true
  | .sqchk _ _ _ _ => true
  | _ => false

/-- A vector atomic (R242). -/
def isVectorAtomic (i : Instr) : Bool :=
  match i with
  | .aaddv .. | .aminv .. | .amaxv .. | .aandv .. | .aorv .. | .axorv .. | .aswpv .. => true
  | _ => false

/-- R281. -/
def isCpcall : Instr → Bool
  | .cpcall _ _ _ _ => true
  | _ => false

/-- The token on port P selects port A of a MERGE. -/
def trueTok : Option Token → Bool
  | some (some w) => w != 0
  | _ => false

/-- The token on port P selects port B of a MERGE. -/
def falseTok : Option Token → Bool
  | some (some w) => w == 0
  | _ => false

/-- How an instruction fires from a slot in the given state. -/
def formOf (i : Instr) (x : SlotSt) : Form :=
  match i with
  | .get t v _ => { t := t, v := v, producer := true }
  | .put p _ => { p := p, a := true }
  | .movi t p _ => { p := p, t := t, producer := true }
  | .mov t v p => { p := p, a := true, t := t, v := v }
  | .null t p => { p := p, t := t }
  | .recv t p n => { p := p, t := t, producer := true, inPort := some n }
  | .sel t v => { a := true, b := true, c := true, t := t, v := v, ownNull := true }
  | .gate t v p => { p := p, a := true, b := true, t := t, v := v, ownNull := true }
  | .bra _ p _ => { p := p }
  | .bri _ p _ => { p := p, a := true }
  | .call _ p _ => { p := p }
  | .ret _ p _ => { p := p, a := true }
  | .exit _ p _ => { p := p }
  | .ctr t v a _ => { a := true, b := a == 1, t := t, v := v, ownNull := true }
  | .movx t p _ => { p := p, t := t, producer := true }
  | .add t v p _ _ => { p := p, a := true, b := true, t := t, v := v }
  | .sub t v p _ _ => { p := p, a := true, b := true, t := t, v := v }
  | .addi t p _ => { p := p, a := true, t := t }
  | .mul t v p _ _ => { p := p, a := true, b := true, t := t, v := v }
  | .mulh t v p _ _ => { p := p, a := true, b := true, t := t, v := v }
  | .div t v p _ _ _ => { p := p, a := true, b := true, t := t, v := v }
  | .rem t v p _ _ _ => { p := p, a := true, b := true, t := t, v := v }
  | .neg t v p _ _ => { p := p, a := true, t := t, v := v }
  | .and t v p _ _ => { p := p, a := true, b := true, t := t, v := v }
  | .or t v p _ _ => { p := p, a := true, b := true, t := t, v := v }
  | .xor t v p _ _ => { p := p, a := true, b := true, t := t, v := v }
  | .andn t v p _ _ => { p := p, a := true, b := true, t := t, v := v }
  | .andi t p _ => { p := p, a := true, t := t }
  | .ori t p _ => { p := p, a := true, t := t }
  | .xori t p _ => { p := p, a := true, t := t }
  | .not t v p _ _ => { p := p, a := true, t := t, v := v }
  | .shl t v p _ _ => { p := p, a := true, b := true, t := t, v := v }
  | .shr t v p _ _ => { p := p, a := true, b := true, t := t, v := v }
  | .asr t v p _ _ => { p := p, a := true, b := true, t := t, v := v }
  | .shli t p _ _ _ => { p := p, a := true, t := t }
  | .shri t p _ _ _ => { p := p, a := true, t := t }
  | .asri t p _ _ _ => { p := p, a := true, t := t }
  | .clz t v p _ _ => { p := p, a := true, t := t, v := v }
  | .popc t v p _ _ => { p := p, a := true, t := t, v := v }
  | .cmp t v p _ _ _ => { p := p, a := true, b := true, t := t, v := v }
  | .min t v p _ _ => { p := p, a := true, b := true, t := t, v := v }
  | .max t v p _ _ => { p := p, a := true, b := true, t := t, v := v }
  | .bfx t v p _ => { p := p, a := true, b := true, t := t, v := v }
  | .bfi t v => { a := true, b := true, c := true, t := t, v := v }
  | .lea t v p _ _ => { p := p, a := true, b := true, t := t, v := v }
  | .adds t v p _ _ _ => { p := p, a := true, b := true, t := t, v := v }
  | .subs t v p _ _ _ => { p := p, a := true, b := true, t := t, v := v }
  | .fadd t v p _ _ _ _ => { p := p, a := true, b := true, t := t, v := v }
  | .fsub t v p _ _ _ _ => { p := p, a := true, b := true, t := t, v := v }
  | .fmul t v p _ _ _ _ => { p := p, a := true, b := true, t := t, v := v }
  | .ffma t v _ _ _ _ => { a := true, b := true, c := true, t := t, v := v }
  | .fmin t v p _ _ _ _ => { p := p, a := true, b := true, t := t, v := v }
  | .fmax t v p _ _ _ _ => { p := p, a := true, b := true, t := t, v := v }
  | .fneg t v p => { p := p, a := true, t := t, v := v }
  | .fabs t v p => { p := p, a := true, t := t, v := v }
  | .fcmp t v p _ _ _ => { p := p, a := true, b := true, t := t, v := v }
  | .fclass t v p _ => { p := p, a := true, t := t, v := v }
  | .padd t _ p _ _ _ _ => { p := p, a := true, b := true, t := t }
  | .pmul t _ p _ _ _ _ => { p := p, a := true, b := true, t := t }
  | .pfma t _ _ _ _ _ => { a := true, b := true, c := true, t := t }
  | .pdot t _ _ _ _ _ => { a := true, b := true, c := true, t := t }
  | .rcp t v p _ _ _ _ => { p := p, a := true, t := t, v := v }
  | .rsq t v p _ _ _ _ => { p := p, a := true, t := t, v := v }
  | .exp2 t v p _ _ _ _ => { p := p, a := true, t := t, v := v }
  | .log2 t v p _ _ _ _ => { p := p, a := true, t := t, v := v }
  | .tanh t v p _ _ _ _ => { p := p, a := true, t := t, v := v }
  | .cvt t _ _ p _ _ _ _ => { p := p, a := true, t := t }
  | .srnd t _ p _ _ _ => { p := p, a := true, b := true, t := t }
  | .rdflg t p _ => { p := p, t := t }
  | .clrflg t p _ => { p := p, t := t }
  | .rngn t p _ _ => { p := p, t := t }
  | .ld t p n _ _ q => { p := p, a := true, t := t, order := .fm n.toNat, after := q == 5 }
  | .st t p n _ _ q => { p := p, a := true, b := true, t := t, order := .fm n.toNat, after := q == 5 }
  | .ldv t p n _ _ _ => { p := p, a := true, b := true, t := t, order := .fm n.toNat }
  | .stv t p n _ _ _ => { p := p, a := true, b := true, t := t, order := .fm n.toNat }
  | .feset t p n _ _ _ => { p := p, a := true, t := t, order := .fm n.toNat }
  | .cbinit t p _ h => { p := p, a := true, b := true, t := t, order := .fe, cls := some (cbClass h) }
  | .cbwait t p _ _ h => { p := p, a := true, t := t, order := .fe, cls := some (cbClass h) }
  | .cbrsv t p _ _ h => { p := p, a := true, t := t, order := .fe, cls := some (cbClass h) }
  | .cbadv t p _ e h => { p := p, a := true, t := t, order := .seq (e == 1), after := true, cls := some (cbClass h) }
  | .sbind t p _ _ _ _ _ _ => { p := p, a := true, t := t, order := .seq true }
  | .bset t p _ => { p := p, a := true, t := t }
  | .bperm t v p _ => { p := p, a := true, t := t, v := v }
  | .aadd t p n _ _ => { p := p, a := true, b := true, t := t, order := .fm n.toNat, after := true }
  | .amin t p n _ _ => { p := p, a := true, b := true, t := t, order := .fm n.toNat, after := true }
  | .amax t p n _ _ => { p := p, a := true, b := true, t := t, order := .fm n.toNat, after := true }
  | .aand t p n _ _ => { p := p, a := true, b := true, t := t, order := .fm n.toNat, after := true }
  | .aor t p n _ _ => { p := p, a := true, b := true, t := t, order := .fm n.toNat, after := true }
  | .axor t p n _ _ => { p := p, a := true, b := true, t := t, order := .fm n.toNat, after := true }
  | .aswp t p n _ _ => { p := p, a := true, b := true, t := t, order := .fm n.toNat, after := true }
  | .acas t n _ _ => { a := true, b := true, c := true, t := t, order := .fm n.toNat, after := true }
  | .aaddv t p n _ _ => { p := p, a := true, b := true, t := t, order := .fm n.toNat, after := true }
  | .aminv t p n _ _ => { p := p, a := true, b := true, t := t, order := .fm n.toNat, after := true }
  | .amaxv t p n _ _ => { p := p, a := true, b := true, t := t, order := .fm n.toNat, after := true }
  | .aandv t p n _ _ => { p := p, a := true, b := true, t := t, order := .fm n.toNat, after := true }
  | .aorv t p n _ _ => { p := p, a := true, b := true, t := t, order := .fm n.toNat, after := true }
  | .axorv t p n _ _ => { p := p, a := true, b := true, t := t, order := .fm n.toNat, after := true }
  | .aswpv t p n _ _ => { p := p, a := true, b := true, t := t, order := .fm n.toNat, after := true }
  | .afadd t p n _ => { p := p, a := true, b := true, t := t, order := .fm n.toNat, after := true }
  | .afinit t v p _ _ => { p := p, a := true, b := true, t := t, v := v, order := .fe, after := true }
  | .phase t p _ => { p := p, a := true, t := t, order := .seq true }
  | .fence t p _ w => { p := p, a := true, t := t, order := if w == 1 then .seq true else .fe }
  | .publish t v p _ => { p := p, a := true, b := true, t := t, v := v, order := .fe, after := true }
  | .mda t _ p => { p := p, a := true, b := true, t := t }
  | .mdb t _ p => { p := p, a := true, b := true, t := t }
  | .mma t _ _ p _ => { p := p, a := true, t := t, order := .seq true, after := true, cls := some isMatrix }
  | .accrd t p => { p := p, a := true, b := true, t := t, order := .seq true, after := true, cls := some isMatrix }
  | .accwr t p => { p := p, a := true, b := true, t := t, order := .seq true, after := true, cls := some isMatrix }
  | .accz t p => { p := p, a := true, t := t, order := .seq true, after := true, cls := some isMatrix }
  | .kld t _ p => { p := p, a := true, t := t, order := .seq true, after := true, cls := some isMatrix }
  | .drain t p => { p := p, a := true, b := true, t := t, order := .seq true, after := true, cls := some isMatrix }
  | .rtset t _ p => { p := p, a := true, b := true, t := t }
  | .mstat t p _ _ => { p := p, a := true, t := t }
  | .lcfg t _ p => { p := p, a := true, t := t }
  | .lrun t _ p _ _ _ _ => { p := p, a := true, t := t, order := .seq true, after := true, cls := some isLrun }
  | .lwait t p _ => { p := p, a := true, t := t }
  | .lstat t p _ _ => { p := p, a := true, t := t }
  | .steer t v => { a := true, c := true, t := t, v := v, ownNull := true }
  | .merge t v => { a := trueTok x.portP, b := falseTok x.portP, c := true, t := t, v := v, ownNull := true }
  | .carry t v => { a := x.fresh, b := !x.fresh, c := true, t := t, v := v, ownNull := true }
  | .invar t v => { a := x.keep.isNone, c := true, t := t, v := v, ownNull := true }
  | .rrmerge t v b => { a := (b == 1) == x.turned, b := (b == 1) != x.turned, t := t, v := v, ownNull := true }
  | .hset t p => { p := p, a := true, b := true, t := t }
  | .hmask t p _ => { p := p, a := true, t := t }
  | .hclr t p _ => { p := p, a := true, t := t }
  | .chsend t p => { p := p, a := true, b := true, t := t, order := .fe, after := true }
  | .chmcast t p => { p := p, a := true, b := true, t := t, order := .fe, after := true }
  | .inrd t p _ _ => { p := p, a := true, t := t, cls := some isInrd }
  | .bara t p _ => { p := p, a := true, t := t, order := .seq true, after := true }
  | .barw t p _ => { p := p, a := true, t := t, order := .seq true, after := true }
  | .chapp t p => { p := p, a := true, b := true, t := t, order := .seq true, after := true }
  | .seqwait t p _ => { p := p, a := true, b := true, t := t, order := .fe }
  | .seqrd t p => { p := p, a := true, t := t, order := .fe }
  | .park p _ => { p := p }
  | .wgrpDef t p => { p := p, a := true, b := true, t := t, order := .fe }
  | .wgrpPresent t p => { p := p, a := true, b := true, t := t, order := .fe }
  | .wgrpRel t p => { p := p, a := true, b := true, t := t, order := .fe }
  | .wld t p _ _ _ => { p := p, a := true, b := true, t := t, order := .fe }
  | .wlds t p _ _ => { p := p, a := true, t := t, order := .fe }
  | .wstat t p _ => { p := p, a := true, t := t }
  | .cpdef t p => { p := p, a := true, b := true, t := t, order := .fe }
  | .cpdefRel t p => { p := p, a := true, b := true, t := t, order := .fe }
  | .cpcall t p _ _ => { p := p, a := true, b := true, t := t, order := .fe, after := true, cls := some isCpcall, whole := true }
  | .cpread t p => { p := p, a := true, b := true, t := t, order := .fe, after := true }
  | .cpwait t p _ => { p := p, a := true, b := true, t := t, order := .fe }
  | .cptrim t p => { p := p, a := true, b := true, t := t, order := .fe }
  | .cpstat t p _ => { p := p, a := true, t := t }
  | .cparg t p _ => { p := p, t := t }
  | .cpret t p => { p := p, a := true, t := t }
  | .guess t p => { p := p, a := true, b := true, t := t, order := .fe, after := true }
  | .launch t p => { p := p, a := true, b := true, t := t, order := .fe, after := true }
  | .tagrd t p => { p := p, a := true, t := t }
  | .sqchk t p _ _ => { p := p, a := true, t := t, order := .fe }
  | .sqregChan t p => { p := p, a := true, b := true, t := t, order := .fe, cls := some isPipe, whole := true }
  | .sqregRows t p => { p := p, a := true, b := true, t := t, order := .fe, cls := some isPipe, whole := true }
  | .sqregRel t p => { p := p, a := true, b := true, t := t, order := .fe, cls := some isPipe, whole := true }
  | .kvwr t p => { p := p, a := true, b := true, t := t, order := .fe }
  | .topk t p _ => { p := p, a := true, b := true, t := t, order := .fe, cls := some isSampled, whole := true }
  | .candld t p => { p := p, a := true, t := t, order := .fe, cls := some isSampled, whole := true }
  | .candst t p => { p := p, a := true, b := true, t := t, order := .fe, cls := some isSampled, whole := true }
  | .rngseed t p _ => { p := p, a := true, b := true, t := t, order := .fe, cls := some isSampled, whole := true }
  | .rngnext t p _ => { p := p, a := true, t := t, order := .fe, cls := some isSampled, whole := true }
  | .draw t p _ _ => { p := p, a := true, b := true, t := t, order := .fe, cls := some isSampled, whole := true }
  | .pen t p _ _ _ _ => { p := p, a := true, b := true, t := t, order := .fe, cls := some isSampled, whole := true }
  | .jrnl t p => { p := p, a := true, b := true, t := t, order := .fe, cls := some isSampled, whole := true }
  | .jcommit t p => { p := p, a := true, b := true, t := t, order := .fe, cls := some isSampled, whole := true }
  | .jdrop t p => { p := p, a := true, b := true, t := t, order := .fe, cls := some isSampled, whole := true }
  | .gmask t p _ => { p := p, a := true, b := true, t := t, order := .fe, cls := some isSampled, whole := true }
  | .gsnap t p => { p := p, a := true, b := true, t := t, order := .fe, cls := some isSampled, whole := true }
  | .grest t p => { p := p, a := true, b := true, t := t, order := .fe, cls := some isSampled, whole := true }
  | .tmask t p _ => { p := p, a := true, b := true, t := t }
  | .tmload t p => { p := p, a := true, t := t, order := .seq true, after := true, cls := some isMatrix }
  | .tdepth t p _ _ => { p := p, a := true, b := true, t := t }
  | .trap t p => { p := p, a := true, t := t }
  | .rft t p => { p := p, a := true, b := true, t := t }
  | .csrr t p => { p := p, a := true, t := t }
  | .csrw t p => { p := p, a := true, b := true, t := t }
  | .freeze t p => { p := p, a := true, t := t, order := .fe }
  | .thaw t p => { p := p, a := true, t := t, order := .fe }
  | .ctxout t p _ _ => { p := p, a := true, b := true, t := t, order := .fe }
  | .ctxoutDrop t p _ _ => { p := p, a := true, b := true, t := t, order := .fe }
  | .ctxin t p => { p := p, a := true, b := true, t := t, order := .fe }
  | .tlbinv t p _ => { p := p, a := true, b := true, t := t, order := .fe, after := true }
  | .tlbprobe t p _ => { p := p, a := true, b := true, t := t, order := .fe }
  | .cfginv t p _ => { p := p, a := true, b := true, t := t, order := .fe }
  | .halt p => { p := p, a := true }
  | _ => {}

/-- The meaning of an instruction that fires: `op` is its effect on the state, given what the slot sees and the tokens it takes. -/
def fire (i : Instr) (op : Ctx → Args → State → Fire) (s : State) : Host.Outcome State Fault Refusal :=
  .next (match s.ctx with
    | none => s
    | some x => s.fireWith (formOf i x.me) fun x g => op x g s)

end Sys2Proof.Machine
end

