-- ==== Sys2Proof/Machine/Moves.lean ====
section
/-!
DEFINITION. Machine/Moves.lean: tokens and registers (R83–R85) and the exits (R87, R185).
-/
namespace Sys2Proof.Machine

/-- GET: the register as it stood at instance start. -/
def execGet (t v : BitVec 9) (r : BitVec 7) (s : State) : Host.Outcome State Fault Refusal :=
  fire (.get t v r) (fun x _ s => .value s (x.ins.start.g.getD r.toNat 0)) s

/-- PUT: the token's value is recorded for commit (R48). -/
def execPut (p : BitVec 2) (r : BitVec 7) (s : State) : Host.Outcome State Fault Refusal :=
  fire (.put p r) (fun x g s => .send (s.modSlot x.k x.n fun y => { y with put := g.a }) none none) s

def execMovi (t : BitVec 9) (p : BitVec 2) (imm : BitVec 14) (s : State) : Host.Outcome State Fault Refusal :=
  fire (.movi t p imm) (fun _ _ s => .value s (sext imm.toNat 14)) s

def execMov (t v : BitVec 9) (p : BitVec 2) (s : State) : Host.Outcome State Fault Refusal :=
  fire (.mov t v p) (fun _ g s => .value s g.av) s

def execNull (t : BitVec 9) (p : BitVec 2) (s : State) : Host.Outcome State Fault Refusal :=
  fire (.null t p) (fun _ _ s => .result s none) s

/-- MOVX: the block's address plus a signed word offset, modulo 2^64. -/
def execMovx (t : BitVec 9) (p : BitVec 2) (imm : BitVec 14) (s : State) : Host.Outcome State Fault Refusal :=
  fire (.movx t p imm) (fun x _ s => .value s (word (ofInt ((x.ins.addr : Int) + 4 * toSigned imm.toNat 14) 64))) s

/-- SEL: a null on the unselected port is ignored. -/
def execSel (t v : BitVec 9) (s : State) : Host.Outcome State Fault Refusal :=
  fire (.sel t v) (fun _ g s => match g.c with
    | none => .result s none
    | some c => .result s (if c != 0 then g.a else g.b)) s

/-- GATE: A once B holds a token, whatever it is. -/
def execGate (t v : BitVec 9) (p : BitVec 2) (s : State) : Host.Outcome State Fault Refusal :=
  fire (.gate t v p) (fun _ g s => .result s g.a) s

/-! ## RECV (R85, R138, R159–R161) -/

/-- The first item of a seam route that a region which has passed the edges of `edge` rounds may take: markers of those rounds are
skipped, and a marker of a later round holds the rest back (R161). -/
def seamHead (edge : Nat) : List SeamItem → Option (Token × List SeamItem)
  | [] => none
  | .tok t :: r => some (t, r)
  | .marker n :: r => if n < edge then seamHead edge r else none

def setSeam (k port : Nat) (l : List SeamItem) : List Seam → List Seam
  | [] => []
  | r :: rs => if r.dst == k && r.dport == port then { r with toks := l } :: rs else r :: setSeam k port l rs

/-- What is read ahead, without the markers of the rounds whose edges have been passed (R159, R161). -/
def skipMarkers (edge : Nat) : List Ahead → List Ahead
  | .marker n :: r => if n < edge then skipMarkers edge r else .marker n :: r
  | l => l

/-- Take the oldest token of an in-port. -/
def recv (port : Nat) (x : Ctx) (s : State) : Fire :=
  match tabFind x.st.run.binds port with
  | some b =>
    match skipMarkers (s.edgeOf x.k x.st) b.ahead with
    | .tok w _ :: r =>
      .value (s.modRun x.k fun q => { q with binds := tabPut q.binds port { b with ahead := r } }) w
    | .fault code val :: _ => .trap s code val
    | .marker _ :: _ => .hold s
    | [] => if b.pos ≥ b.count then .trap s trSTREAMEND (word port) else .hold s
  | none =>
    match s.folioOf x.k with
    | none => .trap s trUNBOUNDPORT (word (64 + port))
    | some f =>
      match f.seams.find? fun r => r.dst == x.k && r.dport == port with
      | none => .trap s trUNBOUNDPORT (word (64 + port))
      | some r =>
        match seamHead (s.edgeOf x.k x.st) r.toks with
        | none => .hold s
        | some (tok, rest) =>
          let s := s.modFolio f.id fun f => { f with seams := setSeam x.k port rest f.seams }
          .result (if r.src == x.k then s else s.flush r.src) tok

def execRecv (t : BitVec 9) (p : BitVec 2) (n : BitVec 6) (s : State) : Host.Outcome State Fault Refusal :=
  fire (.recv t p n) (fun x _ s => recv n.toNat x s) s

/-! ## Exits (R47, R87, R185) -/

/-- The exit index of an exit word: FX bits 24:22, PARK bits 2:0. -/
def exitIndex (w : BitVec 32) : Nat :=
  if w.toNat / 33554432 == 0x78 then bits w.toNat 2 0 else bits w.toNat 24 22

/-- An exit slot: BRA to EXIT, and PARK. -/
def isExit (w : BitVec 32) : Bool :=
  let m := w.toNat / 33554432
  (0x09 ≤ m && m ≤ 0x0D) || (m == 0x78 && bits w.toNat 15 7 == 0x00C)

/-- An exit fires: EARLYEXIT before the final iteration, MULTIEXIT when one has fired already (Table 2-6a). -/
def exitFires (kind : ExitKind) (x : Ctx) (s : State) : Fire :=
  if x.me.done + 1 < x.ins.total.getD 1 then .trap s trEARLYEXIT (word x.me.done)
  else
    let rec2 : ExitRec := { slot := x.n, kind }
    let s' := s.modInst x.k fun i => { i with fired := i.fired ++ [rec2] }
    match x.ins.fired with
    | [] => .send s' none none
    | f :: _ =>
      let hi := max f.slot x.n
      .trapAt s' hi trMULTIEXIT (word (exitIndex (x.ins.words.getD hi 0)))

/-- The target of a direct exit: the block's address plus a signed word offset. One past the end of the region's offsets comes round within the region: the
model's choice (log entry 76). -/
def directTarget (x : Ctx) (f : BitVec 20) : Word := word (ofInt ((x.ins.addr : Int) + 4 * toSigned f.toNat 20) 64)

/-- The target of an indirect exit. -/
def indirectTarget (a : Word) (f : BitVec 20) : Word := word (ofInt ((a.toNat : Int) + 4 * toSigned f.toNat 20) 64)

def execBra (x : BitVec 3) (p : BitVec 2) (f : BitVec 20) (s : State) : Host.Outcome State Fault Refusal :=
  fire (.bra x p f) (fun c _ s => exitFires (.goto (directTarget c f)) c s) s

def execBri (x : BitVec 3) (p : BitVec 2) (f : BitVec 20) (s : State) : Host.Outcome State Fault Refusal :=
  fire (.bri x p f) (fun c g s => exitFires (.goto (indirectTarget g.av f)) c s) s

/-- CALL has the effect of BRA: the return predictor holds no architectural state. -/
def execCall (x : BitVec 3) (p : BitVec 2) (f : BitVec 20) (s : State) : Host.Outcome State Fault Refusal :=
  fire (.call x p f) (fun c _ s => exitFires (.goto (directTarget c f)) c s) s

/-- RET has the effect of BRI. -/
def execRet (x : BitVec 3) (p : BitVec 2) (f : BitVec 20) (s : State) : Host.Outcome State Fault Refusal :=
  fire (.ret x p f) (fun c g s => exitFires (.goto (indirectTarget g.av f)) c s) s

def execExit (x : BitVec 3) (p : BitVec 2) (f : BitVec 20) (s : State) : Host.Outcome State Fault Refusal :=
  fire (.exit x p f) (fun c _ s => exitFires (.exit f) c s) s

def execPark (p : BitVec 2) (x : BitVec 3) (s : State) : Host.Outcome State Fault Refusal :=
  fire (.park p x) (fun c _ s => exitFires .park c s) s

end Sys2Proof.Machine
end

