-- ==== Sys2Proof/Machine/Blocks.lean ====
section
/-!
DEFINITION. Machine/Blocks.lean: decoding a block and its checks (R33–R38, R51–R55, R88, R284), and the event by which a stroke's PC
becomes a block (R36, R149).
-/
namespace Sys2Proof.Machine

/-! ## What the words of a block say -/

def majorOf (w : BitVec 32) : Nat := w.toNat / 33554432
def extOf (w : BitVec 32) : Nat := bits w.toNat 15 7
def targetOf (w : BitVec 32) : BitVec 9 := BitVec.ofNat 9 (w.toNat / 65536)

/-- Bits of a word that are fixed beyond its opcode, by major opcode: reserved bits and the bits that tell a variant (Tables 2-6 to 2-10). In
groups 0x78 to 0x7B every modifier bit but the predicate mode counts, and the target of PARK and HALT. -/
def fixedBits (w : Nat) : Nat :=
  match w / 33554432 with
  | 0x34 => 0x1
  | 0x15 | 0x16 | 0x2E | 0x2F => 0x2
  | 0x10 | 0x11 | 0x13 | 0x14 | 0x17 | 0x18 | 0x19 | 0x1A | 0x1B | 0x1F | 0x20 | 0x21 | 0x22 | 0x26 | 0x27 | 0x29 | 0x2A | 0x48 | 0x49 | 0x4A | 0x4B | 0x4C => 0x3
  | 0x36 => 0x4
  | 0x2D => 0x8
  | 0x2B => 0x1B
  | 0x37 | 0x53 | 0x5C => 0x1C
  | 0x5F => 0x1E
  | 0x04 | 0x08 | 0x35 | 0x58 | 0x5A => 0x1F
  | 0x33 => 0x60
  | 0x0E => 0x7C
  | 0x74 => 0x7E
  | 0x07 | 0x2C | 0x5B | 0x70 | 0x71 | 0x72 | 0x73 => 0x7F
  | 0x41 => 0x80
  | 0x38 | 0x39 => 0xF80
  | 0x3A | 0x3B => 0xFE0
  | 0x51 => 0x2000
  | 0x23 | 0x24 | 0x25 => 0x3E00
  | 0x06 => 0x3FC0
  | 0x4D => 0x3FE0
  | 0x5D => 0x3FF8
  | 0x52 | 0x5E => 0x3FFC
  | 0x05 => 0x3FFF
  | 0x59 => 0xC01F
  | 0x42 => 0xF083
  | 0x61 => 0xF80F
  | 0x66 => 0xF81F
  | 0x69 => 0xFC00
  | 0x64 | 0x68 => 0xFC1F
  | 0x60 => 0xFE1F
  | 0x6A => 0xFF8F
  | 0x67 | 0x6B => 0xFF98
  | 0x62 | 0x63 | 0x65 => 0xFF9F
  | 0x02 => 0x1FFFE00
  | 0x78 => if w / 128 % 512 = 0x00C then 0x1FF001F else 0x1F
  | 0x7B => if w / 128 % 512 = 0x00C then 0x1FF001F else 0x1F
  | 0x79 | 0x7A => 0x1F
  | _ => 0

/-- The value that those bits have in a row: zero, but for the size of AFADD. -/
def fixedValue (w : Nat) : Nat := if w / 33554432 == 0x5B then 0x40 else 0

/-- The operation that a word names: its row, or where a reserved bit keeps it out of every row, the row it has with those bits as they must
be. Its inputs and targets are those of that operation (R38, log entry 20). -/
def namedInstr (w : BitVec 32) : Option Instr :=
  (decodeRow w.toNat).or
    (decodeRow ((w &&& ~~~(BitVec.ofNat 32 (fixedBits w.toNat))) ||| BitVec.ofNat 32 (fixedValue w.toNat)).toNat)

/-- Ports that an instruction uses: 1 A, 2 B, 3 P or C (R38, R54). -/
def usesPort (i : Instr) (p : Nat) : Bool :=
  match i with
  | .merge _ _ => true
  | .carry _ _ => true
  | .rrmerge _ _ _ => p == 1 || p == 2
  | i =>
    let f := formOf i {}
    match p with
    | 1 => f.a
    | 2 => f.b
    | _ => f.c || f.p != 0

/-- Both target fields of an instruction. -/
def targetsOf (i : Instr) : List (BitVec 9) :=
  let f := formOf i {}
  [f.t, f.v]

/-- The grain inputs that a slot feeds: (slot, port). -/
def feedsOf (w : BitVec 32) : List (Nat × Nat) :=
  match namedInstr w with
  | none => []
  | some i => (targetsOf i).filterMap fun t => match dest t with
    | .port j p => some (j, p)
    | _ => none

/-- A counted store (R52). -/
def isCounted (w : BitVec 32) : Bool :=
  let m := majorOf w
  m == 0x49 || m == 0x4B || m == 0x4C || (0x58 ≤ m && m ≤ 0x5B) ||
    (m == 0x79 && extOf w == 0x002) || (m == 0x7A && (extOf w == 0x006 || extOf w == 0x042))

def isPut (w : BitVec 32) : Bool := majorOf w == 0x02

/-! ## Units and privilege (R53, Tables 2-7 to 2-10, 11-3) -/

/-- Lowest privilege of a word's instruction. -/
def needPriv (w : BitVec 32) : Nat :=
  let e := extOf w
  match majorOf w with
  | 0x79 => if e == 0x001 || e == 0x040 then 1 else 0
  | 0x7B => if e == 0x00C then 2 else if e == 0x001 || e == 0x003 || e == 0x004 then 0 else 1
  | _ => 0

/-- Table 11-3: the word is allowed in a method, read-only when `ro`. -/
def scribeAllows (ro : Bool) (w : BitVec 32) : Bool :=
  let m := majorOf w
  let sp := bits w.toNat 8 7
  let q := bits w.toNat 4 2
  if m == 0x06 then false
  else if m == 0x48 then sp == 0 && q ≤ 1
  else if m == 0x49 then sp == 0 && q == 0 && !ro
  else if m == 0x79 then extOf w == 0x046 || extOf w == 0x047 || (extOf w == 0x045 && bits w.toNat 2 0 == 2)
  else m ≤ 0x47 || (0x70 ≤ m && m ≤ 0x74)

/-- Whether a word's instruction is legal on a nib or sampler core. -/
def unitAllows (u : Nat) (w : BitVec 32) : Bool :=
  let e := extOf w
  let smp := isSampler u
  match majorOf w with
  | 0x78 => !smp || !(e == 0x005 || e == 0x007 || e == 0x008)
  | 0x79 => if e == 0x046 || e == 0x047 then false else !smp || (0x041 ≤ e && e ≤ 0x043) || e == 0x045
  | 0x7A => if 0x040 ≤ e && e ≤ 0x04C then smp else !smp || e ≤ 0x003 || e == 0x04D || e == 0x04F
  | 0x7B => if e == 0x00C then nibOf u == 162 else !smp || e == 0x001 || e == 0x003 || e == 0x004
  | m => !smp || !(0x60 ≤ m && m ≤ 0x6F)

/-! ## The checks of R54 -/

/-- A route code fails R38 against the words of the block. -/
def badTarget (ws : List (BitVec 32)) (t : BitVec 9) : Bool :=
  match dest t with
  | .port j p => match ws[j]? with
    | some w => !((namedInstr w).any (usesPort · p))
    | none => true
  | _ => false

/-- The grain inputs that a slot feeds and that their instructions use: the edges of dataflow paths. -/
def pathFeeds (ws : List (BitVec 32)) (w : BitVec 32) : List (Nat × Nat) :=
  (feedsOf w).filter fun f => (ws[f.1]?).any fun v => (namedInstr v).any (usesPort · f.2)

/-- Slots that a slot reaches along dataflow paths of at most `fuel` edges. -/
def reach (ws : List (BitVec 32)) : Nat → List Nat → List Nat
  | 0, seen => seen
  | fuel + 1, seen =>
    let next := (seen.flatMap fun j => (pathFeeds ws (ws.getD j 0)).map (·.1)).filter fun j => !seen.contains j
    if next.isEmpty then seen else reach ws fuel (seen ++ distinct next)

/-- A dataflow path leads to slot `j` from slot `i`. -/
def pathTo (ws : List (BitVec 32)) (i j : Nat) : Bool :=
  (reach ws ws.length (distinct ((pathFeeds ws (ws.getD i 0)).map (·.1)))).contains j

/-- R51, R54: slot `n` of the words fails LSID. -/
def badLsid (ws : List (BitVec 32)) (n : Nat) : Bool :=
  let w := ws.getD n 0
  isFM w &&
    (slotsWhere isFM ws 0).any fun j =>
      let v := ws.getD j 0
      (j < n && fmId v == fmId w) || (fmId v > fmId w && pathTo ws j n)

/-- R88: a CTR outside stream mode, or one with ADV in slot 0. -/
def ctrBad (stream : Bool) (n : Nat) (w : BitVec 32) : Bool :=
  match namedInstr w with
  | some (.ctr _ _ a _) => !stream || (n == 0 && a == 1)
  | _ => false

/-- The lowest subcode that slot `n` of a block fails, REGIDX aside. -/
def slotCheck (u : Nat) (ro stream : Bool) (ws : List (BitVec 32)) (n : Nat) : Option Nat :=
  let w := ws.getD n 0
  let word := match decodeWord w with
    | .error .rsvOp => some 1
    | .error .rsvField => some 2
    | .error .rsvMod => some 3
    | .error .target => if ctrBad stream n w then some 3 else some 4
    | .ok _ => if ctrBad stream n w then some 3 else none
  let i := namedInstr w
  let port := fun p => (i.any (usesPort · p)) && !(ws.any fun v => (feedsOf v).contains (n, p))
  match word with
  | some c => some c
  | none =>
    if i.any (fun x => (targetsOf x).any (badTarget ws)) then some 4
    else if port 1 || port 2 || port 3 then some 5
    else if isExit w && (ws.take n).any (fun v => isExit v && exitIndex v == exitIndex w) then some 8
    else if badLsid ws n then some 9
    else if isScribe u then (if scribeAllows ro w then none else some 12)
    else if needPriv w > unitPriv u then some 11
    else if !unitAllows u w then some 12
    else none

/-- The first slot from `n` on that fails a check: (subcode, slot). -/
def firstBad (u : Nat) (ro stream : Bool) (ws : List (BitVec 32)) : List Nat → Option (Nat × Nat)
  | [] => none
  | n :: t => match slotCheck u ro stream ws n with
    | some c => some (c, n)
    | none => firstBad u ro stream ws t

/-- A port of the block has more than one producer (R46). -/
def doubleFed (ws : List (BitVec 32)) : Bool :=
  let all := ws.flatMap feedsOf
  all.any fun f => (all.filter (· == f)).length > 1

/-- The header checks (R34, R54). -/
def badHeader (h : BitVec 32) : Bool := bits h.toNat 10 8 != 0 || bits h.toNat 25 24 == 3

/-- The whole-block checks COUNT and STREAM. -/
def wholeCheck (h : BitVec 32) (ws : List (BitVec 32)) : Option (Nat × Nat) :=
  if bits h.toNat 19 15 != (ws.filter isCounted).length || bits h.toNat 14 11 != (ws.filter isPut).length || !(ws.any isExit) then
    some (7, 64)
  else if bits h.toNat 25 24 == 1 && (majorOf (ws.getD 0 0) != 0x0E || doubleFed ws) then some (10, 64)
  else none

/-- R54, R55: the failed check a trap would report, REGIDX aside: (subcode, TRAPSLOT). -/
def blockCheck (u : Nat) (ro : Bool) (h : BitVec 32) (ws : List (BitVec 32)) : Option (Nat × Nat) :=
  if badHeader h then some (2, 64)
  else match firstBad u ro (bits h.toNat 25 24 == 1) ws (span 0 ws.length) with
    | some e => some e
    | none => wholeCheck h ws

/-- The highest general register that a word names: GET, PUT, K and C of RNGN (R36). -/
def topReg (w : BitVec 32) : Option Nat :=
  match namedInstr w with
  | some (.get _ _ r) => some r.toNat
  | some (.put _ r) => some r.toNat
  | some (.rngn _ _ c k) => some (max c.toNat k.toNat)
  | _ => none

/-- The first slot that names a register at or above `n` (REGIDX). -/
def regBad (n : Nat) (ws : List (BitVec 32)) : Option Nat :=
  findIdx (fun w => (topReg w).any (n ≤ ·)) ws 0

/-- R36, R55: the check that a stroke with `n` registers fails on an image. -/
def imageCheck (n : Nat) (bad : Option (Nat × Nat)) (h : BitVec 32) (ws : List (BitVec 32)) : Option (Nat × Nat) :=
  match regBad n ws with
  | none => bad
  | some j =>
    match bad with
    | none => some (6, j)
    | some (c, m) => if badHeader h || (m < 64 && (m < j || (m == j && c < 6))) then some (c, m) else some (6, j)

/-! ## Fetch (R33, R36) -/

/-- Outcome of fetching bytes of a block. -/
inductive Fetch where
  | fault (code : Nat) (val : Word)
  | absent (region page : Nat)
  | ok (w : BitVec 32)
  deriving DecidableEq, Repr

/-- Fetch one word of a block: the latest value committed at module scope. -/
def State.fetchWord (s : State) (k addr : Nat) : Fetch × State :=
  let region := addr / 2 ^ 64
  let off := addr % 2 ^ 64
  let (stale, s) := s.drawStale k region off 4
  match s.translateFor k stale region off 4 with
  | (.fault c l, s) => (.fault c (transVal off false l 4), s)
  | (.absent, s) => (.absent region (off / 65536), s)
  | (.poison g, s) => (.fault trUNCORR (granuleVal g), s)
  | (.ok p, s) =>
    let (served, s) := if p.tier == 3 then s.drawBool else (true, s)
    -- R413: a peer may refuse the access
    if !served then (.fault 0x66 (transVal off false p.leaf.level 4), s)
    else match s.mem.poisoned p.key 4 with
    | some g => (.fault trUNCORR (granuleVal g), s)
    | none => (.ok (BitVec.ofNat 32 (s.mem.get p.key 4)), s.request p.key .read 4 [])

/-- An address of the block, its region kept (R33). -/
def wordAddr (addr i : Nat) : Nat := addr / 2 ^ 64 * 2 ^ 64 + (addr + 4 * i) % 2 ^ 64

/-- Fetch the words from `i` on, `n` of them. -/
def State.fetchWords (s : State) (k addr i : Nat) : Nat → Except Fetch (List (BitVec 32)) × State
  | 0 => (.ok [], s)
  | n + 1 =>
    match s.fetchWord k (wordAddr addr i) with
    | (.ok w, s) =>
      match s.fetchWords k addr (i + 1) n with
      | (.ok l, s) => (.ok (w :: l), s)
      | (.error e, s) => (.error e, s)
    | (e, s) => (.error e, s)

/-- The method run of a scribe context is read-only. -/
def State.roRun (s : State) (u : Nat) : Bool := (tabFind s.svc.book.runs u).any (·.ro)

/-- Images that the config store of a unit holds: about 96 in the 64 KiB of a nib's (Table 1-7; log entry 61), and as many to the KiB in the 16 KiB of a
sampler core's (Table 13-1). -/
def imageRoom (u : Nat) : Nat := if isSampler u then 24 else 96

/-- An image enters the config store of a unit; a full store gives up another, any one of them. -/
def State.storeImage (s : State) (u : Nat) (i : Image) : State :=
  if (s.unit u).images.length < imageRoom u then s.modUnit u fun x => { x with images := x.images ++ [i] }
  else
    let (w, s) := s.drawWord
    s.modUnit u fun x => { x with images := listDrop x.images (w.toNat % x.images.length) ++ [i] }

/-- The image of a block, from the config store or decoded from memory. A unit may decode a block before its PC reaches it (R36): that is a pick of its own,
`predecode` (log entry 61). -/
def State.image (s : State) (k addr : Nat) : Except Fetch Image × State :=
  let u := unitOf k
  match (s.unit u).images.find? (·.addr == addr) with
  | some i => (.ok (if isScribe u then { i with bad := blockCheck u (s.roRun u) i.header i.words } else i), s)
  | none =>
    match s.fetchWord k addr with
    | (.ok h, s) =>
      match s.fetchWords k addr 1 (bits h.toNat 31 26 + 1) with
      | (.ok ws, s) =>
        let i : Image := { addr, header := h, words := ws, bad := blockCheck u (s.roRun u) h ws,
                           sig := Config.imageSignature (h :: ws) }
        (.ok i, s.storeImage u i)
      | (.error e, s) => (.error e, s)
    | (e, s) => (.error e, s)

/-! ## Configuration periods (R162) -/

/-- The quiescence tree reports a region empty once its instance has committed: no reply, update, engine entry or buffer-slot return is outstanding for the
stroke whose image it held. An AFADD that waits for its index is no reply to come (R246). -/
def State.regionEmpty (s : State) (k : Nat) : Bool :=
  let u := s.unit (unitOf k)
  !(s.net.replies.any (·.stroke == k)) && !(s.net.atoms.any fun a => a.stroke == k && !isAdd a.kind) &&
    !(u.lane.queue.any (·.stroke == k)) && !(u.matrix.queue.any (·.stroke == k)) &&
    !(s.net.words.any fun w => w.kind == 1 && w.module == 0xFF && s.channelOwner (w.place / 64) (w.place % 64) == some k)

/-- A stream-mode image in the region of a stroke may be replaced. -/
def State.mayReplace (s : State) (k : Nat) : Bool :=
  match (s.stroke k).bind (·.run.region) with
  | some r => (tabFind (s.unit (unitOf k)).streamed r).all s.regionEmpty
  | none => true

/-- The region holds no stream-mode image any more. -/
def State.replaced (s : State) (k : Nat) : State :=
  match (s.stroke k).bind (·.run.region) with
  | some r => s.modUnit (unitOf k) fun u => if (tabFind u.streamed r).isSome then { u with streamed := tabDel u.streamed r } else u
  | none => s

/-! ## The PC becomes a block (R36, R149) -/

/-- Registers that a stroke may name (R36): those declared, or 16 in scribe mode. -/
def Stroke.regCount (t : Stroke) (k : Nat) : Nat := if isScribe (unitOf k) then 16 else t.decl.regs * 8

/-- A new instance of an image. -/
def newInstance (t : Stroke) (pend : Nat) (i : Image) : Instance :=
  { serial := t.run.serial + 1, addr := i.addr, header := i.header, words := i.words,
    slots := i.words.map fun _ => {}, emitted := if bits i.header.toNat 25 24 == 1 then 0 else 1,
    start := t.regs, pend0 := pend }

/-- BLOCK_FETCH: the block at the PC of a running stroke is fetched, checked and started; a stroke with an uncorrectable register word traps
instead (R418 KIND 4), with a TRAPVAL that no rule gives. A method that would begin its 4,097th
instance faults with BUDGET (R284). -/
def blockFetch (k : Nat) (s : State) : State :=
  match s.stroke k with
  | none => s
  | some t =>
    let u := unitOf k
    let addr := t.regs.pc.toNat
    if !t.running || t.run.inst.isSome || t.run.ending.isSome || (s.unit u).still || (s.unit u).badImages.contains addr || !s.mayReplace k then s
    else if (s.unit u).badRegs.contains k then let (w, s) := s.drawWord; s.takeTrap k 64 trUNCORR w
    else if isScribe u && (tabFind s.svc.book.runs u).any (·.blocks ≥ 4096) then
      s.takeTrap k 64 0xFF 0
    else
      match s.image k addr with
      | (.error (.absent r p), s) => s.pageWait k r p
      | (.error (.fault c v), s) => s.takeTrap k 64 c v
      | (.error (.ok _), s) => s
      | (.ok i, s) =>
        match imageCheck (t.regCount k) i.bad i.header i.words with
        | some (c, n) => s.takeTrap k n trILLBLOCK (word c)
        | none =>
          if t.run.startCh.isSome && bits i.header.toNat 25 24 != 2 then
            s.takeTrap k 64 trHNDMODE (word addr)
          else
            let s := match tabFind s.svc.book.runs u with
              | some r => s.modSvc fun v => { v with book := { v.book with runs := tabPut v.book.runs u { r with blocks := r.blocks + 1 } } }
              | none => s
            (s.replaced k).modRun k fun r =>
              { r with inst := some (newInstance t (s.mem.pendCount k) i), serial := r.serial + 1, startCh := none }

def execBlockFetch (k : Nat) (s : State) : Host.Outcome State Fault Refusal := .next (blockFetch k s)

/-- R36: a block decoded before a PC reaches it, for example on a predicted exit; a fetch that fails leaves nothing. -/
def predecode (k addr : Nat) (s : State) : State :=
  if (s.stroke k).any fun t => t.running && addr / 2 ^ 64 == t.regs.pc.toNat / 2 ^ 64 && addr % 4 == 0 then
    match s.image k addr with
    | (.ok _, s') => s'
    | (.error _, _) => s
  else s

end Sys2Proof.Machine
end

