-- ==== Sys2Proof/Machine/Commit.lean ====
section
/-!
DEFINITION. Machine/Commit.lean: the end of a block instance: commit (R47, R48, R72, R185, R290, R372), NOEXIT and PCALIGN (R49), and
NOCOMMIT on a settled region (R162).
-/
namespace Sys2Proof.Machine

/-! ## What R47 asks -/

/-- Slots of an instance whose words satisfy `f`. -/
def Instance.slotsOf (i : Instance) (f : BitVec 32 → Bool) : List Nat := slotsWhere f i.words 0

/-- A slot has resolved in `n` iterations; an update at an owner when its reply has come (R239). -/
def Instance.resolved (i : Instance) (n j : Nat) : Bool :=
  match i.slots[j]? with
  | some x => x.done ≥ n
  | none => true

/-- Every slot whose word satisfies `f` has resolved in `n` iterations. -/
def Instance.allResolved (i : Instance) (n : Nat) (f : BitVec 32 → Bool) : Bool := (i.slotsOf f).all (i.resolved n)

/-- R290: every CPCALL of the instance that has fired has been appended. -/
def State.callsAppended (s : State) (k serial : Nat) : Bool :=
  !(s.svc.book.calls.any fun c => c.stroke == k && c.serial == serial && c.index.isNone)

/-- R272: no WLD of the instance has its result still to write, or a WASHPOIS still to take. -/
def State.washesDone (s : State) (k serial : Nat) : Bool :=
  !(s.svc.washes.any fun w => w.loader == k && w.serial == serial && w.wide) &&
    !(s.svc.washDone.any fun d => d.loader == k && d.trap.any (·.1 == serial))

/-- R47: conditions 1 to 3, but for the one exit that must have fired. -/
def State.readyToEnd (s : State) (k : Nat) (i : Instance) : Bool :=
  match i.total with
  | some n =>
    i.allResolved n isPut && i.allResolved n isCounted && i.allResolved n isExit && s.callsAppended k i.serial &&
      s.washesDone k i.serial
  | none => false

/-- Every exit has resolved in the final iteration and none has fired. -/
def Instance.noExit (i : Instance) : Bool :=
  i.fired.isEmpty && (match i.total with
    | some n => i.allResolved n isExit
    | none => false)

/-! ## Commit (R48) -/

/-- The PUT slots write their registers, a higher slot over a lower one. -/
def putAll (g : List Word) : List (BitVec 32) → List SlotSt → List Word
  | w :: ws, x :: xs =>
    let g := match isPut w, x.put with
      | true, some v => listSet g (w.toNat % 128) v
      | _, _ => g
    putAll g ws xs
  | _, _ => g

/-- CSRW records in ascending slot order. -/
def insertRec (r : CsrRec) : List CsrRec → List CsrRec
  | [] => [r]
  | x :: t => if x.slot ≤ r.slot then x :: insertRec r t else r :: x :: t

def sortRecs (l : List CsrRec) : List CsrRec := l.foldl (fun acc r => insertRec r acc) []

/-- R372: a recorded write of FLAGS (0x01) or AREGION (0x02). -/
def StrokeRegs.applyCsr (r : StrokeRegs) (c : CsrRec) : StrokeRegs :=
  if c.code == 1 then { r with flags := BitVec.ofNat 5 c.value.toNat }
  else { r with aregion := BitVec.ofNat 16 c.value.toNat }

/-- The registers after commit, the PC aside. -/
def commitRegs (t : Stroke) (i : Instance) : StrokeRegs :=
  let r := { t.regs with g := putAll t.regs.g i.words i.slots }
  let r := (sortRecs i.csrw).foldl StrokeRegs.applyCsr r
  { r with flags := flagsAtCommit r.flags i.clear i.raised t.run.lateFlags }

/-- The stroke gives up its region. -/
def StrokeRun.leave (r : StrokeRun) (st : StrokeState) : StrokeRun :=
  { r with state := st, region := none, lastRegion := r.region.getD r.lastRegion, forced := false }

/-- The PC with its region kept. -/
def pcAt (pc : BitVec 80) (a : Word) : BitVec 80 := BitVec.ofNat 80 (pc.toNat / 2 ^ 64 * 2 ^ 64 + a.toNat)

/-- What the exit that fired does once the registers are written. A parked stroke's PC is undefined (R185). An EXIT ends a method
(R284). -/
def State.leaveBlock (s : State) (k : Nat) (yields : Bool) (e : ExitKind) : State :=
  match e with
  | .goto a =>
    s.modStroke k fun t =>
      { t with regs := { t.regs with pc := pcAt t.regs.pc a },
               run := if (yields || t.run.forced) && !isScribe (unitOf k) then t.run.leave .ready else t.run }
  | .park =>
    let (a, s) := s.drawWord
    s.modStroke k fun t => { t with regs := { t.regs with pc := pcAt t.regs.pc a }, run := t.run.leave .parked }
  | .exit st =>
    if isScribe (unitOf k) then
      let u := unitOf k
      let s := s.modRun k fun r => { r with state := .parked }
      match tabFind s.svc.book.runs u with
      | some r => s.modSvc fun v => { v with book := { v.book with runs := tabPut v.book.runs u { r with exit := some st.toNat } } }
      | none => s
    else
    s.modRun k fun r =>
      { r.leave .parked with
        ending := some st,
        boundaries := r.boundaries ++ [{ scope := 5, kind := 2, serial := r.serial, slot := 0, upto := s.mem.order }] }

/-- The oldest deferred trap is taken once the commit has had its effect (R351). -/
def State.takeDeferred (s : State) (k : Nat) : State :=
  match ((s.stroke k).map (·.run.deferred)).getD [] with
  | (code, val) :: l => (s.modRun k fun r => { r with deferred := l }).takeTrap k 65 code val
  | [] => s

/-- R162: the region of a stroke holds a stream-mode image whose instance has committed. -/
def State.leavesStream (s : State) (k : Nat) : State :=
  match (s.stroke k).bind (·.run.region) with
  | some r => s.modUnit (unitOf k) fun u => { u with streamed := tabPut u.streamed r k }
  | none => s

/-- R272: the WLDSs of an instance that have fired and wait for a wash slot of the nib, numbered from `n` on. They complete although it commits first. -/
def Instance.lateWashes (i : Instance) (k n : Nat) (bnd : BitVec 32) : List Wash :=
  let mine := (span 0 i.slots.length).filterMap fun j => match i.instr j, i.slots[j]? with
    | some (.wlds _ _ y o), some x => if x.mode == .held then x.portA.join.map fun a => (j, y.toNat, o.toNat, a.toNat) else none
    | _, _ => none
  mine.zipIdx.map fun e =>
    let (j, ty, op, a) := e.1
    { loader := k, serial := i.serial, slot := j, num := n + e.2, group := bits a 7 0, wide := false, op, ty, pt := false,
      k := BitVec.ofNat 32 (a / 2 ^ 32), soff := bits a 28 8, dst := 0, members := [], present := 0, left := [], leaves := [], bnd }

/-- What goes on after the commit of an instance: LDVs that have fired (R118) and WLDSs that wait to issue (R272). -/
def Stroke.afterCommit (t : Stroke) (k : Nat) (i : Instance) : Stroke :=
  let late := i.lateWashes k t.run.washes t.bnd
  { t with regs := commitRegs t i,
           run := { t.run with inst := none, lateFlags := 0, moves := t.run.moves ++ i.slots.filterMap (·.move),
                               waiting := t.run.waiting ++ late, washes := t.run.washes + late.length } }

/-- The instance commits with its one exit. -/
def State.commitInst (s : State) (k : Nat) (i : Instance) (e : ExitRec) : State :=
  let s := s.modStroke k (·.afterCommit k i)
  let s := if i.stream then s.leavesStream k else s
  let s := if i.halting then s.modUnit (unitOf k) fun u => { u with halted := true } else s
  let s := s.leaveBlock k (bit i.header.toNat 23) e.kind
  s.takeDeferred k

/-- BLOCK_COMMIT: the instance of a running stroke commits, or ends in NOEXIT or PCALIGN. -/
def blockCommit (k : Nat) (s : State) : State :=
  match s.stroke k with
  | none => s
  | some t =>
    match t.run.inst with
    | none => s
    | some i =>
      if !t.running || (s.unit (unitOf k)).still then s
      else if i.noExit then s.takeTrap k 64 trNOEXIT 0
      else if !s.readyToEnd k i then s
      else
        match i.fired with
        | [e] =>
          match e.kind with
          | .goto a =>
            if a.toNat % 4 != 0 then s.takeTrap k e.slot trPCALIGN (word (a.toNat % 2 ^ 32)) else s.commitInst k i e
          | _ => s.commitInst k i e
        | _ => s

def execBlockCommit (k : Nat) (s : State) : Host.Outcome State Fault Refusal := .next (blockCommit k s)

/-! ## NOCOMMIT (R49, R162) -/

/-- A slot can still move: it is owed a reply, waits, holds a result for an out-port, or holds a token on every port that its firing
rule waits for and satisfies `turn`. -/
def Ctx.movesIf (x : Ctx) (turn : Form → Bool) : Bool :=
  let out := fun (o : Option Token) (r : BitVec 9) => match o, dest r with
    | some _, .out _ => true
    | _, _ => false
  x.me.mode != .ready || out x.me.out1 x.me.to1 || out x.me.out2 x.me.to2 || (x.me.drop && x.me.portB.isSome) ||
    (match x.ins.instr x.n with
     | some i =>
       let f := formOf i x.me
       if x.n == 0 && x.ins.stream then
         x.me.out1.isNone && x.me.out2.isNone && (match x.ins.bound with
          | none => x.me.portA.isSome
          | some b => x.ins.emitted < max b 1)
       else x.me.out1.isNone && x.me.out2.isNone && x.me.done < f.quota x && f.fed x.me && turn f
     | none => false)

/-- The slot can still move, now or once others have. -/
def Ctx.moves (x : Ctx) : Bool := x.movesIf fun _ => true

/-- The slot moves now, or as soon as a boundary or an access of an earlier instance is complete: it does not wait for another slot of its instance. -/
def Ctx.movesNow (x : Ctx) : Bool := x.movesIf fun f => f.resolves x.me || x.inTurn f

/-- R162: nothing in the region can still move. -/
def State.settled (s : State) (k : Nat) (t : Stroke) (i : Instance) : Bool :=
  !((span 0 i.slots.length).any fun n => match i.slots[n]? with
      | some me => ({ k, n, st := t, ins := i, me, stale := false } : Ctx).moves
      | none => false) &&
    !(s.net.words.any fun w => w.kind == 1 && w.place / 64 == unitOf k &&
        t.decl.chbase ≤ w.place % 64 && w.place % 64 < t.decl.chbase + t.decl.chans) &&
    !(s.svc.washes.any fun w => w.loader == k && w.serial == i.serial) &&
    !((s.unit (unitOf k)).lane.queue.any (·.stroke == k)) &&
    !((s.unit (unitOf k)).matrix.queue.any (·.stroke == k))

/-- NOCOMMIT: the region has settled while R47 is unmet. -/
def noCommit (k : Nat) (s : State) : State :=
  match s.stroke k with
  | none => s
  | some t =>
    match t.run.inst with
    | none => s
    | some i =>
      if !t.running || (s.unit (unitOf k)).still || i.noExit || s.readyToEnd k i || !s.settled k t i then s
      else
        let n := i.total.getD 1
        let b := fun (f : BitVec 32 → Bool) (v : Nat) => if i.allResolved n f then 0 else v
        s.takeTrap k 64 trNOCOMMIT (word (b isPut 1 + b isCounted 2 + b isExit 4))

def execNocommit (k : Nat) (s : State) : Host.Outcome State Fault Refusal := .next (noCommit k s)

end Sys2Proof.Machine
end

