-- ==== Sys2Proof/Machine/Formats.lean ====
section
/-!
DEFINITION. Machine/Formats.lean: the values that a formatted page delivers and the codes it stores (R65–R67, R113).
-/
namespace Sys2Proof.Machine

/-- A 32-bit FP32 code as a value. -/
def fp32 (v : Nat) : Num := decodeNum .f32 v

/-- R67: exact widening of FP16 and BF16 codes and the FP32 image of decimal codes. -/
def widen (f : Fmt) (c : Nat) : Nat :=
  match f with
  | .bf16 => c % 65536 * 65536
  | .f16 =>
    let sign := c / 32768 % 2 * 2 ^ 31
    if c / 1024 % 32 == 31 then sign + 0x7F800000 + c % 1024 * 8192
    else (roundNum .f32 .rne false (decodeBin .f16 c)).1
  | .d8 | .d4 => decodeDec f (c % 2 ^ f.width)
  | _ => c % 2 ^ 32

/-- The exact quotient of two values; NaN for 0/0, ∞/∞ and NaN operands. -/
def divNum (a b : Num) : Num :=
  let neg := a.neg != b.neg
  match a, b with
  | .nan _, _ | _, .nan _ => .nan false
  | .inf _, .inf _ => .nan false
  | .zero _, .zero _ => .nan false
  | .inf _, _ => .inf neg
  | _, .inf _ => .zero neg
  | .zero _, _ => .zero neg
  | _, .zero _ => .inf neg
  | .fin _ n d, .fin _ m e => .fin neg (n * e) (d * m)

/-- pageValue of R67, as a 64-bit payload: `sc` is the block's D8 scale code. The product of an INT8 element 0 and a negative scale is taken as −0
(log entry 65). -/
def pageValue (c : Nat) (fmt : Nat) (scaled : Bool) (sc : Nat) : Word :=
  match Fmt.ofCode fmt with
  | some f =>
    let x : Nat := match f with
      | .f16 | .bf16 | .d8 | .d4 => widen f c
      | .i8 | .i16 | .i32 => (sext c f.width).toNat
      | _ => c % 2 ^ 64
    if scaled then
      let v := if f == .i8 then decodeNum .i8 c else fp32 x
      word (roundNum .f32 .rne false (mulNum v (fp32 (decodeDec .d8 (sc % 256)))).1).1
    else word x
  | none => word c

/-- The code of an integer stored by R115: satS of a signed value. -/
def satCode (x : Int) (n : Nat) : Nat := ofInt (satS x n).1 n

/-- The code stored for a payload by the store rule of R67 and R115. `wide`: the payload is an FP32 or INT32 word in its
low 32 bits (R117); otherwise an integer payload is taken whole. -/
def storeCode (v : Nat) (fmt : Nat) (scaled : Bool) (sc : Nat) (wide : Bool) : Nat :=
  match Fmt.ofCode fmt with
  | some f =>
    let x := fp32 (v % 2 ^ 32)
    let scale := fp32 (decodeDec .d8 (sc % 256))
    let bad := match scale with
      | .fin .. => false
      | _ => true
    match f with
    | .f16 | .bf16 => (roundNum f .rne false x).1
    | .d8 | .d4 =>
      if !scaled then (roundNum f .rne false x).1
      else if bad then f.nan
      else (roundNum f .rne false (divNum x scale)).1
    | .i8 =>
      if scaled then
        if bad then 0
        else match divNum x scale with
          | .nan _ => 0
          | .inf n => if n then 0x80 else 0x7F
          | .zero _ => 0
          | .fin n a b => satCode (roundInt .rne n a b).1 8
      else satCode (toSigned v (if wide then 32 else 64)) 8
    | .i16 => satCode (toSigned v (if wide then 32 else 64)) 16
    | .i32 => satCode (toSigned v (if wide then 32 else 64)) 32
    | _ => v % 2 ^ f.width
  | none => v % 256

/-- Width in bytes of an element of a page format; 1 for the two nibbles of D4. -/
def fmtBytes (fmt : Nat) : Nat :=
  match fmt with
  | 1 | 2 | 6 => 2
  | 0 | 7 => 4
  | 8 => 8
  | _ => 1

/-- Width in bits of an element of a page format. -/
def fmtBits (fmt : Nat) : Nat := if fmt == 4 then 4 else 8 * fmtBytes fmt

/-- Table 5-7: the size field suits the page's format. -/
def sizeFits (fmt size : Nat) : Bool :=
  match fmt with
  | 15 => true
  | 4 => size ≤ 1
  | f => 2 ^ size == fmtBytes f

/-- R117, R175: a formatted side of a copy, and a format whose elements decode. -/
def decodes (fmt : Nat) : Bool := fmt == 1 || fmt == 2 || fmt == 3 || fmt == 4 || fmt == 5 || fmt == 6 || fmt == 7

end Sys2Proof.Machine
end

