-- ==== Sys2Proof/Machine/Accesses.lean ====
section
/-!
DEFINITION. Machine/Accesses.lean: reading and writing located bytes and page elements for a stroke: owner ranges (R239, R247, R374),
scale bytes (R66), poison (R419), the pending limit (R229), setting writes (R119–R121).
-/
namespace Sys2Proof.Machine

/-- Outcome of a part of an access: a value and the state, or the firing that failed. -/
inductive Acc (α : Type) where
  | ok (a : α) (s : State)
  | bad (f : Fire)

/-! ## Owner ranges (R374) -/

/-- A valid owner range: its number, SC, tier, first and last byte, and its well. -/
structure OwnRange where
  num : Nat
  sc : Bool
  tier : Nat
  base : Nat
  last : Nat
  well : Nat
  deriving DecidableEq, Repr

def State.ownRange (s : State) (e : Nat) : Option OwnRange :=
  let w0 := s.csrGet 0x41 0 (2 * e)
  let w1 := s.csrGet 0x41 0 (2 * e + 1)
  if bit w0 63 then
    some { num := e, sc := bit w0 62, tier := bits w0 61 60, base := bits w0 56 16 * 65536,
           last := bits w1 56 16 * 65536 + 65535, well := bits w1 8 5 * 32 + bits w1 4 0 }
  else none

/-- The valid owner ranges. -/
def State.ownRanges (s : State) : List OwnRange :=
  (s.csr.filter fun e => e.1 / 1048576 == 0x41 && e.1 % 2 == 0).filterMap fun e => s.ownRange (e.1 % 4096 / 2)

def State.owner (s : State) (tier pa : Nat) : Option OwnRange :=
  s.ownRanges.find? fun r => r.tier == tier && r.base ≤ pa && pa ≤ r.last

/-- The node of an access at a peer, whose ranges this module does not hold (R374, R413). -/
def peerNode (pa : Nat) : Nat := 1048576 + bits pa 56 49

/-- The node that performs an atomic: an owner well, or a peer that accepts it. -/
def State.ownerNode (s : State) (p : Phys) : Option Nat × State :=
  if p.tier == 3 then
    let (b, s) := s.drawBool
    (if b then some (peerNode p.pa) else none, s)
  else ((s.owner p.tier p.pa).map (·.well), s)

/-- The address lies in an SC ring range. -/
def State.inSc (s : State) (p : Phys) : Bool := (s.owner p.tier p.pa).any (·.sc)

/-! ## Poison (R419) -/

def State.readTrap (s : State) (key n : Nat) : Option Fire :=
  (s.mem.poisoned key n).map fun g => .trap s trUNCORR (granuleVal g)

def State.writeTrap (s : State) (key n : Nat) : Option Fire :=
  (s.mem.partPoisoned key n).map fun g => .trap s trUNCORR (granuleVal g)

/-- A nib is out of service and no spare is left for it (R423): it has not been moved, and a nib has been moved to each spare of its slab. -/
def State.spareless (s : State) (u : Nat) : Bool :=
  isNib u && bit (s.csrGet 0x62 (slabOf u) (nibOf u)) 8 && !(s.unit u).moved &&
    (span 163 5).all fun n => tabGet s.plat.spares (slabOf u * 256 + n) false

/-! ## Wash holds (R265, R267) -/

/-- A mark has passed `k` (R256). -/
def markPassed (mark k : BitVec 32) : Bool := (mark - k).toNat < 2 ^ 31

/-- A stroke that owned a place no longer stands there: it has been streamed out, or runs elsewhere (R269). -/
def State.hasLeft (s : State) (k place : Nat) : Bool :=
  k != noStroke && (match s.stroke k with
    | some t => !(place / 64 == unitOf k && t.owns (place % 64))
    | none => true)

/-- The stroke of member `j` of a wash: the owner of its place, or the one that owned it as the wash issued, if that has been streamed out or runs
elsewhere (R269). -/
def State.memberOf (s : State) (w : Wash) (j : Nat) : Option Nat :=
  let place := placeOfWord (w.members.getD j 0).toNat
  let k := w.owners.getD j noStroke
  if s.hasLeft k place then some k else s.boundAt place

/-- Member `j` of a wash is stroke `k`. -/
def State.isMember (s : State) (w : Wash) (j k : Nat) : Bool := s.memberOf w j == some k

/-- Bytes that a wash reads at each member (R258). -/
def Wash.bytes (w : Wash) : Nat := (if w.wide then 16 else 2) * (if w.ty == 1 then 2 else 4)

/-- The mark of a member. -/
def State.mark (s : State) (g j : Nat) : BitVec 32 :=
  match tabFind s.svc.groups g with
  | some x => x.marks.getD j 0
  | none => 0

/-- A hold stands on some of `n` bytes of the own scratchpad of stroke `k`, for a write that `bnd` boundaries of the stroke precede. -/
def State.heldFrom (s : State) (k : Nat) (bnd : BitVec 32) (key n : Nat) : Bool :=
  match s.stroke k with
  | none => false
  | some t =>
    s.svc.washes.any fun w => w.left.any fun j =>
      let lo := spadKey (unitOf k) (t.decl.wbase + w.soff)
      s.isMember w j k && key < lo + w.bytes && lo < key + n && markPassed (s.mark w.group j + bnd - t.regs.phaseNumber) w.k

/-! ## Requests to owners -/

/-- What a request to an owner asks of a peer's (R413). -/
def AtomReq.ask (r : AtomReq) : PeerAccess × Nat × List Byte :=
  match r.kind with
  | .scalar op size b c => (.atomic op b c, size, [])
  | .lane op size b _ => (.atomic op b 0, size, [])
  | .afadd i b _ => (.afadd i b, 4, [])
  | .afinit rel base => (.afinit rel base, 4, [])
  | .scLoad n .. => (.scRead, n, [])
  | .scStore n v _ => (.scWrite, n, toBytes v n)

/-- A request goes to the node that performs it. -/
def State.sendAtom (s : State) (r : AtomReq) : State :=
  (s.modNet fun q => { q with atoms := q.atoms ++ [r] }).request r.key r.ask.1 r.ask.2.1 r.ask.2.2

/-! ## Bytes -/

def Loc.key : Loc → Nat
  | .spad u off => spadKey u off
  | .mem p => p.key
  | _ => 0

/-- The location lies in the stroke's own scratchpad. -/
def Loc.own (l : Loc) (k : Nat) : Bool := match l with
  | .spad u _ => u == unitOf k
  | _ => false

/-- A plain load of bytes (R235). -/
def State.readLoc (s : State) (k key n : Nat) : Acc Nat :=
  match s.readTrap key n with
  | some f => .bad f
  | none => let (v, s) := s.load k key n; .ok v s

/-- The bytes of a store at a location: nib-local in the own scratchpad, pending elsewhere (Table 9-2). A store that does not fit the
pending limits, or meets a wash hold, waits (R229, R267); `bnd` boundaries of the stroke precede it. -/
def State.storeFrom (s : State) (k : Nat) (bnd : BitVec 32) (l : Loc) (bs : List Byte) : Acc Unit :=
  let key := l.key
  match s.writeTrap key bs.length with
  | some f => .bad f
  | none =>
    if l.own k then
      if s.heldFrom k bnd key bs.length then .bad (.hold s)
      else .ok () (s.modMem fun m => m.localWrite (unitOf k) key bs)
    else if !s.pendFits k key bs.length then .bad (.hold s)
    else .ok () (s.pendWrite k key bs)

def State.storeLoc (s : State) (k : Nat) (l : Loc) (bs : List Byte) : Acc Unit := s.storeFrom k (((s.stroke k).map (·.bnd)).getD 0) l bs

/-- R121: a setting write to another nib's scratchpad carries the stroke's earlier stores there; those of its out-ports come first. -/
def Stroke.maySet (t : Stroke) (k : Nat) (l : Loc) (n : Bool) : Bool := !n || l.own k || t.outsStored

/-- R119–R121: a setting write sets the full bits with its data; in another nib's scratchpad it makes the writer's earlier stores to
that scratchpad visible there. -/
def State.setting (s : State) (k : Nat) (l : Loc) (n : Nat) : State :=
  match l with
  | .spad u off =>
    s.modMem fun m =>
      let m := m.setFulls (spadKey u off / 16 * 16) true (granules (spadKey u off) n)
      if u == unitOf k then m else m.reveal k (spadKey u 0) (spadKey (u + 1) 0) [u]
  | _ => s

/-! ## Watchers (R184, R297) -/

/-- APPLIED of an object on a slab. -/
def State.applied (s : State) (obj slab : Nat) : Nat :=
  match tabFind s.svc.book.objects obj with
  | some o => o.applied.getD slab 0
  | none => 0

/-- The value a watcher tests has reached what it awaits. A watcher of CPWAIT stays armed when its object is released: it tests the object that is defined
under that number next (log entry 80). -/
def State.reached (s : State) (w : Watcher) : Bool :=
  match w.key with
  | some k => ofBytes (s.mem.bytes k 8) ≥ w.value.toNat
  | none => s.applied w.obj w.slab ≥ w.value.toNat

/-- A watcher, or a wait of the overflow list, keeps that its value has been reached, whatever the value becomes before its wake word is posted. -/
def State.latchWatchers (s : State) : State :=
  if s.eng.watchers.isEmpty then s
  else s.modEng fun e => { e with watchers := e.watchers.map fun w => { w with latched := w.latched || s.reached w } }

/-! ## The state block of a method (R284, R285) -/

/-- A byte of the object's copy as the method in a context sees it: its own buffered write, else the copy before the method began. -/
def State.methodByte (s : State) (u off : Nat) : Byte :=
  match tabFind s.svc.book.runs u with
  | none => 0
  | some r =>
    match tabFind r.buffer off with
    | some b => b
    | none => s.mem.byte (copyKey (slabOf u) r.obj off)

def State.methodBytes (s : State) (u off : Nat) : Nat → List Byte
  | 0 => []
  | n + 1 => s.methodByte u off :: s.methodBytes u (off + 1) n

def bufferBytes (t : Table Byte) (off : Nat) : List Byte → Table Byte
  | [] => t
  | b :: bs => bufferBytes (tabPut t off b) (off + 1) bs

def State.modRunOf (s : State) (u : Nat) (f : CbRun → CbRun) : State :=
  match tabFind s.svc.book.runs u with
  | some r => s.modSvc fun v => { v with book := { v.book with runs := tabPut v.book.runs u (f r) } }
  | none => s

/-- A store of a mutating method goes to its write buffer. -/
def State.methodStore (s : State) (u off : Nat) (bs : List Byte) : State :=
  s.modRunOf u fun r => { r with buffer := bufferBytes r.buffer off bs }

/-! ## Page elements (R66, R67) -/

/-- The scale code of an element: `off` is the element's offset in its region, `high` the D4 nibble. -/
def State.scaleCode (s : State) (k : Nat) (stale areg : Bool) (p : Phys) (off : Nat) (high : Bool) : Acc (Option Nat) :=
  if !p.scaled then .ok none s
  else
    let low := off % 2 ^ 60
    let n := if p.fmt == 4 then 2 * low + (if high then 1 else 0) else low
    let a := off / 2 ^ 61 * 2 ^ 61 + 2 ^ 60 + n / p.blockLen
    match s.locateVa k stale areg a 5 with
    | (.mem q, s) =>
      match s.readLoc k q.key 1 with
      | .ok v s => .ok (some v) s
      | .bad f => .bad f
    | (l, s) => .bad ((failLoc s l).getD (.hold s))

/-- The value of an element at a byte of a formatted page. -/
def State.readElem (s : State) (k : Nat) (stale areg : Bool) (p : Phys) (delta : Nat) (high : Bool) : Acc Word :=
  match s.scaleCode k stale areg p (p.off + delta) high with
  | .bad f => .bad f
  | .ok sc s =>
    match s.readLoc k (p.key + delta) (fmtBytes p.fmt) with
    | .bad f => .bad f
    | .ok v s =>
      let c := if p.fmt == 4 then (if high then v / 16 else v % 16) else v
      .ok (pageValue c p.fmt sc.isSome (sc.getD 0)) s

/-- The element's code for a stored payload. -/
def State.elemCode (s : State) (k : Nat) (stale areg : Bool) (p : Phys) (delta : Nat) (high wide : Bool) (v : Nat) : Acc Nat :=
  match s.scaleCode k stale areg p (p.off + delta) high with
  | .bad f => .bad f
  | .ok sc s => .ok (storeCode v p.fmt sc.isSome (sc.getD 0) wide) s

/-- The byte that a nibble store writes: the other nibble as the stroke sees it now (R115). -/
def State.mergeNibble (s : State) (k key c : Nat) (high : Bool) : Nat :=
  let old := (s.load k key 1).1
  if high then c % 16 * 16 + old % 16 else old / 16 * 16 + c % 16

/-- R110, R113: locate a scalar access; the two nibbles of a D4 page are one byte whatever the size field says, present or not. -/
def State.locateScalar (s : State) (k : Nat) (stale raw : Bool) (space a size kind : Nat) : Loc × State :=
  if space % 2 == 1 && size == 1 && !raw && a % 2 != 0 then
    match s.locateVa k stale (space == 3) a kind with
    | (.mem p, s') => if p.fmt == 4 then (.mem p, s') else (.trap trMISALIGN (word a), s)
    | r => if s.pageFmt k (space == 3) a == some 4 then r else (.trap trMISALIGN (word a), s)
  else s.locate k stale space a (2 ^ size) kind

/-- R393: whether a stream's access uses what is cached. -/
def State.streamStale (s : State) (k space a kind : Nat) : Bool × State :=
  match s.stroke k with
  | some t => if space % 2 == 1 then s.drawStale k (t.region (space == 3)) a kind else (false, s)
  | none => (false, s)

/-- R113: the trap of a size that does not suit the page. -/
def sizeTrap (s : State) (p : Phys) (size : Nat) (raw : Bool) : Option Fire :=
  if raw || sizeFits p.fmt size then none else some (.trap s trSIZEFMT (word (p.fmt + size * 16)))

/-- The slot's token: at once from the own scratchpad, with a reply otherwise (MEMORY_REPLY). -/
def replyFrom (own : Bool) (x : Ctx) (s : State) (w : Word) : Fire :=
  if own then .value s w else .owed (s.pushReply x.k x.ins.serial x.n (some w))

end Sys2Proof.Machine
end

