-- ==== Sys2Proof/Machine/Functions.lean ====
section
/-!
DEFINITION. Machine/Functions.lean: RCP, RSQ, EXP2, LOG2, TANH and the logistic function, correctly rounded (R73, R99).
A transcendental value is enclosed between two fixed-point numbers; both ends are rounded, and where they agree the result is the
rounded value. Where they do not, the result is a free value (log entry 1).
-/
namespace Sys2Proof.Machine

/-- Fraction bits of the fixed-point numbers. -/
def fixBits : Nat := 400

def fixOne : Nat := 2 ^ fixBits

/-- Sum of `z^(2n+1) / (2n+1)` over `m` terms from index `n`; `pw` is `z^(2n+1)`. -/
def atanhSum (z2 : Nat) : Nat → Nat → Nat → Nat
  | 0, _, _ => 0
  | m + 1, n, pw => pw / (2 * n + 1) + atanhSum z2 m (n + 1) (pw * z2 / fixOne)

/-- atanh of a fraction of at most 1/3. -/
def atanhFix (n d : Nat) : Nat :=
  let z := n * fixOne / d
  atanhSum (z * z / fixOne) 140 0 z

/-- ln 2. -/
def ln2Fix : Nat := 2 * atanhFix 1 3

/-- Sum of `y^n / n!` over `m` terms from index `n`; `term` is `y^n / n!`. -/
def expSum (y : Nat) : Nat → Nat → Nat → Nat
  | 0, _, _ => 0
  | m + 1, n, term => term + expSum y m (n + 1) (term * y / fixOne / (n + 1))

/-- e^y for y below 1. -/
def expFix (y : Nat) : Nat := expSum y 90 0 fixOne

/-- An enclosure of a positive value: a fixed-point centre and a radius, over a power of two. -/
structure Enclosure where
  lo : Nat
  hi : Nat
  den : Nat
  deriving DecidableEq, Repr

/-- Half the width of an enclosure, in units of the last place. -/
def slack : Nat := 2 ^ 30

def encloses (v den : Nat) : Enclosure := { lo := v - slack, hi := v + slack, den := den }

/-- An odd number next to `n`: over a power of two it is no short binary fraction, so it rounds as an inexact value. -/
def oddNear (n : Nat) : Nat := if n % 2 == 1 then n else n + 1

/-- Round an enclosed value; `id` and `x` name the function and its operand for the free value. -/
def roundEnclosed (id : Nat) (x : Nat) (rm : Round) (rmBits : Nat) (fo neg : Bool) (e : Enclosure) : Flagged Nat :=
  let a := roundBin .f32 rm fo neg (oddNear e.lo) e.den
  let b := roundBin .f32 rm fo neg (oddNear e.hi) e.den
  if a == b then a else ((Config.freeRound id (word x) rmBits).toNat, flagNX)

/-- 2^(n / d) for a fraction below 1, in fixed point. -/
def pow2Frac (n d : Nat) : Nat := expFix (n * ln2Fix / d)

/-- e^(n / d) as a fixed-point mantissa in [1, 2) and an exponent of two. -/
def expSplit (n d : Nat) : Nat × Nat :=
  let y := n * fixOne / d
  let q := y / ln2Fix
  (expFix (y - q * ln2Fix), q)

/-- EXP2 of a nonzero finite value. -/
def exp2Num (x : Nat) (neg : Bool) (n d : Nat) (rm : Round) (rmBits : Nat) (fo : Bool) : Flagged Nat :=
  if n ≥ 200 * d then
    -- far outside the range of FP32: any value beyond it rounds alike
    if neg then roundBin .f32 rm fo false (oddNear (2 ^ 40)) (2 ^ 240) else roundBin .f32 rm fo false (2 ^ 200) 1
  else
    let i := n / d
    let f := n % d
    if f == 0 then
      (if neg then roundBin .f32 rm fo false 1 (2 ^ i) else roundBin .f32 rm fo false (2 ^ i) 1)
    else if neg then
      -- -(i + f) = -(i + 1) + (1 - f)
      let m := pow2Frac (d - f) d
      roundEnclosed 0 x rm rmBits fo false (encloses m (fixOne * 2 ^ (i + 1)))
    else
      let m := pow2Frac f d
      let e := encloses m fixOne
      roundEnclosed 0 x rm rmBits fo false { lo := e.lo * 2 ^ i, hi := e.hi * 2 ^ i, den := fixOne }

/-- LOG2 of a positive finite value. -/
def log2Num (x : Nat) (n d : Nat) (rm : Round) (rmBits : Nat) (fo : Bool) : Flagged Nat :=
  let e := floorLog2 n d
  -- n / d = 2^e * (mn / md), 1 ≤ mn / md < 2
  let (mn, md) := if e ≥ 0 then (n, d * 2 ^ e.toNat) else (n * 2 ^ (-e).toNat, d)
  if mn == md then
    if e == 0 then (0, 0) else roundBin .f32 rm fo (e < 0) e.natAbs 1
  else
    let l := 2 * atanhFix (mn - md) (mn + md) * fixOne / ln2Fix
    if e ≥ 0 then roundEnclosed 1 x rm rmBits fo false (encloses (e.toNat * fixOne + l) fixOne)
    else roundEnclosed 1 x rm rmBits fo true (encloses ((-e).toNat * fixOne - l) fixOne)

/-- TANH of a nonzero finite value. -/
def tanhNum (x : Nat) (neg : Bool) (n d : Nat) (rm : Round) (rmBits : Nat) (fo : Bool) : Flagged Nat :=
  if n ≥ 40 * d then roundBin .f32 rm fo neg (2 ^ 100 - 1) (2 ^ 100)
  else if n * 2 ^ 40 < d then
    -- just below x in magnitude: x - x^3/3 < tanh x < x
    roundBin .f32 rm fo neg (n * (2 ^ 60 - 1)) (d * 2 ^ 60)
  else
    let (m, q) := expSplit (2 * n) d
    let ex := m * 2 ^ q
    let v := (ex - fixOne) * fixOne / (ex + fixOne)
    roundEnclosed 2 x rm rmBits fo neg (encloses v fixOne)

/-- 1 / (1 + e^(-x)) of a nonzero finite value. -/
def sigmNum (x : Nat) (neg : Bool) (n d : Nat) (rm : Round) (rmBits : Nat) (fo : Bool) : Flagged Nat :=
  if n ≥ 200 * d then
    if neg then roundBin .f32 rm fo false (oddNear (2 ^ 40)) (2 ^ 240) else roundBin .f32 rm fo false (2 ^ 100 - 1) (2 ^ 100)
  else if n * 2 ^ 40 < d then
    -- 1/2 + x/4 to far more places than FP32 holds
    let h := 2 ^ 100
    roundBin .f32 rm fo false (if neg then h - 1 else h + 1) (2 * h)
  else
    let (m, q) := expSplit n d
    let ex := m * 2 ^ q
    -- neg: 1 / (1 + E); else E / (1 + E)
    let scale := fixOne * 2 ^ 300
    let v := if neg then fixOne * scale / (fixOne + ex) else ex * scale / (fixOne + ex)
    roundEnclosed 3 x rm rmBits fo false { lo := v - 2 ^ 340, hi := v + 2 ^ 340, den := scale }

/-- Integer square root by bits from `2^(b-1)` down. -/
def isqrtBits (v : Nat) : Nat → Nat → Nat
  | 0, r => r
  | b + 1, r => let r' := r + 2 ^ b; isqrtBits v b (if r' * r' ≤ v then r' else r)

/-- 1 / √(n/d): exact when the root is; otherwise a value that rounds as the exact one does. -/
def rsqNum (n d : Nat) (rm : Round) (fo : Bool) : Flagged Nat :=
  -- √(d / n) = √(d * n * 4^160) / (n * 2^160)
  let v := d * n * 4 ^ 160
  let r := isqrtBits v (v.log2 / 2 + 1) 0
  if r * r == v then roundBin .f32 rm fo false r (n * 2 ^ 160)
  else roundBin .f32 rm fo false (2 * r + 1) (2 * n * 2 ^ 160)

/-- Which function: 0 RCP, 1 RSQ, 2 EXP2, 3 LOG2, 4 TANH, 5 logistic. -/
def fpFunction (id : Nat) (rmBits : Nat) (fi fo : Bool) (v : Nat) : Flagged Nat :=
  let rm := Round.ofBits rmBits
  let a := operand .f32 fi v
  let nan := Fmt.nan .f32
  let inf := fun neg : Bool => signBit .f32 neg + infCode .f32
  let one := 0x3F800000
  match a with
  | .nan sg => (nan, flagIf sg flagNV)
  | .inf neg =>
    match id with
    | 0 => (signBit .f32 neg, 0)
    | 1 => if neg then (nan, flagNV) else (0, 0)
    | 2 => if neg then (0, 0) else (inf false, 0)
    | 3 => if neg then (nan, flagNV) else (inf false, 0)
    | 4 => (signBit .f32 neg + one, 0)
    | _ => if neg then (0, 0) else (one, 0)
  | .zero neg =>
    match id with
    | 0 | 1 => (inf neg, flagDZ)
    | 2 => (one, 0)
    | 3 => (inf true, flagDZ)
    | 4 => (signBit .f32 neg, 0)
    | _ => (0x3F000000, 0)
  | .fin neg n d =>
    match id with
    | 0 => roundBin .f32 rm fo neg d n
    | 1 => if neg then (nan, flagNV) else rsqNum n d rm fo
    | 2 => exp2Num v neg n d rm (rmBits % 4) fo
    | 3 => if neg then (nan, flagNV) else log2Num v n d rm (rmBits % 4) fo
    | 4 => tanhNum v neg n d rm (rmBits % 4) fo
    | _ => sigmNum v neg n d rm (rmBits % 4) fo

end Sys2Proof.Machine
end

