-- ==== Sys2Proof/Machine/FloatOps.lean ====
section
/-!
DEFINITION. Machine/FloatOps.lean: floating-point results and their flags (R70–R80, R99–R103), as codes.
-/
namespace Sys2Proof.Machine

/-- An exact sum of products and addends, rounded once (R74, R75). Products come as pairs of operands. -/
def fpSum (f : Fmt) (rm : Round) (fo : Bool) (prods : List (Num × Num)) (adds : List Num) : Flagged Nat :=
  let ps := prods.map fun p => mulNum p.1 p.2
  let bad := ps.any (·.2)
  let (x, fl) := sumNum rm (ps.map (·.1) ++ adds)
  let (c, fl2) := roundNum f rm fo x
  (c, fl ||| fl2 ||| flagIf bad flagNV)

/-- A single product rounded once. -/
def fpMul (f : Fmt) (rm : Round) (fo : Bool) (a b : Num) : Flagged Nat :=
  let (x, bad) := mulNum a b
  let (c, fl) := roundNum f rm fo x
  (c, fl ||| flagIf (bad || x.isSig) flagNV)

/-- FMIN and FMAX (R100). -/
def fpMinMax (isMax prop fi fo : Bool) (a b : Nat) : Flagged Nat :=
  let flush := fun c : Nat => if fi && isSubnormal .f32 c then c / 2 ^ 31 * 2 ^ 31 else c
  let ca := flush (a % 2 ^ 32)
  let cb := flush (b % 2 ^ 32)
  let x := decodeNum .f32 ca
  let y := decodeNum .f32 cb
  let nan := Fmt.nan .f32
  let out := fun c : Nat =>
    if fo && isSubnormal .f32 c then (c / 2 ^ 31 * 2 ^ 31, flagUF ||| flagNX) else (c, 0)
  if x.isSig || y.isSig then (nan, flagNV)
  else if x.isNan && y.isNan then (nan, 0)
  else if x.isNan then (if prop then (nan, 0) else out cb)
  else if y.isNan then (if prop then (nan, 0) else out ca)
  else
    let aSmaller := ltNum x y
    out (if isMax then (if aSmaller then cb else ca) else (if ltNum y x then cb else ca))

/-- FCMP (R102): 0 EQ, 1 LT, 2 LE, 3 UN. -/
def fpCompare (cond : Nat) (x y : Num) : Bool × Flags :=
  let un := x.isNan || y.isNan
  let sig := x.isSig || y.isSig
  let fl := flagIf (sig || (un && (cond == 1 || cond == 2))) flagNV
  match cond with
  | 0 => (!un && cmpNum x y == 0, fl)
  | 1 => (!un && cmpNum x y < 0, fl)
  | 2 => (!un && cmpNum x y ≤ 0, fl)
  | _ => (un, fl)

/-- FCLASS (R80): the bit of Table 3-8. Selector 0 FP32, 1 FP16, 2 BF16, 3 D8. -/
def fpClass (sel : Nat) (v : Nat) : Nat :=
  let f := match sel with
    | 0 => Fmt.f32
    | 1 => .f16
    | 2 => .bf16
    | _ => .d8
  let c := v % 2 ^ f.width
  let bitOf : Nat := match decodeNum f c with
    | .nan sg => if f == .d8 then 9 else if sg then 8 else 9
    | .inf neg => if neg then 0 else 7
    | .zero neg => if neg then 3 else 4
    | .fin neg _ _ => if isSubnormal f c then (if neg then 2 else 5) else (if neg then 1 else 6)
  2 ^ bitOf

/-- CVT (R77): result payload and flags. -/
def fpConvert (src dst : Fmt) (rm : Round) (fi fo : Bool) (v : Nat) : Word × Flags :=
  let x := operand src fi v
  let sig := flagIf x.isSig flagNV
  if dst.isInt then
    let clampFlag := if src.isInt then flagClamp else flagNV
    match x with
    | .nan _ => (0, flagNV)
    | .inf neg =>
      let w := dst.width
      (sext (if neg then 2 ^ (w - 1) else 2 ^ (w - 1) - 1) w, clampFlag)
    | .zero _ => (0, 0)
    | .fin neg n d =>
      let (y, nx) := roundInt rm neg n d
      let (r, cl) := satS y dst.width
      (sext (ofInt r dst.width) dst.width, if cl then clampFlag else flagIf nx flagNX)
  else
    let (c, fl) := roundNum dst rm fo x
    (zext c dst.width, fl ||| sig)

/-- The largest finite magnitude of a floating-point or decimal format. -/
def maxFinite (f : Fmt) : Num :=
  if f.isBin then decodeBin f (infCode f - 1) else decodeNum f 3

/-- The smallest positive normal of a binary format, or the smallest positive image of a decimal one. -/
def minNormal (f : Fmt) : Num :=
  if f.isBin then decodeBin f (2 ^ f.fracBits)
  else (decCandidates f).foldl (fun acc x => match acc with
    | .fin _ n d => if fracLe x.2.1 x.2.2 n d then .fin false x.2.1 x.2.2 else acc
    | _ => .fin false x.2.1 x.2.2) (.zero false)

/-- The neighbours of a magnitude toward and away from zero, as codes with their values; the magnitude lies strictly between. -/
def neighbours (f : Fmt) (n d : Nat) : (Nat × Num) × (Nat × Num) :=
  if f.isBin then
    let lo := (roundBin f .rz false false n d).1
    ((lo, decodeBin f lo), (lo + 1, decodeBin f (lo + 1)))
  else
    let c := decCandidates f
    let lo := decBelow c n d
    let hi := (decAbove c n d).getD (3, 0, 1)
    ((lo.1, if lo.1 == 0 then .zero false else .fin false lo.2.1 lo.2.2), (hi.1, .fin false hi.2.1 hi.2.2))

/-- SRND (R78). -/
def fpStochastic (dst : Fmt) (fi fo : Bool) (a rnd : Nat) : Word × Flags :=
  let x := operand .f32 fi a
  let plain := fpConvert .f32 dst .rne fi fo a
  match x with
  | .fin neg n d =>
    let mag : Num := .fin false n d
    let back := decodeNum dst ((roundNum dst .rz false mag).1)
    if cmpNum mag (maxFinite dst) > 0 || cmpNum back mag == 0 then plain
    else
      let ((lc, lv), (hc, hv)) := neighbours dst n d
      let (ln, ld) := lv.frac
      let (hn, hd) := hv.frac
      -- rnd * (hi - lo) < (x - lo) * 2^32, over one denominator
      let up := ((rnd % 2 ^ 32 : Nat) : Int) * (hn * ld - ln * hd) * (d : Int) <
        ((n : Int) * ld - ln * (d : Int)) * hd * ((2 ^ 32 : Nat) : Int)
      let m := if up then hc else lc
      let flushed := fo && isSubnormal dst m
      let code := if flushed then signBit dst neg
        else if dst.isBin then signBit dst neg + m else decCode dst neg m
      let uf := cmpNum mag (minNormal dst) < 0 || flushed
      (zext code dst.width, flagNX ||| flagIf uf flagUF)
  | _ => plain

/-- The four 16-bit elements of a token (R103). -/
def halves (v : Nat) : List Nat := [v % 65536, v / 65536 % 65536, v / 2 ^ 32 % 65536, v / 2 ^ 48 % 65536]

def ofHalves : List Nat → Nat
  | [] => 0
  | x :: t => x % 65536 + 65536 * ofHalves t

/-- A packed operation: element results joined, flags united. -/
def packed (l : List (Flagged Nat)) : Word × Flags :=
  (word (ofHalves (l.map (·.1))), l.foldl (fun acc x => acc ||| x.2) 0)

/-- fmix of R79. -/
def fmix (z : Nat) : Nat :=
  let z := z ^^^ (z / 2 ^ 33)
  let z := z * 0xFF51AFD7ED558CCD % 2 ^ 64
  let z := z ^^^ (z / 2 ^ 33)
  let z := z * 0xC4CEB9FE1A85EC53 % 2 ^ 64
  z ^^^ (z / 2 ^ 33)

/-- The `n`-th random token of a key and counter (R79). -/
def randomToken (key ctr n : Nat) : Word :=
  let z := fmix ((ctr + n / 2 + key) % 2 ^ 64)
  if n % 2 == 0 then word (z % 2 ^ 32) else word (z / 2 ^ 32)

end Sys2Proof.Machine
end

