-- ==== Sys2Proof/Machine/Operands.lean ====
section
/-!
DEFINITION. Machine/Operands.lean: the integer operations over tokens (R92–R97): widths, views and results.
-/
namespace Sys2Proof.Machine

/-- Width of Table 4-4: 64, 32, 16 or 8 bits. -/
def intWidth (w : BitVec 2) : Nat := 64 / 2 ^ w.toNat

/-- view(x) of R92. -/
def intView (w : Nat) (u : BitVec 1) (x : Word) : Int :=
  if u == 1 then ((x.toNat % 2 ^ w : Nat) : Int) else toSigned x.toNat w

/-- The result of R92: the low W bits extended by U. -/
def intExtend (w : Nat) (u : BitVec 1) (v : Int) : Word :=
  if u == 1 then zext (ofInt v w) w else sext (ofInt v w) w

/-- A bitwise operation on the two views (R93). -/
def intBits (f : Word → Word → Word) (w : Nat) (a b : Word) : Int := (((f a b).toNat % 2 ^ w : Nat) : Int)

/-- The shift amount B<5:0> mod W. -/
def shiftAmount (b : Word) (w : Nat) : Nat := b.toNat % 64 % w

/-- Leading zeros of the W low bits. -/
def leadingZeros (w : Nat) (a : Word) : Nat :=
  let v := a.toNat % 2 ^ w
  if v == 0 then w else w - 1 - v.log2

/-- Ones in a list of bit positions of a number. -/
def onesIn (v : Nat) : Nat → Nat
  | 0 => 0
  | n + 1 => (if bit v n then 1 else 0) + onesIn v n

/-- DIV of R94: quotient, DZ, OF with NX (R70). -/
def intDiv (w : Nat) (u : BitVec 1) (a b : Int) : Int × Flags :=
  if b == 0 then (if u == 1 then ((2 ^ w : Nat) : Int) - 1 else -1, flagDZ)
  else if u == 0 && a == -((2 ^ (w - 1) : Nat) : Int) && b == -1 then (a, flagClamp)
  else (a.tdiv b, 0)

/-- REM of R94. -/
def intRem (w : Nat) (u : BitVec 1) (a b : Int) : Int × Flags :=
  if b == 0 then (a, flagDZ)
  else if u == 0 && a == -((2 ^ (w - 1) : Nat) : Int) && b == -1 then (0, flagClamp)
  else (a.tmod b, 0)

/-- satS or satU of R93, with OF and NX when it clamps (R70). -/
def intSat (w : Nat) (u : BitVec 1) (x : Int) : Int × Flags :=
  let r := if u == 1 then satU x w else satS x w
  (r.1, flagIf r.2 flagClamp)

/-- The condition of CMP. -/
def intCond (f : BitVec 2) (a b : Int) : Bool :=
  match f.toNat with
  | 0 => a == b
  | 1 => a != b
  | 2 => a < b
  | _ => a ≥ b

/-- BFX (R96). -/
def bitField (u : BitVec 1) (a b : Word) : Word :=
  let pos := b.toNat % 64
  let len := min (bits b.toNat 14 8) 64
  let f := a.toNat / 2 ^ pos % 2 ^ len
  if len == 0 then 0 else if u == 1 then word f else sext f len

/-- BFI (R96). -/
def bitInsert (a b c : Word) : Word :=
  let pos := c.toNat % 64
  let len := min (bits c.toNat 14 8) 64
  let m : Word := word ((2 ^ len - 1) * 2 ^ pos)
  (a &&& ~~~m) ||| (word (b.toNat * 2 ^ pos) &&& m)

/-- LEA (R97). -/
def leaAddr (x : BitVec 1) (k : BitVec 3) (a b : Word) : Word :=
  let idx : Int := if x == 1 then toSigned b.toNat 32 else (b.toNat : Int)
  word (ofInt ((a.toNat : Int) + idx * ((2 ^ k.toNat : Nat) : Int)) 64)

/-- The four-bit lanes of a token, lane 0 first. -/
def nibbles (v : Nat) : Nat → List Nat
  | 0 => []
  | n + 1 => v % 16 :: nibbles (v / 16) n

def ofNibbles : List Nat → Nat
  | [] => 0
  | x :: t => x % 16 + 16 * ofNibbles t

/-- Exchange two elements. -/
def swapAt {α : Type} (l : List α) (i j : Nat) : List α :=
  match l[i]?, l[j]? with
  | some x, some y => listSet (listSet l i y) j x
  | _, _ => l

/-- One stage of the Beneš network (R139): distance `d`, the stage's eight switch bits `c`; `k` counts switches. -/
def benesStage {α : Type} (d c : Nat) : Nat → Nat → Nat → List α → List α
  | 0, _, _, l => l
  | n + 1, j, k, l =>
    if j / d % 2 == 0 then benesStage d c n (j + 1) (k + 1) (if bit c k then swapAt l j (j + d) else l)
    else benesStage d c n (j + 1) k l

/-- The Beneš network of R139 on sixteen lanes. -/
def benes {α : Type} (l : List α) (c : Nat) : List α :=
  [8, 4, 2, 1, 2, 4, 8].zipIdx.foldl (fun acc x => benesStage x.1 (c / 2 ^ (8 * x.2) % 256) 16 0 0 acc) l

end Sys2Proof.Machine
end

