-- ==== Sys2Proof/Machine/Atomics.lean ====
section
/-!
DEFINITION. Machine/Atomics.lean: scalar, vector and floating-point atomics, AFINIT, and their application at owner nodes, banks and SC ring
nodes (R239–R248); the delivery of replies (R48).
-/
namespace Sys2Proof.Machine

/-! ## Replies -/

/-- Table 11-7: CPLAST and CPSTAT after the delivery of a copybook result. -/
def StrokeRegs.noteCp (r : StrokeRegs) (c : CpNote) : StrokeRegs :=
  { r with
    cplast := word c.index,
    cpstat := word (c.code * 2 ^ 56 + c.obj * 2 ^ 28 + (if c.code != 0 || bit r.cpstat.toNat 9 then 512 else 0) +
      (if c.ro then 256 else 0) + c.method) }

/-- A reply has come: the slot leaves the owed mode, gives up the tokens it kept, and its token goes out (R48). -/
def State.giveReply (s : State) (r : Reply) : State :=
  let s := match r.cp with
    | some c => s.modRegs r.stroke (·.noteCp c)
    | none => s
  match s.inst r.stroke with
  | some i =>
    if i.serial == r.serial then
      let s := s.modSlot r.stroke r.slot fun x =>
        let x := if x.kept then
            match i.instr r.slot with
            | some w => { (formOf w x).consume x true with kept := false }
            | none => x
          else x
        { x with mode := .ready, out1 := if x.to1 == 0 then none else some r.tok, out2 := if x.to2 == 0 then none else some r.tok }
      s.flush r.stroke
    else s
  | none => s

/-- MEMORY_REPLY: reply `n` reaches its slot. -/
def memoryReply (n : Nat) (s : State) : State :=
  match s.net.replies[n]? with
  | none => s
  | some r =>
    if isPeer r.stroke then
      (s.modNet fun q => { q with replies := listDrop q.replies n }).sendPeer (peerOf r.stroke) 0
        { msg := .reply 0 (toBytes (r.tok.getD 0).toNat 8) }
    else if isSaved r.stroke then s else (s.modNet fun q => { q with replies := listDrop q.replies n }).giveReply r

def execMemoryReply (n : Nat) (s : State) : Host.Outcome State Fault Refusal := .next (memoryReply n s)

/-- A slot that waits for an owner is to fire again, or to trap, with the tokens it kept. -/
def State.unsend (s : State) (k slot : Nat) : State := s.modSlot k slot fun x => { x with mode := .ready, kept := false }

/-! ## Firing (R241–R245) -/

/-- Width in bytes of a scalar atomic. -/
def atomBytes (size : Nat) : Nat := if size ≥ 2 then 4 else 8

/-- Bank numbers follow the wells. -/
def bankNode (u : Nat) : Nat := 4096 + u

/-- Where an atomic on `n` bytes at `a` goes: the request, its kind still to come, or the failure. `fits` are the page formats allowed
beside none. -/
def State.atomAt (s : State) (x : Ctx) (space a n size : Nat) (fits : Nat → Bool) (kind : AtomKind) : Acc AtomReq :=
  let req : AtomReq := { stroke := x.k, serial := x.ins.serial, slot := x.n, node := 0, key := 0, addr := word a, kind }
  match s.locate x.k x.stale space a n 3 with
  | (.mem p, s) =>
    if p.fmt != 15 && !fits p.fmt then .bad (.trap s trSIZEFMT (word (p.fmt + size * 16)))
    else
      match s.ownerNode p with
      | (none, s) => .bad (.trap s trATOMOWN (word a))
      | (some node, s) =>
        match s.readTrap p.key n with
        | some f => .bad f
        | none => .ok { req with node, key := p.key, region := p.region, level := p.leaf.level, sc := s.inSc p } s
  | (.spad u off, s) =>
    match s.readTrap (spadKey u off) n with
    | some f => .bad f
    | none => .ok { req with node := bankNode u, key := spadKey u off } s
  | (l, s) => .bad ((failLoc s l).getD (.hold s))

/-- Formats of R241: INT32 for 4 bytes, INT64 for 8. -/
def intFits (n fmt : Nat) : Bool := (fmt == 7 && n == 4) || (fmt == 8 && n == 8)

/-- Formats of R244 and R245: FP32. -/
def fpFits (fmt : Nat) : Bool := fmt == 0

/-- A scalar atomic, operation 0–6, or 7 for ACAS. -/
def scalarAtomic (op space size : Nat) (x : Ctx) (g : Args) (s : State) : Fire :=
  let n := atomBytes size
  match s.atomAt x space g.av.toNat n size (intFits n) (.scalar op size g.bv g.cv) with
  | .bad f => f
  | .ok r s => .sent (s.sendAtom r)

/-- Write RESUMEIDX. -/
def State.setResume (s : State) (k i : Nat) : State := s.modRegs k fun r => { r with resumeidx := word i }

def insertNat (x : Nat) : List Nat → List Nat
  | [] => [x]
  | y :: t => if x < y then x :: y :: t else if x == y then y :: t else y :: insertNat x t

/-- Send the lanes of a list. A lane that faults after others were sent stops the slot at that lane, to fire again once they have applied (R243). -/
def sendLanes (op space size : Nat) (x : Ctx) (base rec first : Nat) : List Nat → State → Fire
  | [], s => .sent (s.modSlot x.k x.n fun y => { y with lanes := [] })
  | i :: l, s =>
    let s := s.setResume x.k i
    let n := atomBytes size
    let r := rec + 16 * (i + 1)
    let (off, s) := s.load x.k r 8
    let (b, s) := s.load x.k (r + 8) 8
    match s.atomAt x space ((base + off) % 2 ^ 64) n size (intFits n) (.lane op size (word b) (r + 8)) with
    | .bad f => if i == first then f else .sent (s.modSlot x.k x.n fun y => { y with lanes := i :: l })
    | .ok q s => sendLanes op space size x base rec first l (s.sendAtom q)

/-- The lanes that a vector atomic of `cnt` lanes still has to send: those that came back to it, else those from RESUMEIDX on (R243). -/
def Ctx.lanesToSend (x : Ctx) (cnt : Nat) : List Nat :=
  let i := x.st.regs.resumeidx.toNat
  if x.me.lanes.isEmpty then span i (cnt - i) else x.me.lanes.filter fun j => i ≤ j && j < cnt

/-- A vector atomic (R242). -/
def vectorAtomic (op space size : Nat) (x : Ctx) (g : Args) (s : State) : Fire :=
  let b := g.bv.toNat
  if b % 16 != 0 then .trap s trMISALIGN g.bv
  else if b + 16 > x.st.decl.wsize then .trap s trSPADWIN g.bv
  else
    let rec0 := spadKey (unitOf x.k) (x.st.decl.wbase + b)
    match s.readTrap rec0 16 with
    | some f => f
    | none =>
      let (h, s) := s.load x.k rec0 16
      let cnt := h
      if cnt == 0 || cnt > 16 then .trap s trRSVOPND (word (h % 2 ^ 64))
      else if b + 16 * (cnt + 1) > x.st.decl.wsize then .trap s trSPADWIN g.bv
      else
        match s.readTrap rec0 (16 * (cnt + 1)) with
        | some f => f
        | none =>
          match x.lanesToSend cnt with
          | [] => .value (s.setResume x.k 0) (word cnt)
          | i :: l => sendLanes op space size x g.av.toNat rec0 i (i :: l) s

/-- AFADD (R244). -/
def afadd (space : Nat) (x : Ctx) (g : Args) (s : State) : Fire :=
  match s.atomAt x space g.av.toNat 4 2 fpFits (.afadd (g.bv.toNat / 2 ^ 32) (BitVec.ofNat 32 g.bv.toNat) false) with
  | .bad f => f
  | .ok r s => .sent (s.sendAtom r)

/-- AFINIT (R245). -/
def afinit (rel ax : Bool) (x : Ctx) (g : Args) (s : State) : Fire :=
  match s.atomAt x (if ax then 3 else 1) g.av.toNat 4 2 fpFits (.afinit rel (BitVec.ofNat 32 g.bv.toNat)) with
  | .bad f => f
  | .ok r s => .sent (s.sendAtom { r with sc := false })

def execAadd (t : BitVec 9) (p : BitVec 2) (n : BitVec 5) (sp z : BitVec 2) (s : State) : Host.Outcome State Fault Refusal :=
  fire (.aadd t p n sp z) (fun x g s => scalarAtomic 0 sp.toNat z.toNat x g s) s

def execAmin (t : BitVec 9) (p : BitVec 2) (n : BitVec 5) (sp z : BitVec 2) (s : State) : Host.Outcome State Fault Refusal :=
  fire (.amin t p n sp z) (fun x g s => scalarAtomic 1 sp.toNat z.toNat x g s) s

def execAmax (t : BitVec 9) (p : BitVec 2) (n : BitVec 5) (sp z : BitVec 2) (s : State) : Host.Outcome State Fault Refusal :=
  fire (.amax t p n sp z) (fun x g s => scalarAtomic 2 sp.toNat z.toNat x g s) s

def execAand (t : BitVec 9) (p : BitVec 2) (n : BitVec 5) (sp z : BitVec 2) (s : State) : Host.Outcome State Fault Refusal :=
  fire (.aand t p n sp z) (fun x g s => scalarAtomic 3 sp.toNat z.toNat x g s) s

def execAor (t : BitVec 9) (p : BitVec 2) (n : BitVec 5) (sp z : BitVec 2) (s : State) : Host.Outcome State Fault Refusal :=
  fire (.aor t p n sp z) (fun x g s => scalarAtomic 4 sp.toNat z.toNat x g s) s

def execAxor (t : BitVec 9) (p : BitVec 2) (n : BitVec 5) (sp z : BitVec 2) (s : State) : Host.Outcome State Fault Refusal :=
  fire (.axor t p n sp z) (fun x g s => scalarAtomic 5 sp.toNat z.toNat x g s) s

def execAswp (t : BitVec 9) (p : BitVec 2) (n : BitVec 5) (sp z : BitVec 2) (s : State) : Host.Outcome State Fault Refusal :=
  fire (.aswp t p n sp z) (fun x g s => scalarAtomic 6 sp.toNat z.toNat x g s) s

def execAcas (t : BitVec 9) (n : BitVec 5) (sp z : BitVec 2) (s : State) : Host.Outcome State Fault Refusal :=
  fire (.acas t n sp z) (fun x g s => scalarAtomic 7 sp.toNat z.toNat x g s) s

def execAaddv (t : BitVec 9) (p : BitVec 2) (n : BitVec 5) (sp z : BitVec 2) (s : State) : Host.Outcome State Fault Refusal :=
  fire (.aaddv t p n sp z) (fun x g s => vectorAtomic 0 sp.toNat z.toNat x g s) s

def execAminv (t : BitVec 9) (p : BitVec 2) (n : BitVec 5) (sp z : BitVec 2) (s : State) : Host.Outcome State Fault Refusal :=
  fire (.aminv t p n sp z) (fun x g s => vectorAtomic 1 sp.toNat z.toNat x g s) s

def execAmaxv (t : BitVec 9) (p : BitVec 2) (n : BitVec 5) (sp z : BitVec 2) (s : State) : Host.Outcome State Fault Refusal :=
  fire (.amaxv t p n sp z) (fun x g s => vectorAtomic 2 sp.toNat z.toNat x g s) s

def execAandv (t : BitVec 9) (p : BitVec 2) (n : BitVec 5) (sp z : BitVec 2) (s : State) : Host.Outcome State Fault Refusal :=
  fire (.aandv t p n sp z) (fun x g s => vectorAtomic 3 sp.toNat z.toNat x g s) s

def execAorv (t : BitVec 9) (p : BitVec 2) (n : BitVec 5) (sp z : BitVec 2) (s : State) : Host.Outcome State Fault Refusal :=
  fire (.aorv t p n sp z) (fun x g s => vectorAtomic 4 sp.toNat z.toNat x g s) s

def execAxorv (t : BitVec 9) (p : BitVec 2) (n : BitVec 5) (sp z : BitVec 2) (s : State) : Host.Outcome State Fault Refusal :=
  fire (.axorv t p n sp z) (fun x g s => vectorAtomic 5 sp.toNat z.toNat x g s) s

def execAswpv (t : BitVec 9) (p : BitVec 2) (n : BitVec 5) (sp z : BitVec 2) (s : State) : Host.Outcome State Fault Refusal :=
  fire (.aswpv t p n sp z) (fun x g s => vectorAtomic 6 sp.toNat z.toNat x g s) s

def execAfadd (t : BitVec 9) (p : BitVec 2) (n : BitVec 5) (sp : BitVec 2) (s : State) : Host.Outcome State Fault Refusal :=
  fire (.afadd t p n sp) (fun x g s => afadd sp.toNat x g s) s

def execAfinit (t v : BitVec 9) (p : BitVec 2) (l x : BitVec 1) (s : State) : Host.Outcome State Fault Refusal :=
  fire (.afinit t v p l x) (fun c g s => afinit (l == 1) (x == 1) c g s) s

/-! ## Application (R239, R241) -/

/-- The value an operation leaves, from the old value's view and the operand's; none when ACAS does not match. -/
def atomNew (op w : Nat) (u : BitVec 1) (old b c : Word) : Option Nat :=
  let x := intView w u old
  let y := intView w u b
  match op with
  | 0 => some (ofInt (x + y) w)
  | 1 => some (ofInt (min x y) w)
  | 2 => some (ofInt (max x y) w)
  | 3 => some ((old &&& b).toNat % 2 ^ w)
  | 4 => some ((old ||| b).toNat % 2 ^ w)
  | 5 => some ((old ^^^ b).toNat % 2 ^ w)
  | 6 => some (b.toNat % 2 ^ w)
  | _ => if old.toNat % 2 ^ w == b.toNat % 2 ^ w then some (c.toNat % 2 ^ w) else none

/-- Unit whose bank a node is. -/
def bankUnit (node : Nat) : Option Nat := if 4096 ≤ node && node < 1048576 then some (node - 4096) else none

/-- Before an update applies, the versions that stand before it go home: the issuer's own (R239), which it goes on seeing (R235), those committed
at module scope, and those that the issuer or the bank's nib sees (R234). -/
def State.gather (s : State) (r : AtomReq) (n : Nat) : State :=
  s.modMem fun m => m.homeSeen (s.readerOf r.stroke) (bankUnit r.node) r.key n

/-- The update writes bytes as a committed write, or a nib-local one in the issuer's own bank. -/
def State.applyWrite (s : State) (r : AtomReq) (bs : List Byte) : State :=
  let s := s.modMem fun m => m.setBytes r.key bs
  if bankUnit r.node == some (unitOf r.stroke) then s else s.restable r.stroke r.key bs

/-- A wash holds the bytes of the issuer's own window that the update writes, or that its lane's old value goes to (R267). -/
def State.atomHeld (s : State) (r : AtomReq) : Bool :=
  let bnd := ((s.stroke r.stroke).map (·.bnd)).getD 0
  (bankUnit r.node == some (unitOf r.stroke) && s.heldFrom r.stroke bnd r.key (match r.kind with
    | .scalar _ size _ _ => atomBytes size
    | .lane _ size _ _ => atomBytes size
    | _ => 4)) || (match r.kind with
    | .lane _ _ _ rec => s.heldFrom r.stroke bnd rec 8
    | _ => false)

/-- One integer update at its node: the extended old value. -/
def State.applyInt (s : State) (r : AtomReq) (op size : Nat) (b c : Word) : Word × State :=
  let n := atomBytes size
  let s := s.gather r n
  let old := word (s.mem.get r.key n)
  let u : BitVec 1 := BitVec.ofNat 1 size
  let s := match atomNew op (8 * n) u old b c with
    | some v => s.applyWrite r (toBytes v n)
    | none => s
  (if u == 1 then zext old.toNat (8 * n) else sext old.toNat (8 * n), s)

/-- Lanes of a vector atomic that are still to apply. -/
def State.lanesLeft (s : State) (r : AtomReq) : Bool :=
  s.net.atoms.any fun a => a.stroke == r.stroke && a.serial == r.serial && a.slot == r.slot

/-- The key of the lane record of a vector atomic: its B is the record's window offset. -/
def State.laneRecord (s : State) (k : Nat) (me : SlotSt) : Nat :=
  spadKey (unitOf k) (((s.stroke k).map (·.decl.wbase)).getD 0 + (me.portB.join.getD 0).toNat)

/-- The lane that a request is of. -/
def AtomReq.laneAt (rec0 : Nat) (a : AtomReq) : Nat :=
  match a.kind with
  | .lane _ _ _ rec => (rec - 8 - rec0) / 16 - 1
  | _ => 0

/-- No lane of the slot is on its way any more: it replies with the count of lanes, or fires again from the first lane left (R243). -/
def State.lanesDone (s : State) (r : AtomReq) : State :=
  if s.lanesLeft r then s
  else
    match s.inst r.stroke with
    | none => s
    | some i =>
      if i.serial != r.serial then s
      else
        match i.slots[r.slot]? with
        | none => s
        | some x =>
          match x.lanes with
          | [] => (s.setResume r.stroke 0).pushReply r.stroke r.serial r.slot (some (word (s.mem.get (s.laneRecord r.stroke x) 8 % 32)))
          | l :: _ => (s.setResume r.stroke l).unsend r.stroke r.slot

/-- A lane has applied: its old value is in the record. -/
def State.laneDone (s : State) (r : AtomReq) (rec : Nat) (old : Word) : State :=
  (s.modMem fun m => m.localWrite (unitOf r.stroke) rec (toBytes old.toNat 8)).lanesDone r

/-- An SC load's value (R248). -/
def scValue (m : Memory) (key n fmt : Nat) (scale : Option Nat) (high raw : Bool) : Word :=
  if raw || fmt == 15 then zext (m.get key n) (8 * n)
  else
    let v := m.get key (fmtBytes fmt)
    pageValue (if fmt == 4 then (if high then v / 16 else v % 16) else v) fmt scale.isSome (scale.getD 0)

/-- Apply a request that has been taken off its queue; AFADD and AFINIT have events of their own. -/
def State.applyAtom (s : State) (r : AtomReq) : State :=
  match r.kind with
  | .scalar op size b c =>
    let (old, s) := s.applyInt r op size b c
    s.pushReply r.stroke r.serial r.slot (some old)
  | .lane op size b rec =>
    let (old, s) := s.applyInt r op size b 0
    s.laneDone r rec old
  | .scLoad n fmt scale high raw =>
    s.pushReply r.stroke r.serial r.slot (some (scValue s.mem r.key n fmt scale high raw))
  | .scStore n v nibble =>
    let v := match nibble with
      | some true => v % 16 * 16 + s.mem.get r.key 1 % 16
      | some false => s.mem.get r.key 1 / 16 * 16 + v % 16
      | none => v
    let bs := toBytes v n
    (s.commitOwn r.stroke none r.key bs).pushReply r.stroke r.serial r.slot (some 0)
  | _ => s

def dropAtom (n : Nat) (s : State) : State := s.modNet fun q => { q with atoms := listDrop q.atoms n }

/-- A peer's request has no effect: the reply names the trap that its issuer takes, and TRAPVAL (R413). -/
def State.peerRefuses (s : State) (r : AtomReq) (code : Nat) (val : Word) : State :=
  s.sendPeer (peerOf r.stroke) r.addr { msg := .reply code (toBytes val.toNat 8) }

/-- R419: the granule of what a request is to read, or to write in part, holds an uncorrectable error. -/
def State.atomPoison (s : State) (r : AtomReq) : Option Nat :=
  match r.kind with
  | .scalar _ size _ _ => s.mem.poisoned r.key (atomBytes size)
  | .lane _ size _ rec => (s.mem.poisoned r.key (atomBytes size)).or (s.mem.partPoisoned rec 8)
  | .afadd .. => s.mem.poisoned r.key 4
  | .afinit .. => none
  | .scLoad n .. => s.mem.poisoned r.key n
  | .scStore n .. => s.mem.partPoisoned r.key n

/-- The running instance still waits for the request. -/
def State.awaited (s : State) (r : AtomReq) : Bool := (s.inst r.stroke).any (·.serial == r.serial)

/-- A request that comes to an uncorrectable error has no effect (R419): its slot traps with the tokens it kept. A lane goes back to its slot, which
meets the error as it fires again (log entry 77). -/
def State.atomTrap (s : State) (n : Nat) (r : AtomReq) (g : Nat) : State :=
  let s := dropAtom n s
  if isPeer r.stroke then s.peerRefuses r trUNCORR (granuleVal g)
  else if !s.awaited r then s
  else
    match r.kind with
    | .lane .. =>
      (s.modSlot r.stroke r.slot fun y => { y with lanes := insertNat (r.laneAt (s.laneRecord r.stroke y)) y.lanes }).lanesDone r
    | _ => (s.unsend r.stroke r.slot).takeTrap r.stroke r.slot trUNCORR (granuleVal g)

/-- Request `n` is performed. -/
def State.performAtom (s : State) (n : Nat) (r : AtomReq) : State :=
  match s.atomPoison r with
  | some g => s.atomTrap n r g
  | none => (dropAtom n s).applyAtom r

/-- Request `n` is the first of its stroke to its node that has not arrived: an AFADD that is held or waits has (R239). -/
def State.atomFirst (s : State) (n : Nat) (r : AtomReq) : Bool :=
  !((s.net.atoms.take n).any fun a => a.stroke == r.stroke && a.node == r.node && !a.tried)

/-- ATOMIC_APPLY: request `n` is applied by its owner node or bank. -/
def atomicApply (n : Nat) (s : State) : State :=
  match s.net.atoms[n]? with
  | none => s
  | some r =>
    if r.sc || !s.atomFirst n r || s.atomHeld r then s
    else
      match r.kind with
      | .scalar .. => s.performAtom n r
      | .lane .. => s.performAtom n r
      | _ => s

def execAtomicApply (n : Nat) (s : State) : Host.Outcome State Fault Refusal := .next (atomicApply n s)

/-! ## Floating-point adds in sequence (R244–R246) -/

def State.afCtx (s : State) (node key : Nat) : Option AfCtx := s.net.afctx.find? fun c => c.node == node && c.key == key

def State.setAfCtx (s : State) (c : AfCtx) : State :=
  s.modNet fun q => { q with afctx := (q.afctx.filter fun d => !(d.node == c.node && d.key == c.key)) ++ [c] }

/-- An index is held in the reorder buffer of a context. -/
def State.afHeld (s : State) (node key i : Nat) : Bool :=
  s.net.atoms.any fun a => a.node == node && a.key == key && (match a.kind with
    | .afadd j _ held => held && j == i
    | _ => false)

/-- An AFSEQ trap of a request: the slot traps with the tokens it kept. -/
def State.afTrap (s : State) (n : Nat) (r : AtomReq) (code : Nat) : State :=
  let s := dropAtom n s
  if isPeer r.stroke then s.peerRefuses r trAFSEQ (word code)
  else if s.awaited r then (s.unsend r.stroke r.slot).takeTrap r.stroke r.slot trAFSEQ (word code)
  else s

/-- The add itself: exact sum, rounded to nearest even; its flags join the issuer's instance. -/
def State.afApply (s : State) (n : Nat) (r : AtomReq) (c : AfCtx) (b : BitVec 32) : State :=
  match s.atomPoison r with
  | some g => s.atomTrap n r g
  | none =>
    let s := (dropAtom n s).gather r 4
    let old := s.mem.get r.key 4
    let (v, fl) := fpSum .f32 .rne false [] [decodeNum .f32 old, decodeNum .f32 b.toNat]
    let s := (s.applyWrite r (toBytes v 4)).setAfCtx { c with next := c.next + 1 }
    let s := if s.awaited r then s.raise r.stroke fl else s
    s.pushReply r.stroke r.serial r.slot (some (zext old 32))

/-- AFADD `n` at its owner: it is tested against the context, held in order, and applied when its index is next; `may` is false when an
SC ring node does not hold the token. -/
def State.afAttempt (s : State) (n : Nat) (may : Bool) : State :=
  match s.net.atoms[n]? with
  | none => s
  | some r =>
    match r.kind with
    | .afadd i b held =>
      match s.afCtx r.node r.key with
      | none => s.afTrap n r 1
      | some c =>
        let d := (i + 2 ^ 32 - c.next.toNat) % 2 ^ 32
        if !held && (d ≥ 2 ^ 31 || s.afHeld r.node r.key i) then s.afTrap n r 2
        else if d ≥ 256 then s.modNet fun q => { q with atoms := listSet q.atoms n { r with tried := true } }
        else if d == 0 && may then s.afApply n r c b
        else s.modNet fun q => { q with atoms := listSet q.atoms n { r with tried := true, kind := .afadd i b true } }
    | _ => s

/-- The issuer's folio is frozen: its unapplied AFADDs are withdrawn (R246). -/
def State.withdrawn (s : State) (k : Nat) : Bool := (s.stroke k).any (·.run.frozen)

/-- R239, R245: every earlier request of the stroke to the node has arrived there. An AFADD has arrived once it has been tested. -/
def State.arrivesNext (s : State) (n : Nat) (r : AtomReq) : Bool :=
  r.tried || !((s.net.atoms.take n).any fun a => a.stroke == r.stroke && a.node == r.node && !a.tried)

/-- AFADD_APPLY. -/
def afaddApply (n : Nat) (s : State) : State :=
  match s.net.atoms[n]? with
  | none => s
  | some r => if s.withdrawn r.stroke || !s.arrivesNext n r || s.atomHeld r then s else s.afAttempt n (!r.sc)

def execAfaddApply (n : Nat) (s : State) : Host.Outcome State Fault Refusal := .next (afaddApply n s)

/-- AFADDs held for a context are rejected: their issuers trap with AFSEQ, TRAPVAL 4. -/
def rejectHeld (node key : Nat) : Nat → State → State
  | 0, s => s
  | fuel + 1, s =>
    match findIdx (fun a => a.node == node && a.key == key && (match a.kind with
        | .afadd _ _ held => held
        | _ => false)) s.net.atoms 0 with
    | none => s
    | some n =>
      match s.net.atoms[n]? with
      | none => s
      | some r => rejectHeld node key fuel (s.afTrap n r 4)

/-- AFINIT_APPLY: the owner creates, resets or releases the context (R245). -/
def afinitApply (n : Nat) (s : State) : State :=
  match s.net.atoms[n]? with
  | none => s
  | some r =>
    match r.kind with
    | .afinit rel base =>
      let known := s.afCtx r.node r.key
      if !s.arrivesNext n r then s
      else if !rel && known.isNone && (s.net.afctx.filter (·.node == r.node)).length ≥ 256 then s.afTrap n r 3
      else
        let s := dropAtom n s
        let s := rejectHeld r.node r.key s.net.atoms.length s
        let s := if rel then
            s.modNet fun q => { q with afctx := q.afctx.filter fun d => !(d.node == r.node && d.key == r.key) }
          else s.setAfCtx { node := r.node, key := r.key, next := base }
        s.pushReply r.stroke r.serial r.slot (some 0)
    | _ => s

def execAfinitApply (n : Nat) (s : State) : Host.Outcome State Fault Refusal := .next (afinitApply n s)

/-! ## The SC ring (R247, R248) -/

/-- The wells that hold valid SC ranges, in ascending order of slab and well (R374). -/
def State.scRing (s : State) : List Nat := (s.ownRanges.filter (·.sc)).foldl (fun acc r => insertNat r.well acc) []

/-- The first request that a node may perform while it holds the token, in arrival order. -/
def State.scNext (s : State) (node : Nat) : Option Nat :=
  (s.net.atoms.zipIdx.find? fun (a, n) => a.sc && a.node == node && s.arrivesNext n a && !s.atomHeld a && (match a.kind with
    | .afadd i _ _ => !s.withdrawn a.stroke && (match s.afCtx node a.key with
      | some c => i % 2 ^ 32 == c.next.toNat
      | none => false)
    | .afinit .. => false
    | _ => true)).map (·.2)

/-- One access of a visit. -/
def scAccess (i : Nat) (s : State) : State :=
  match s.net.atoms[i]? with
  | none => s
  | some r =>
    match r.kind with
    | .afadd .. => s.afAttempt i true
    | _ => s.performAtom i r

/-- Up to `n` accesses of one visit, in arrival order. Watchers see what each leaves (R184). -/
def scVisit (node : Nat) : Nat → State → State
  | 0, s => s
  | n + 1, s =>
    match s.scNext node with
    | none => s
    | some i => scVisit node n (scAccess i s).latchWatchers

/-- SC_TOKEN_VISIT: the next node of the ring takes the token and performs at most 16 accesses. A change of the members takes effect as a circuit
begins (R374). -/
def scTokenVisit (s : State) : State :=
  let l := if s.net.scTurn == 0 then s.scRing else s.net.scRing
  match l[s.net.scTurn]? with
  | none => s.modNet fun q => { q with scTurn := 0 }
  | some node => scVisit node 16 (s.modNet fun q => { q with scRing := l, scTurn := (q.scTurn + 1) % l.length })

def execScTokenVisit (s : State) : Host.Outcome State Fault Refusal := .next (scTokenVisit s)

end Sys2Proof.Machine
end

