-- ==== Sys2Proof/Machine/Ending.lean ====
section
/-!
DEFINITION. Machine/Ending.lean: what the end of a stroke leaves behind (R137, R156, R232, R252, R269, R291, R315, R322, R356), and the
release of its window (R204, R214).
-/
namespace Sys2Proof.Machine

/-- Owner of a window that a folio's strokes on a unit share. -/
def sharedOwner (folio : Nat) : Nat := 2 ^ 40 + folio

/-- A window still serves a queued lane-pipe run or matrix entry. -/
def UnitSt.windowBusy (u : UnitSt) (a : Alloc) : Bool :=
  (u.lane.queue.any fun r => a.base ≤ r.wbase && r.wbase < a.base + a.len) ||
    (u.matrix.queue.any fun e => a.base ≤ e.wbase && e.wbase < a.base + a.len)

/-- Windows of ended strokes are released once nothing they serve is queued. -/
def UnitSt.releaseWindows (u : UnitSt) : UnitSt :=
  { u with windows := u.windows.filter fun a => !a.dead || u.windowBusy a }

/-- R315: registrations of a stroke are released; a slot is freed with its record's last registration. -/
def PipeUnit.release (p : PipeUnit) (f : PipeRegion → Bool) (g : Nat × Nat → Bool) : PipeUnit :=
  let regions := p.regions.filter fun e => !f e.2
  let tokens := p.tokens.filter fun e => !g e.2
  { regions, tokens,
    slots := p.slots.filter fun e => (regions.any fun r => r.2.record == e.2.record) || (tokens.any fun r => r.2.2 == e.2.record) }

/-- The window of an ended stroke, or the last of a folio's shared window, is marked. -/
def Alloc.kill (k folio : Nat) (lastOfFolio : Bool) (a : Alloc) : Alloc :=
  if a.owner == k || (lastOfFolio && a.owner == sharedOwner folio) then { a with dead := true } else a

/-- The unit without a stroke: entries, inboxes, registrations, channels; its window is marked. -/
def UnitSt.without (u : UnitSt) (k : Nat) (t : Stroke) (lastOfFolio : Bool) : UnitSt :=
  let mine : Nat → Bool := fun ch => t.decl.chbase ≤ ch && ch < t.decl.chbase + t.decl.chans
  let u := { u with
    handlers := u.handlers.filter (·.2.stroke != k),
    inboxes := u.inboxes.filter fun e => !mine e.1,
    reported := u.reported.filter fun e => !mine e.1,
    chanRuns := u.chanRuns.filter (·.owner != k),
    badRegs := u.badRegs.filter (· != k),
    windows := u.windows.map (Alloc.kill k t.decl.folio lastOfFolio),
    pipe := u.pipe.release (·.stroke == k) (·.1 == k) }
  u.releaseWindows

/-! ## The folio and its task (R156, R169) -/

/-- Position of a stroke in the order of instance, nib rank and stroke rank (Table 6-7). -/
def rankKey (inst frank srank : Nat) : Nat := inst * 1048576 + frank * 32 + srank

/-- An ended folio's strokes are counted into its task's entry. -/
def ChainEntry.count (e : ChainEntry) (f : Folio) : ChainEntry :=
  let errs := f.ended.filterMap fun x => if x.status == 0 || x.killed then none else some (rankKey f.inst x.frank x.srank, x.status)
  let best := errs.foldl (fun (a : Option (Nat × Nat)) b => match a with
    | some c => if b.1 < c.1 then some b else some c
    | none => some b) e.firstErr
  { e with live := e.live - 1, killed := e.killed || f.ended.any (·.killed), firstErr := best }

/-- A folio none of whose strokes is left ends. -/
def State.closeFolio (s : State) (id : Nat) : State :=
  match s.folio id with
  | none => s
  | some f =>
    if !f.strokes.isEmpty || f.away != 0 then s
    else
      s.modEng fun e =>
        { e with
          folios := e.folios.filter (·.id != id),
          chains := e.chains.map fun c =>
            if c.1 == f.chain then
              (c.1, { c.2 with entries := c.2.entries.map fun x => if x.num == f.entry then x.count f else x })
            else c }

/-- The folio without a stroke, which counts as arrived at every barrier. -/
def Folio.without (f : Folio) (k : Nat) (e : Ended) : Folio :=
  { f with
    strokes := f.strokes.filter (· != k),
    ended := f.ended ++ [e],
    bars := f.bars.map fun b =>
      { b with arrived := b.arrived.filter (· != k), settled := b.settled.filter (· != k),
               waiters := b.waiters.filter (·.1 != k) } }

/-! ## The end -/

/-- A wait, call, wash or request of the stroke goes; where the supervisor ends it, so does an action that its owner has not begun (R322). -/
def State.dropWaits (s : State) (k : Nat) (frozen killed : Bool) : State :=
  let s := s.modMem fun m => { m with waits := m.waits.filter (·.stroke != k), tlb := m.tlb.filter (·.unit != k) }
  let s := s.modEng fun e => { e with watchers := e.watchers.filter (·.stroke != k) }
  let s := s.modNet fun q =>
    { q with
      replies := q.replies.filter (·.stroke != k),
      atoms := q.atoms.filter fun a => !(a.stroke == k && frozen && (match a.kind with
        | .afadd .. => true
        | _ => false)) }
  let s := s.modSvc fun v =>
    { v with
      washes := (v.washes.filter (·.loader != k)).map fun w => { w with owners := w.owners.map fun j => if j == k then noStroke else j },
      washDone := v.washDone.filter (·.loader != k),
      acts := v.acts.filter fun a => !(killed && a.stroke == k && a.todo.isSome),
      book := { v.book with
        calls := v.book.calls.filter (·.stroke != k),
        reads := v.book.reads.filter (·.stroke != k),
        runs := v.book.runs.map fun r => (r.1, { r.2 with reader := r.2.reader.filter (·.1 != k) }) } }
  { s with rounds := { s.rounds with freezes := s.rounds.freezes.filter (·.stroke != k) } }

/-- The stroke ends with a status, by its EXIT or by the supervisor (R356). -/
def State.endStroke (s : State) (k status : Nat) (killed : Bool) : State :=
  match s.stroke k with
  | none => s
  | some t =>
    let s := if killed then s.modMem (·.discard k) else s
    let last := match s.folio t.decl.folio with
      | some f => f.away == 0 && !(f.strokes.any fun j => j != k && unitOf j == unitOf k)
      | none => true
    let s := s.modUnit (unitOf k) fun u => u.without k t last
    let s := s.dropWaits k t.run.frozen killed
    let s := s.modFolio t.decl.folio fun f =>
      f.without k { frank := t.decl.frank, srank := t.decl.srank, status, killed }
    let s := { s with strokes := tabDel s.strokes k }
    s.closeFolio t.decl.folio

end Sys2Proof.Machine
end

