-- ==== Sys2Proof/Machine/LoadStore.lean ====
section
/-!
DEFINITION. Machine/LoadStore.lean: LD, ST, LDV, STV and FESET (R111–R123).
-/
namespace Sys2Proof.Machine

/-! ## LD (R114) -/

/-- Who waits at a bank: a stroke, and the instance and slot of the read. -/
structure BankUser where
  k : Nat
  serial : Nat
  slot : Nat
  deriving DecidableEq, Repr

def Ctx.user (x : Ctx) : BankUser := { k := x.k, serial := x.ins.serial, slot := x.n }

/-- The wait is that of the read. -/
def BankUser.owns (u : BankUser) (w : BankWait) : Bool := w.stroke == u.k && w.serial == u.serial && w.slot == u.slot

/-- The wait of a read on a granule still stands: its stroke runs and the slot holds, or it is an LDV that goes on after its commit (R118). -/
def State.waitStands (s : State) (w : BankWait) : Bool :=
  ((s.stroke w.stroke).any (·.running) &&
    (match s.inst w.stroke with
     | some i => i.serial == w.serial && (i.slots[w.slot]?).any (·.mode == .held)
     | none => false)) ||
    (s.stroke w.stroke).any fun t => !t.run.frozen && t.run.moves.any fun m => m.serial == w.serial && m.slot == w.slot

/-- Reads that reached the bank earlier and are served first: all of them for a `.fc` read, the `.fc` reads for a `.fe` read. -/
def State.waitAhead (s : State) (u : BankUser) (fc : Bool) (gr : Nat) : Bool :=
  (s.mem.waits.takeWhile (!u.owns ·)).any fun w => w.granule == gr && (fc || w.clears) && s.waitStands w

/-- The read leaves the queue of its granule. -/
def Memory.served (m : Memory) (u : BankUser) : Memory := { m with waits := m.waits.filter (!u.owns ·) }

/-- The read joins the queue of a granule, unless it waits there already. -/
def State.joinWaits (s : State) (u : BankUser) (fc : Bool) (gr : Nat) : State :=
  s.modMem fun m =>
    if m.waits.any fun w => w.granule == gr && u.owns w then m
    else { m.served u with waits := (m.served u).waits ++
      [{ granule := gr, stroke := u.k, serial := u.serial, slot := u.slot, clears := fc }] }

/-- waitFull of R120: `.fe` waits for the full bit, `.fc` clears it as it reads; none when the read must wait. -/
def waitFull (u : BankUser) (fe fc : Bool) (key : Nat) (s : State) : Option State :=
  if !fe && !fc then some s
  else if !s.mem.isFull key || s.waitAhead u fc (granule key) then none
  else some (s.modMem fun m => if fc then (m.served u).setFull key false else m.served u)

/-- An SC load waits for the token (R247, R248). -/
def scLoad (x : Ctx) (p : Phys) (areg : Bool) (a n : Nat) (size : Nat) (s : State) : Fire :=
  if !s.inSc p then .trap s trSCRANGE (word a)
  else
    let high := p.fmt == 4 && size == 1
    match s.readTrap p.key n with
    | some f => f
    | none =>
    match s.scaleCode x.k x.stale areg p p.off high with
    | .bad f => f
    | .ok sc s =>
      let node := ((s.owner p.tier p.pa).map (·.well)).getD 0
      .sent (s.sendAtom { stroke := x.k, serial := x.ins.serial, slot := x.n, node, key := p.key, addr := word a, region := p.region,
                          level := p.leaf.level, sc := true, kind := .scLoad n p.fmt sc high false })

def ld (sp : Nat) (size q : Nat) (x : Ctx) (g : Args) (s : State) : Fire :=
  let a := g.av.toNat
  let raw := q == 2
  match s.locateScalar x.k x.stale raw sp a size 1 with
  | (.mem p, s) =>
    match sizeTrap s p size raw with
    | some f => f
    | none =>
      let n := if p.fmt == 4 && !raw then 1 else 2 ^ size
      if q == 5 then scLoad x p (sp == 3) a n size s
      else if raw || p.fmt == 15 then
        match s.readLoc x.k p.key n with
        | .bad f => f
        | .ok v s => replyFrom false x s (if q == 1 then sext v (8 * n) else zext v (8 * n))
      else
        match s.readElem x.k x.stale (sp == 3) p 0 (p.fmt == 4 && size == 1) with
        | .bad f => f
        | .ok w s => replyFrom false x s w
  | (.spad u off, s) =>
    let key := spadKey u off
    let n := 2 ^ size
    if isScribe u then
      let v := ofBytes (s.methodBytes u off n)
      .value s (if q == 1 then sext v (8 * n) else zext v (8 * n))
    else
    let fe := q == 3 || q == 6
    let fc := q == 4 || q == 7
    match s.readTrap key n with
    | some f => f
    | none =>
      match waitFull x.user fe fc key s with
      | none => .hold (s.joinWaits x.user fc (granule key))
      | some s =>
        let (bs, s) := s.readBytes x.k (fe || fc) key n
        let v := ofBytes bs
        let signed := q == 1 || q == 6 || q == 7
        replyFrom (u == unitOf x.k) x s (if signed then sext v (8 * n) else zext v (8 * n))
  | (l, s) => (failLoc s l).getD (.hold s)

def execLd (t : BitVec 9) (p : BitVec 2) (n : BitVec 5) (sp z : BitVec 2) (q : BitVec 3) (s : State) :
    Host.Outcome State Fault Refusal :=
  fire (.ld t p n sp z q) (fun x g s => ld sp.toNat z.toNat q.toNat x g s) s

/-! ## ST (R115) -/

/-- An SC store waits for the token (R247, R248). -/
def scStore (x : Ctx) (p : Phys) (a n v : Nat) (nibble : Option Bool) (s : State) : Fire :=
  if !s.inSc p then .trap s trSCRANGE (word a)
  else
    match s.writeTrap p.key n with
    | some f => f
    | none =>
      let node := ((s.owner p.tier p.pa).map (·.well)).getD 0
      .sent (s.sendAtom { stroke := x.k, serial := x.ins.serial, slot := x.n, node, key := p.key, addr := word a, region := p.region,
                          level := p.leaf.level, sc := true, kind := .scStore n v nibble })

/-- The code that a store of a payload writes at a translated address, with its byte count and nibble. -/
def storeValue (x : Ctx) (areg raw : Bool) (p : Phys) (size v : Nat) (s : State) : Acc (Nat × Nat × Option Bool) :=
  if raw || p.fmt == 15 then .ok (v % 2 ^ (8 * 2 ^ size), 2 ^ size, none) s
  else
    let high := p.fmt == 4 && size == 1
    match s.elemCode x.k x.stale areg p 0 high false v with
    | .bad f => .bad f
    | .ok c s => if p.fmt == 4 then .ok (c, 1, some high) s else .ok (c, fmtBytes p.fmt, none) s

def st (sp : Nat) (size q : Nat) (x : Ctx) (g : Args) (s : State) : Fire :=
  let a := g.av.toNat
  let raw := q == 2
  match s.locateScalar x.k x.stale raw sp a size 2 with
  | (.mem p, s) =>
    match sizeTrap s p size raw with
    | some f => f
    | none =>
      if q != 5 && s.inSc p then .trap s trSCRANGE (word a)
      else
        match storeValue x (sp == 3) raw p size g.bv.toNat s with
        | .bad f => f
        | .ok (c, n, nibble) s =>
          if q == 5 then scStore x p a n c nibble s
          else
            let v := match nibble with
              | some high => s.mergeNibble x.k p.key c high
              | none => c
            match s.storeLoc x.k (.mem p) (toBytes v n) with
            | .bad f => f
            | .ok _ s => replyFrom false x s 0
  | (.spad u off, s) =>
    let n := 2 ^ size
    let l : Loc := .spad u off
    if isScribe u then .value (s.methodStore u off (toBytes g.bv.toNat n)) 0
    else if !x.st.maySet x.k l (q == 1) then .hold s
    else
    match s.storeLoc x.k l (toBytes g.bv.toNat n) with
    | .bad f => f
    | .ok _ s => replyFrom (l.own x.k) x (if q == 1 then s.setting x.k l n else s) 0
  | (l, s) => (failLoc s l).getD (.hold s)

def execSt (t : BitVec 9) (p : BitVec 2) (n : BitVec 5) (sp z : BitVec 2) (q : BitVec 3) (s : State) :
    Host.Outcome State Fault Refusal :=
  fire (.st t p n sp z q) (fun x g s => st sp.toNat z.toNat q.toNat x g s) s

/-! ## LDV and STV (R116–R118) -/

/-- Bytes on the scratchpad side (R116). -/
def vecBytes (size : Nat) : Nat := 16 * 4 ^ size

/-- Bytes on the other side of a vector copy of `m` scratchpad bytes, by the page's format (R117). -/
def vecOther (fmt m : Nat) : Nat := if decodes fmt then m / 4 * fmtBits fmt / 8 else m

/-- R117: the other side of a vector copy. On a formatted page, present or not, the byte count, and with it the alignment, follows from the page. What is
written to a page takes a beat for each 64 bytes (R405). -/
def State.locateVec (s : State) (k : Nat) (stale raw : Bool) (space a m kind : Nat) : Loc × State :=
  if space % 2 == 1 && !raw then
    match s.locateVa k stale (space == 3) a kind with
    | (.mem p, s') =>
      let n := vecOther p.fmt m
      if a % n != 0 then (.trap trMISALIGN (word a), s) else (.mem p, if kind == 2 then s'.strokeBeat k (beatsOf n - 1) else s')
    | r => if a % vecOther ((s.pageFmt k (space == 3) a).getD 15) m != 0 then (.trap trMISALIGN (word a), s) else r
  else
    match s.locate k stale space a m kind with
    | (.mem p, s') => (.mem p, if kind == 2 then s'.strokeBeat k (beatsOf m - 1) else s')
    | r => r

/-- Values of the elements `i`, `i + 1`, …, `n` of them, from a formatted page. -/
def State.readElems (s : State) (k : Nat) (stale areg : Bool) (p : Phys) (i : Nat) : Nat → Acc (List Nat)
  | 0 => .ok [] s
  | n + 1 =>
    let d := i * fmtBits p.fmt / 8
    match s.readElem k stale areg p d (p.fmt == 4 && i % 2 == 1) with
    | .bad f => .bad f
    | .ok w s =>
      match s.readElems k stale areg p (i + 1) n with
      | .bad f => .bad f
      | .ok l s => .ok (w.toNat % 2 ^ 32 :: l) s

/-- Codes of the elements `i`, `i + 1`, … for the words of a list. -/
def State.elemCodes (s : State) (k : Nat) (stale areg : Bool) (p : Phys) (i : Nat) : List Nat → Acc (List Nat)
  | [] => .ok [] s
  | w :: ws =>
    let d := i * fmtBits p.fmt / 8
    match s.elemCode k stale areg p d (p.fmt == 4 && i % 2 == 1) true w with
    | .bad f => .bad f
    | .ok c s =>
      match s.elemCodes k stale areg p (i + 1) ws with
      | .bad f => .bad f
      | .ok l s => .ok (c :: l) s

/-- Numbers of `n` bytes each, as bytes. -/
def packBytes (n : Nat) (l : List Nat) : List Byte := l.flatMap (toBytes · n)

/-- Nibbles joined in pairs, the low nibble first (R66). -/
def pairNibbles : List Nat → List Byte
  | a :: b :: t => BitVec.ofNat 8 (b % 16 * 16 + a % 16) :: pairNibbles t
  | [a] => [BitVec.ofNat 8 (a % 16)]
  | [] => []

/-- Codes as the bytes of a page of the format. -/
def codesToBytes (fmt : Nat) (l : List Nat) : List Byte := if fmt == 4 then pairNibbles l else packBytes (fmtBytes fmt) l

/-- Little-endian 32-bit words of a byte list. -/
def wordsOf : List Byte → List Nat
  | a :: b :: c :: d :: t => ofBytes [a, b, c, d] :: wordsOf t
  | _ => []

/-- The location `n` bytes further. -/
def Loc.plus (l : Loc) (n : Nat) : Loc :=
  match l with
  | .spad u off => .spad u (off + n)
  | .mem p => .mem { p with pa := p.pa + n }
  | l => l

/-- How far a copy of granules came. -/
inductive Moved where
  | done (s : State)
  /-- granule `i` waits -/
  | wait (i : Nat) (s : State)
  /-- granule `i` is to be read and holds an uncorrectable error; TRAPVAL of the trap -/
  | bad (i : Nat) (s : State) (val : Word)

/-- Move granules `i`, `i + 1`, …, `n` of them, from a key to a location, waiting on each granule read (R120) and on wash holds (R267). They move in
ascending order, so that where the ranges overlap a later granule is read as an earlier one left it (log entry 65). -/
def moveGranules (u : BankUser) (bnd : BitVec 32) (fe src : Nat) (dst : Loc) (i : Nat) : Nat → State → Moved
  | 0, s => .done s
  | n + 1, s =>
    if dst.own u.k && s.heldFrom u.k bnd (dst.key + 16 * i) 16 then .wait i s
    else match waitFull u (fe == 1) (fe == 2) (src + 16 * i) s with
    | none => .wait i (s.joinWaits u (fe == 2) (granule (src + 16 * i)))
    | some t =>
      match s.mem.poisoned (src + 16 * i) 16 with
      | some g => .bad i s (granuleVal g)
      | none =>
        let (bs, t) := t.readBytes u.k (fe == 1 || fe == 2) (src + 16 * i) 16
        let d := dst.plus (16 * i)
        match t.storeFrom u.k bnd d bs with
        | .bad _ => .wait i s
        | .ok _ t => moveGranules u bnd fe src dst (i + 1) n (if fe == 3 then t.setting u.k d 16 else t)

/-- The slot of a vector copy remembers the granules moved, and an LDV that has begun what is left (R118). -/
def State.movedTo (s : State) (x : Ctx) (i : Nat) (v : Option Move) : State := s.modSlot x.k x.n fun y => { y with count := i, move := v }

def holdAt (x : Ctx) (i : Nat) (v : Option Move) (s : State) : Fire := .hold (s.movedTo x i v)

def resetCount (x : Ctx) (s : State) : State := s.movedTo x 0 none

/-- The leaf that a move reads through. -/
def Loc.via (l : Loc) : Option (Nat × Nat × Nat) :=
  match l with
  | .mem p => some (p.region, p.off / 65536, p.leaf.level)
  | _ => none

/-- A raw copy of `m` bytes between two located ranges; `into` is the window offset of an LDV's destination. -/
def rawCopy (x : Ctx) (fe : Nat) (src dst : Loc) (m : Nat) (own : Bool) (into : Option Nat) (result : Word) (s : State) : Fire :=
  let i := x.me.count
  match s.readTrap (src.key + 16 * i) (m - 16 * i) with
  | some f => f
  | none =>
    if !x.st.maySet x.k dst (fe == 3) || (!(dst.own x.k) && !s.pendFits x.k dst.key m) then .hold s
    else
      let rest := fun i => into.map fun d =>
        ({ serial := x.ins.serial, slot := x.n, bnd := x.st.bnd, fe, own := src.own x.k,
           src := if src.own x.k then src.key - spadKey (unitOf x.k) x.st.decl.wbase else src.key, dst := d, at_ := i, left := m / 16 - i,
           via := src.via } : Move)
      match moveGranules x.user x.st.bnd fe src.key dst i (m / 16 - i) s with
      | .wait i s => holdAt x i (rest i) s
      | .bad i s val => .trap (s.movedTo x i (rest i)) trUNCORR val
      | .done s => replyFrom own x (resetCount x s) result

/-- A move goes on as far as it can (R118). -/
def goMove (k : Nat) (v : Move) (s : State) : Moved :=
  match s.stroke k with
  | none => .done s
  | some t =>
    let dst : Loc := .spad (unitOf k) (t.decl.wbase + v.dst)
    match v.bytes with
    | some bs =>
      match s.storeFrom k v.bnd dst bs with
      | .ok _ s => .done (if v.fe == 3 then s.setting k dst bs.length else s)
      | .bad _ => .wait v.at_ s
    | none =>
      moveGranules { k, serial := v.serial, slot := v.slot } v.bnd v.fe (if v.own then spadKey (unitOf k) t.decl.wbase + v.src else v.src) dst v.at_ v.left s

/-- What is left of a move that has come to granule `i`. -/
def Move.from (v : Move) (i : Nat) : Move := { v with at_ := i, left := v.at_ + v.left - i }

/-- An LDV that waits part-way goes on with what it has located (R118, R396). -/
def resumeMove (x : Ctx) (v : Move) (result : Word) (s : State) : Fire :=
  match goMove x.k v s with
  | .wait i s => holdAt x i (some (v.from i)) s
  | .bad i s val => .trap (s.movedTo x i (some (v.from i))) trUNCORR val
  | .done s => replyFrom v.own x (resetCount x s) result

/-- An LDV begins. -/
def startLdv (sp : Nat) (size q : Nat) (x : Ctx) (g : Args) (s : State) : Fire :=
  let m := vecBytes size
  let b := g.bv.toNat
  let raw := q / 4 == 1
  if b % 16 != 0 then .trap s trMISALIGN g.bv
  else
    match x.st.window x.k b m with
    | .trap c v => .trap s c v
    | dst =>
      match s.locateVec x.k x.stale raw sp g.av.toNat m 1 with
      | (.mem p, s) =>
        if !raw && decodes p.fmt then
          match s.readElems x.k x.stale (sp == 3) p 0 (m / 4) with
          | .bad f => f
          | .ok l s =>
            let bs := packBytes 4 l
            match s.storeLoc x.k dst bs with
            | .bad (.hold s) =>
              holdAt x 0 (some { serial := x.ins.serial, slot := x.n, bnd := x.st.bnd, fe := q % 4, own := false, src := 0, dst := b, at_ := 0,
                                 left := m / 16, bytes := some bs }) s
            | .bad f => f
            | .ok _ s => replyFrom false x (resetCount x (if q % 4 == 3 then s.setting x.k dst m else s)) g.bv
        else rawCopy x (q % 4) (.mem p) dst m false (some b) g.bv s
      | (.spad u off, s) => rawCopy x (q % 4) (.spad u off) dst m (u == unitOf x.k) (some b) g.bv s
      | (l, s) => (failLoc s l).getD (.hold s)

def ldv (sp : Nat) (size q : Nat) (x : Ctx) (g : Args) (s : State) : Fire :=
  match x.me.move with
  | some v => resumeMove x v g.bv s
  | none => startLdv sp size q x g s

def execLdv (t : BitVec 9) (p : BitVec 2) (n : BitVec 5) (sp z : BitVec 2) (q : BitVec 3) (s : State) :
    Host.Outcome State Fault Refusal :=
  fire (.ldv t p n sp z q) (fun x g s => ldv sp.toNat z.toNat q.toNat x g s) s

/-- Bytes that a granule of words takes on a page of the format. -/
def encBytes (fmt : Nat) : Nat := fmtBits fmt / 2

/-- Encode granules `i`, `i + 1`, …, `n` of them, of a scratchpad range onto a formatted page, waiting on each in ascending order (R120). -/
def encodeGranules (x : Ctx) (fe : Nat) (areg : Bool) (src : Nat) (p : Phys) (i : Nat) : Nat → State → Acc (Option Nat)
  | 0, s => .ok none s
  | n + 1, s =>
    match waitFull x.user (fe == 1) (fe == 2) (src + 16 * i) s with
    | none => .ok (some i) (s.joinWaits x.user (fe == 2) (granule (src + 16 * i)))
    | some s =>
      let (bs, s) := s.loadBytes x.k (src + 16 * i) 16
      match s.elemCodes x.k x.stale areg p (4 * i) (wordsOf bs) with
      | .bad f => .bad f
      | .ok l s =>
        encodeGranules x fe areg src p (i + 1) n (s.pendWrite x.k (p.key + encBytes p.fmt * i) (codesToBytes p.fmt l))

/-- An STV that encodes: the scale codes it needs, the destination and the pending limit come first, so that a fault leaves no effect. -/
def encodeVec (x : Ctx) (fe : Nat) (areg : Bool) (src : Nat) (p : Phys) (m : Nat) (s : State) : Fire :=
  match s.readTrap (src + 16 * x.me.count) (m - 16 * x.me.count) with
  | some f => f
  | none =>
    match s.elemCodes x.k x.stale areg p 0 (List.replicate (m / 4) 0) with
    | .bad f => f
    | .ok _ _ =>
      let n := vecOther p.fmt m
      match s.writeTrap p.key n with
      | some f => f
      | none =>
        if !s.pendFits x.k p.key n then .hold s
        else
          match encodeGranules x fe areg src p x.me.count (m / 16 - x.me.count) s with
          | .bad f => f
          | .ok (some i) s => holdAt x i none s
          | .ok none s => replyFrom false x (resetCount x (s.modMem (·.heal p.key n))) 0

def stv (sp : Nat) (size q : Nat) (x : Ctx) (g : Args) (s : State) : Fire :=
  let m := vecBytes size
  let b := g.bv.toNat
  let raw := q / 4 == 1
  if b % 16 != 0 then .trap s trMISALIGN g.bv
  else
    match x.st.window x.k b m with
    | .trap c v => .trap s c v
    | src =>
      match s.locateVec x.k x.stale raw sp g.av.toNat m 2 with
      | (.mem p, s) =>
        if s.inSc p then .trap s trSCRANGE g.av
        else if !raw && decodes p.fmt then encodeVec x (q % 4) (sp == 3) src.key p m s
        else
          match s.writeTrap p.key m with
          | some f => f
          | none => rawCopy x (q % 4) src (.mem p) m false none 0 s
      | (.spad u off, s) =>
        match s.writeTrap (spadKey u off) m with
        | some f => f
        | none => rawCopy x (q % 4) src (.spad u off) m (u == unitOf x.k) none 0 s
      | (l, s) => (failLoc s l).getD (.hold s)

def execStv (t : BitVec 9) (p : BitVec 2) (n : BitVec 5) (sp z : BitVec 2) (q : BitVec 3) (s : State) :
    Host.Outcome State Fault Refusal :=
  fire (.stv t p n sp z q) (fun x g s => stv sp.toNat z.toNat q.toNat x g s) s

/-! ## LDVs that go on after their commit (R118) -/

/-- A move of a committed instance goes on: what is left of it, and the state. One that meets an uncorrectable error ends with a deferred trap (log
entry 77). -/
def pumpMove (k : Nat) (v : Move) (s : State) : Option Move × State :=
  match goMove k v s with
  | .done s => (none, s)
  | .wait i s => (some (v.from i), s)
  | .bad _ s val => (none, s.deferTrap k trUNCORR val)

/-- The moves of a stroke go on in turn. -/
def pumpList (k : Nat) : List Move → State → State
  | [], s => s
  | v :: t, s =>
    let (r, s) := pumpMove k v s
    pumpList k t (s.modRun k fun q => { q with moves := q.moves.flatMap fun w =>
      if w.serial == v.serial && w.slot == v.slot then r.toList else [w] })

/-- LDVs of committed instances go on, while their folios are not frozen. -/
def State.pumpMoves (s : State) : State :=
  s.strokes.foldl (fun s e => if e.2.run.frozen || e.2.run.moves.isEmpty then s else pumpList e.1 e.2.run.moves s) s

/-- The move reads through a leaf that covers some page of a range. -/
def Move.meets (v : Move) (hit : Nat → Nat → Nat → Bool) : Bool :=
  v.via.any fun w => let p := leafPages w.2.2 w.2.1; hit w.1 p.1 p.2

/-- R396: a move's reads of a page have reached it: the bytes are on their way to the window. None where they hold an uncorrectable error. -/
def State.readMove (s : State) (k : Nat) (v : Move) : Option Move × State :=
  if (s.mem.poisoned (v.src + 16 * v.at_) (16 * v.left)).isSome then (none, s)
  else
    let (bs, s) := s.loadBytes k (v.src + 16 * v.at_) (16 * v.left)
    (some { v with dst := v.dst + 16 * v.at_, at_ := 0, bytes := some bs, via := none }, s)

/-- The moves of committed instances that read a range are drained; one that meets an uncorrectable error ends with a deferred trap. -/
def drainList (k : Nat) (hit : Nat → Nat → Nat → Bool) : List Move → State → List Move × State
  | [], s => ([], s)
  | v :: t, s =>
    let r := if v.meets hit then s.readMove k v else (some v, s)
    let s := if r.1.isNone then match s.mem.poisoned (v.src + 16 * v.at_) (16 * v.left) with
        | some g => s.deferTrap k trUNCORR (granuleVal g)
        | none => s
      else r.2
    let q := drainList k hit t s
    (r.1.toList ++ q.1, q.2)

/-- The slots from `n` on, `m` of them, drain their moves. One that meets an uncorrectable error has not sent its reads: it translates again. -/
def drainSlots (k : Nat) (hit : Nat → Nat → Nat → Bool) (n : Nat) : Nat → State → State
  | 0, s => s
  | m + 1, s =>
    match (s.slot k n).bind fun y => y.move.filter (·.meets hit) with
    | none => drainSlots k hit (n + 1) m s
    | some v =>
      let (r, s) := s.readMove k v
      drainSlots k hit (n + 1) m (s.modSlot k n fun y => { y with move := r })

/-- The LDVs of a stroke that read a range are drained. -/
def State.drainStroke (s : State) (hit : Nat → Nat → Nat → Bool) (k : Nat) : State :=
  match s.stroke k with
  | none => s
  | some t =>
    let (l, s) := drainList k hit t.run.moves s
    drainSlots k hit 0 (((s.inst k).map (·.slots.length)).getD 0) (s.modRun k fun r => { r with moves := l })

/-- The LDVs that read a range are drained. -/
def State.drainMoves (s : State) (hit : Nat → Nat → Nat → Bool) : State := (s.strokes.map (·.1)).foldl (·.drainStroke hit) s

/-! ## FESET (R123) -/

def feset (sp : Nat) (size q : Nat) (x : Ctx) (g : Args) (s : State) : Fire :=
  let count := 4 ^ size
  match s.locate x.k x.stale sp g.av.toNat (16 * count) 0 with
  | (.spad u off, s) =>
    replyFrom (u == unitOf x.k) x (s.modMem fun m => m.setFulls (spadKey u off) (q == 1) count) 0
  | (l, s) => (failLoc s l).getD (.hold s)

def execFeset (t : BitVec 9) (p : BitVec 2) (n : BitVec 5) (sp z : BitVec 2) (q : BitVec 3) (s : State) :
    Host.Outcome State Fault Refusal :=
  fire (.feset t p n sp z q) (fun x g s => feset sp.toNat z.toNat q.toNat x g s) s

end Sys2Proof.Machine
end

