-- ==== Sys2Proof/Machine/Streams.lean ====
section
/-!
DEFINITION. Machine/Streams.lean: circular buffers (R125–R132), stream bindings (R133–R138) and the Beneš network (R139–R141).
-/
namespace Sys2Proof.Machine

/-! ## Handles (R125) -/

def Handle.slots (h : Handle) : Nat := bits h.buffer.toNat 52 39 + 1
def Handle.slotBytes (h : Handle) : Nat := 16 * (bits h.buffer.toNat 38 33 + 1)
def Handle.base (h : Handle) : Nat := bits h.buffer.toNat 32 0
def Handle.wake (h : Handle) : Nat := bits h.buffer.toNat 58 53
def Handle.hasPartner (h : Handle) : Bool := bit h.partner.toNat 63
def Handle.partnerPlace (h : Handle) : Nat := placeOfWord (h.partner.toNat % 2 ^ 18)
def Handle.filled (h : Handle) : Nat := (h.tail - h.head).toNat
def Handle.free (h : Handle) : Nat := h.slots - h.filled

/-- What a wait of a kind has: filled slots for CBWAIT, free slots for CBRSV. -/
def Handle.have (h : Handle) (rsv : Bool) : Nat := if rsv then h.free else h.filled

/-- The nib address of slot `j`, in the form of BASE. -/
def Handle.slotAddr (h : Handle) (j : Nat) : Word := word (h.base + j % h.slots * h.slotBytes)

def State.setHandle (s : State) (k i : Nat) (h : Handle) : State :=
  s.modRun k fun r => { r with handles := tabPut r.handles i h }

/-- The key range of a handle's buffer. -/
def bufferRange (t : Stroke) (k : Nat) (h : Handle) : Nat × Nat :=
  let lo := if nibSelf h.base then spadKey (unitOf k) (t.decl.wbase + bits h.base 20 0)
    else spadKey (nibUnit h.base) (bits h.base 20 0)
  (lo, lo + h.slots * h.slotBytes)

/-- Table 5-10: the wake word. -/
def cbWake (rsv : Bool) (i count : Nat) : Word :=
  word (0xCA * 2 ^ 56 + (if rsv then 2 ^ 55 else 0) + i * 2 ^ 48 + count % 2 ^ 32)

/-- Table 5-10: the update word. -/
def cbUpdate (tail : Bool) (handle n : Nat) : Word :=
  word (0xCB * 2 ^ 56 + (if tail then 2 ^ 55 else 0) + handle * 2 ^ 48 + n)

/-- R130: test a handle's armed wait; when it is met the handle disarms and its wake word is posted. -/
def State.testArmed (s : State) (k i : Nat) : State :=
  match s.stroke k with
  | none => s
  | some t =>
    match tabFind t.run.handles i with
    | some h =>
      match h.armed with
      | some (rsv, n) =>
        if h.have rsv ≥ n then
          (s.setHandle k i { h with armed := none }).post (.engine (unitOf k))
            (unitOf k * 64 + t.decl.chbase + h.wake) (cbWake rsv i (h.have rsv))
        else s
      | none => s
    | none => s

/-! ## CBINIT (R126, R127) -/

/-- The word of a descriptor that breaks R127: 1 buffer word, 2 partner word. Where both do, the buffer word is named, its WAKE field included (log entry
74). A self-form BASE need only fit the window, on a sampler core too, where no access by a nib address reaches it (log entry 76). -/
def State.cbBad (s : State) (t : Stroke) (a b : Nat) : Option Nat :=
  let h : Handle := { buffer := word a, partner := word b }
  let off := bits h.base 20 0
  let size := h.slots * h.slotBytes
  if bits a 63 59 != 0 || nibMalformed h.base || off % 16 != 0 ||
      (if nibSelf h.base then off + size > t.decl.wsize
       else off + size > 0x180000 || !s.nibInPart h.base t.decl.part) ||
      h.wake ≥ t.decl.chans then some 1
  else if bits b 62 22 != 0 || (bit b 63 &&
      (bits b 17 14 > 11 || bits b 13 6 > 167 || s.placePart (placeOfWord b) != some t.decl.part)) then some 2
  else none

def cbinit (side : Bool) (i : Nat) (x : Ctx) (g : Args) (s : State) : Fire :=
  match s.cbBad x.st g.av.toNat g.bv.toNat with
  | some n => .trap s trCBDESC (word n)
  | none => .value (s.setHandle x.k i { buffer := g.av, partner := g.bv, producer := side, ready := true }) 0

def execCbinit (t : BitVec 9) (p : BitVec 2) (sp : BitVec 1) (h : BitVec 4) (s : State) : Host.Outcome State Fault Refusal :=
  fire (.cbinit t p sp h) (fun x g s => cbinit (sp == 1) h.toNat x g s) s

/-! ## CBWAIT and CBRSV (R128) -/

def cbAwait (rsv : Bool) (n : Nat) (try_ : Bool) (i : Nat) (x : Ctx) (s : State) : Fire :=
  match tabFind x.st.run.handles i with
  | none => .trap s trCBRANGE (word n)
  | some h =>
    if !h.ready || n > h.slots then .trap s trCBRANGE (word n)
    else if h.have rsv ≥ n then .value s (h.slotAddr (if rsv then h.tail else h.head).toNat)
    else if try_ then .result (s.setHandle x.k i { h with armed := some (rsv, n) }) none
    else .hold s

def execCbwait (t : BitVec 9) (p : BitVec 2) (n : BitVec 9) (y : BitVec 1) (h : BitVec 4) (s : State) :
    Host.Outcome State Fault Refusal :=
  fire (.cbwait t p n y h) (fun x _ s => cbAwait false n.toNat (y == 1) h.toNat x s) s

def execCbrsv (t : BitVec 9) (p : BitVec 2) (n : BitVec 9) (y : BitVec 1) (h : BitVec 4) (s : State) :
    Host.Outcome State Fault Refusal :=
  fire (.cbrsv t p n y h) (fun x _ s => cbAwait true n.toNat (y == 1) h.toNat x s) s

/-! ## CBADV (R129, R131) -/

def cbadv (n : Nat) (tail : Bool) (i : Nat) (x : Ctx) (s : State) : Fire :=
  match tabFind x.st.run.handles i with
  | none => .trap s trCBRANGE (word n)
  | some h =>
    if !h.ready || (h.hasPartner && tail != h.producer) || n > h.have tail then .trap s trCBRANGE (word n)
    else
      let h' : Handle := if tail then { h with tail := h.tail + BitVec.ofNat 32 n } else { h with head := h.head + BitVec.ofNat 32 n }
      let s := s.setHandle x.k i h'
      let s := if tail then
          let (lo, hi) := bufferRange x.st x.k h
          let nib := if nibSelf h.base then unitOf x.k else nibUnit h.base
          let readers := [nib, anyEngine] ++ (if h.hasPartner then [h.partnerPlace / 64] else [])
          s.modMem fun m => m.reveal x.k lo hi readers
        else s
      let s := if h.hasPartner then
          s.post (.stroke x.k) h.partnerPlace (cbUpdate tail (bits h.partner.toNat 21 18) n) 1
        else s
      .value (s.testArmed x.k i) (word (if tail then h'.tail else h'.head).toNat)

def execCbadv (t : BitVec 9) (p : BitVec 2) (n : BitVec 9) (e : BitVec 1) (h : BitVec 4) (s : State) :
    Host.Outcome State Fault Refusal :=
  fire (.cbadv t p n e h) (fun x _ s => cbadv n.toNat (e == 1) h.toNat x s) s

/-- R130: the handle of a stroke that absorbs an update word. -/
def State.absorber (s : State) (w : NetWord) : Option (Nat × Nat × Handle) :=
  if w.kind != 1 then none
  else
    match s.channelOwner (w.place / 64) (w.place % 64) with
    | none => none
    | some k =>
      let i := bits w.word.toNat 51 48
      match (s.stroke k).bind fun t => tabFind t.run.handles i with
      | some h => if h.ready && h.hasPartner && h.producer != bit w.word.toNat 55 then some (k, i, h) else none
      | none => none

/-- Whether an earlier word of the same sender to the same place is still in flight (R145). -/
def senderOf : Sender → Nat
  | .engine id => 4 * id
  | .chsend k _ _ _ => 4 * k + 1
  | .stroke k => 4 * k + 1
  | .mcast _ => 2
  | .action id => 4 * id + 3

/-- R145, R51: of two words of one sender to one place, the first was sent before the second; `first` says so of the order in which they were posted. CHSENDs
go by instance, iteration and slot. -/
def sentBefore (v w : Sender) (first : Bool) : Bool :=
  match v, w with
  | .chsend _ a m i, .chsend _ b n j => a < b || (a == b && (i < j || (i == j && m < n)))
  | _, _ => first

/-- A CHSEND that precedes a word's in program order has not acted, and may send to the same place; one that waits for the word's own result cannot. -/
def Instance.sendsFirst (i : Instance) (w : NetWord) (slot iter : Nat) : Bool :=
  (span 0 i.slots.length).any fun j => j != slot && (match i.instr j, i.slots[j]? with
    | some (.chsend _ _), some y =>
      (if j < slot then y.done ≤ iter && !pathTo i.words slot j else y.done < iter) && (match y.portA with
        | none => true
        | some a => a.any fun a => placeOfWord a.toNat == w.place && bits a.toNat 31 24 == w.module)
    | _, _ => false)

/-- Word `n` is the next of its sender to its place (R145). -/
def State.headOfLine (s : State) (n : Nat) : Bool :=
  match s.net.words[n]? with
  | none => false
  | some w =>
    !(s.net.words.zipIdx.any fun v => v.2 != n && v.1.place == w.place && v.1.module == w.module &&
        senderOf v.1.sender == senderOf w.sender && sentBefore v.1.sender w.sender (v.2 < n)) &&
      (match w.sender with
       | .chsend k serial slot iter => !((s.inst k).any fun i => i.serial == serial && i.sendsFirst w slot iter)
       | _ => true)

/-- A word on a channel of the management nib ends its HALT (R370). -/
def State.unhalt (s : State) (u : Nat) : State :=
  if (s.unit u).halted then s.modUnit u fun x => { x with halted := false } else s

/-- The event: update word `n` of the network is absorbed into its handle, and waits on it are tested again. -/
def absorbUpdate (n : Nat) (s : State) : State :=
  match s.net.words[n]? with
  | none => s
  | some w =>
    if !s.headOfLine n then s
    else
      match s.absorber w with
      | none => s
      | some (k, i, h) =>
        if (s.stroke k).any fun t => t.run.region.isSome && s.edgeOf k t < w.round then s
        else
          let c := BitVec.ofNat 32 (bits w.word.toNat 8 0)
          let h := if bit w.word.toNat 55 then { h with tail := h.tail + c } else { h with head := h.head + c }
          let s := ((s.modNet fun q => { q with words := listDrop q.words n }).unhalt (w.place / 64)).setHandle k i h
          s.testArmed k i

def execUpdateWordAbsorb (n : Nat) (s : State) : Host.Outcome State Fault Refusal := .next (absorbUpdate n s)

/-! ## SBIND (R133–R138) -/

/-- A pending nibble of a D4 out-port binding that ends is written alone (R137). -/
def State.flushNibble (s : State) (k : Nat) (b : Binding) : Acc Unit :=
  match b.nibble with
  | some (some w) =>
    let areg := b.space == 3
    let (stale, s) := s.streamStale k b.space (b.addr b.pos) 2
    match s.locateVa k stale areg (b.addr b.pos) 2 with
    | (.mem p, s) =>
      match s.elemCode k stale areg p 0 false false w.toNat with
      | .bad f => .bad f
      | .ok c s => s.storeLoc k (.mem p) [BitVec.ofNat 8 (s.mergeNibble k p.key c false)]
    | (l, s) => .bad ((failLoc s l).getD (.hold s))
  | _ => .ok () s

/-- The binding that SBIND removes or replaces ends: its last nibble is stored. A fault of that store is a deferred trap; a page that is not
present, a pending limit or a wash hold makes SBIND wait. -/
def State.endBinding (s : State) (k : Nat) (old : Option Binding) : Acc Unit :=
  match old with
  | none => .ok () s
  | some b =>
    match s.flushNibble k b with
    | .bad (.trap s code _) => .ok () (s.deferTrap k code (word b.pos))
    | r => r

/-- SBIND. What it waits for stands in its form: the stores that precede it, those of its stroke's out-ports among them (R135, R137). -/
def sbind (clr raw : Bool) (size space : Nat) (out : Bool) (port : Nat) (x : Ctx) (g : Args) (s : State) : Fire :=
  let key := if out then 64 + port else port
  let seamed := (s.folioOf x.k).any fun f => f.seams.any fun r =>
    if out then r.src == x.k && r.sport == port else r.dst == x.k && r.dport == port
  let a := g.av.toNat
  if seamed || (!clr && (a % 8 != 0 || a + 40 > x.st.decl.wsize)) then .trap s trSTREAMBIND (word port)
  else
    let base := spadKey (unitOf x.k) (x.st.decl.wbase + a)
    match (if clr then none else s.readTrap base 40) with
    | some f => f
    | none =>
      match s.endBinding x.k (tabFind x.st.run.binds key) with
      | .bad f => f
      | .ok _ s =>
        if clr then .value (s.modRun x.k fun r => { r with binds := tabDel r.binds key }) 0
        else
          let (bs, s) := s.loadBytes x.k base 40
          let w := fun i => word (ofBytes ((bs.drop (8 * i)).take 8))
          let b : Binding := { space, size, raw, base := w 0, levels := [w 1, w 2, w 3, w 4] }
          .value (s.modRun x.k fun r => { r with binds := tabPut r.binds key b }) 0

def execSbind (t : BitVec 9) (p : BitVec 2) (c r : BitVec 1) (z sp : BitVec 2) (o : BitVec 1) (n : BitVec 6) (s : State) :
    Host.Outcome State Fault Refusal :=
  fire (.sbind t p c r z sp o n) (fun x g s => sbind (c == 1) (r == 1) z.toNat sp.toNat (o == 1) n.toNat x g s) s

/-! ## Reading ahead and storing (R135–R138) -/

/-- The tokens of the next element of an in-port binding, or the fault met. A binding in space 11 takes AREGION as it stands at the access
(log entry 65). -/
def readElement (k : Nat) (b : Binding) (s : State) : List Ahead × Option (Nat × Nat) × State :=
  let areg := b.space == 3
  let a := b.addr b.pos
  let bad := fun (f : Fire) => match f with
    | .trap s c v => ([Ahead.fault c v], none, s)
    | .page s r p => ([], some (r, p), s)
    | _ => ([], none, s)
  let (stale, s) := s.streamStale k b.space a 1
  match s.locateScalar k stale b.raw b.space a b.size 1 with
  | (.mem p, s) =>
    match sizeTrap s p b.size b.raw with
    | some f => bad f
    | none =>
      if b.raw || p.fmt == 15 then
        match s.readLoc k p.key (2 ^ b.size) with
        | .bad f => bad f
        | .ok v s => ([.tok (word v) false], none, s)
      else
        match s.readElem k stale areg p 0 false with
        | .bad f => bad f
        | .ok lo s =>
          if p.fmt != 4 then ([.tok lo false], none, s)
          else
            match s.readElem k stale areg p 0 true with
            | .bad f => bad f
            | .ok hi s => ([.tok lo false, .tok hi true], none, s)
  | (.spad u off, s) =>
    match s.readLoc k (spadKey u off) (2 ^ b.size) with
    | .bad f => bad f
    | .ok v s => ([.tok (word v) false], none, s)
  | (.trap c v, s) => ([.fault c v], none, s)
  | (.absent r p, s) => ([], some (r, p), s)
  | (.busy, s) => ([], none, s)

def isFault : Ahead → Bool
  | .fault .. => true
  | .tok .. => false
  | .marker _ => false

def isTok : Ahead → Bool
  | .tok .. => true
  | _ => false

/-- R388: a stream meets a page that is not present: a running stroke waits for it; of one that is not running the stream waits, and the page is requested. -/
def State.streamPage (s : State) (k : Nat) (t : Stroke) (region page : Nat) : State :=
  if t.running then s.pageWait k region page else s.requestPage t.decl.part region page false (slabOf (unitOf k))

/-- The event: in-port binding `port` of a stroke reads its next element ahead. -/
def streamReadAhead (k port : Nat) (s : State) : State :=
  match s.stroke k with
  | none => s
  | some t =>
    match tabFind t.run.binds port with
    | none => s
    | some b =>
      if port ≥ 64 || t.run.frozen || t.run.state == .pagewait || b.pos ≥ b.count || (b.ahead.filter isTok).length ≥ 64 || b.ahead.any isFault then s
      else
        let (toks, page, s) := readElement k b s
        match page with
        | some (r, p) => s.streamPage k t r p
        | none =>
          -- no token and no page: the port of a peer was busy
          if toks.isEmpty then s
          else s.modRun k fun q =>
            { q with binds := tabPut q.binds port { b with ahead := b.ahead ++ (if b.skip then toks.drop 1 else toks), skip := false, pos := b.pos + 1 } }

def execStreamReadAhead (k port : Nat) (s : State) : Host.Outcome State Fault Refusal := .next (streamReadAhead k port s)

/-- Store one token at the next element (R115, R136): the binding afterwards, or the failure. A null token uses up its element, and no access is made. -/
def storeElement (k : Nat) (b : Binding) (tok : Token) (s : State) : Acc Binding :=
  let areg := b.space == 3
  let a := b.addr b.pos
  let b' := { b with sent := b.sent.drop 1 }
  let next := { b' with pos := b.pos + 1, nibble := none }
  if b.nibble.isNone && s.perElement k b b.pos == 2 then .ok { b' with nibble := some tok } s
  else if tok.isNone && (b.nibble.getD none).isNone then .ok next s
  else
    let (stale, s) := s.streamStale k b.space a 2
    match s.locateScalar k stale b.raw b.space a b.size 2 with
    | (.mem p, s) =>
      match sizeTrap s p b.size b.raw with
      | some f => .bad f
      | none =>
        if s.inSc p then .bad (.trap s trSCRANGE (word a))
        else if p.fmt == 4 && !b.raw then
          match b.nibble with
          | none => .ok { b' with nibble := some tok } s
          | some lo =>
            let code := fun (t : Token) (high : Bool) (s : State) => match t with
              | some w => s.elemCode k stale areg p 0 high false w.toNat
              | none => .ok 16 s
            match code lo false s with
            | .bad f => .bad f
            | .ok cl s =>
              match code tok true s with
              | .bad f => .bad f
              | .ok ch s =>
                let old := (s.load k p.key 1).1
                let v := (if ch < 16 then ch else old / 16) * 16 + (if cl < 16 then cl else old % 16)
                match s.storeLoc k (.mem p) [BitVec.ofNat 8 v] with
                | .bad f => .bad f
                | .ok _ s => .ok next s
        else
          match tok with
          | none => .ok next s
          | some w =>
            let c : Acc (Nat × Nat) := if b.raw || p.fmt == 15 then .ok (w.toNat, 2 ^ b.size) s
              else match s.elemCode k stale areg p 0 false false w.toNat with
                | .bad f => .bad f
                | .ok c s => .ok (c, fmtBytes p.fmt) s
            match c with
            | .bad f => .bad f
            | .ok (c, n) s =>
              match s.storeLoc k (.mem p) (toBytes c n) with
              | .bad f => .bad f
              | .ok _ s => .ok next s
    | (.spad u off, s) =>
      match tok with
      | none => .ok next s
      | some w =>
        match s.storeLoc k (.spad u off) (toBytes w.toNat (2 ^ b.size)) with
        | .bad f => .bad f
        | .ok _ s => .ok next s
    | (l, s) => .bad ((failLoc s l).getD (.hold s))

/-- The event: the oldest token sent to out-port `port` of a stroke is stored. -/
def streamOutStore (k port : Nat) (s : State) : State :=
  match s.stroke k with
  | none => s
  | some t =>
    match tabFind t.run.binds (64 + port) with
    | none => s
    | some b =>
      match b.sent with
      | [] => s
      | tok :: _ =>
        let setB := fun (b : Binding) (s : State) => s.modRun k fun q => { q with binds := tabPut q.binds (64 + port) b }
        match (if b.stopped then .ok { b with sent := [] } s else storeElement k b tok s) with
        | .ok b s => setB b s
        | .bad (.trap s code _) =>
          (setB { b with sent := [], stopped := true } s).deferTrap k code (word b.pos)
        | .bad (.page s r p) => s.streamPage k t r p
        | .bad _ => s

def execStreamOutStore (k port : Nat) (s : State) : Host.Outcome State Fault Refusal := .next (streamOutStore k port s)

/-! ## Beneš sets (R140, R141) -/

def execBset (t : BitVec 9) (p n : BitVec 2) (s : State) : Host.Outcome State Fault Refusal :=
  fire (.bset t p n) (fun x g s => .value (s.modUnit (unitOf x.k) fun u =>
    { u with lane := { u.lane with bn := listSet u.lane.bn n.toNat (word (g.av.toNat % 2 ^ 56)) } }) 0) s

def execBperm (t v : BitVec 9) (p n : BitVec 2) (s : State) : Host.Outcome State Fault Refusal :=
  fire (.bperm t v p n) (fun x g s =>
    let c := ((s.unit (unitOf x.k)).lane.bn.getD n.toNat 0).toNat
    .value s (word (ofNibbles (benes (nibbles g.av.toNat 16) c)))) s

end Sys2Proof.Machine
end

