-- ==== Sys2Proof/Machine/Phases.lean ====
section
/-!
DEFINITION. Machine/Phases.lean: PHASE, FENCE, PUBLISH, the completion of phase boundaries and the stall of pending writes (R229–R238, R251,
R391).
-/
namespace Sys2Proof.Machine

/-- A phase of the stroke begins (R233). -/
def State.beginPhase (s : State) (k : Nat) : State := s.modRun k fun r => { r with stable := [] }

/-- No update of an earlier instance is still at its owner. What else precedes in program order stands in the form (R51). -/
def State.quiet (s : State) (x : Ctx) : Bool := !(s.net.atoms.any fun a => a.stroke == x.k && a.serial != x.ins.serial)

/-! ## PHASE and FENCE (R237, R238) -/

def phase (sc : Nat) (x : Ctx) (s : State) : Fire :=
  if !s.quiet x then .hold s
  else .owed (s.modRun x.k fun r =>
    { r with boundaries := r.boundaries ++
        [{ scope := sc, kind := 0, serial := x.ins.serial, slot := x.n, upto := s.mem.order }] })

def execPhase (t : BitVec 9) (p : BitVec 2) (sp : BitVec 3) (s : State) : Host.Outcome State Fault Refusal :=
  fire (.phase t p sp) (fun x _ s => phase sp.toNat x s) s

def execFence (t : BitVec 9) (p : BitVec 2) (a w : BitVec 1) (s : State) : Host.Outcome State Fault Refusal :=
  fire (.fence t p a w) (fun x _ s =>
    if w == 1 && !s.quiet x then .hold s
    else .value (if a == 1 then s.beginPhase x.k else s) 0) s

/-! ## Completion of a boundary (R230–R233) -/

/-- The pending nibbles of the out-port bindings of a stroke that exits are written (R137); a fault is a deferred trap (R138). -/
def flushNibbles (k : Nat) : Table Binding → State → State
  | [], s => s
  | e :: t, s =>
    let s := if e.1 < 64 then s
      else
        let clear := fun (s : State) => s.modRun k fun q => { q with binds := tabPut q.binds e.1 { e.2 with nibble := none } }
        match s.flushNibble k e.2 with
        | .ok _ s => clear s
        | .bad (.trap s code _) => (clear s).deferTrap k code (word e.2.pos)
        | .bad (.page s r p) => match s.stroke k with
          | some t => s.streamPage k t r p
          | none => s
        | .bad _ => s
    flushNibbles k t s

/-- Nibbles that are still pending. -/
def Stroke.nibblesLeft (t : Stroke) : Bool := t.run.binds.any fun e => 64 ≤ e.1 && e.2.nibble.isSome

/-- R256: the marks of every member whose stroke passes the boundary count it. -/
def State.countMark (s : State) (g : WashGroup) (k : Nat) : WashGroup :=
  { g with marks := g.marks.zipIdx.map fun m =>
      if s.boundAt (placeOfWord (g.members.getD m.2 0).toNat) == some k then m.1 + 1 else m.1 }

def State.countMarks (s : State) (k : Nat) : State :=
  s.modSvc fun v => { v with groups := v.groups.map fun e => (e.1, s.countMark e.2 k) }

/-- A boundary of folio scope or wider counts in the folio's phase sequence (Table 1-9). -/
def State.countFolio (s : State) (k sc : Nat) : State :=
  match s.stroke k with
  | some t => if sc < 2 then s else s.modFolio t.decl.folio fun f => { f with phases := f.phases + 1 }
  | none => s

/-- The first boundary of a stroke completes. -/
def State.passFirst (s : State) (k : Nat) (b : Boundary) (rest : List Boundary) : State :=
  let upto := if b.kind == 2 then s.mem.order else b.upto
  let s := ((s.modMem fun m => m.passBoundary k b.scope upto).countMarks k).countFolio k b.scope
  let s := s.modStroke k fun t =>
    { t with regs := { t.regs with phaseNumber := t.regs.phaseNumber + 1 },
             run := { t.run with boundaries := rest, stable := [] } }
  match b.kind with
  | 0 => s.pushReply k b.serial b.slot (some (word ((s.stroke k).map (·.regs.phaseNumber.toNat) |>.getD 0)))
  | 1 =>
    let s := match s.stroke k with
      | some t => s.modFolio t.decl.folio fun f =>
          { f with bars := match f.bars[b.bar]? with
              | some x => listSet f.bars b.bar { x with settled := x.settled ++ [k] }
              | none => f.bars }
      | none => s
    s.pushReply k b.serial b.slot (some (word b.gen))
  | _ =>
    match (s.stroke k).bind (·.run.ending) with
    | some st => s.endStroke k st.toNat false
    | none => s

/-- PHASE_BOUNDARY_COMPLETE. The boundary of an EXIT completes only after every out-port store (R137) and every LDV that has fired (R118). -/
def phaseBoundaryComplete (k : Nat) (s : State) : State :=
  match s.stroke k with
  | none => s
  | some t =>
    match t.run.boundaries with
    | [] => s
    | b :: rest =>
      -- R268: a wash of an earlier instance issues first
      if t.run.waiting.any (·.serial < b.serial) then s
      else if b.kind != 2 then s.passFirst k b rest
      else if t.run.state == .trapped || !t.outsStored || !t.run.moves.isEmpty then s
      else
        let s := flushNibbles k t.run.binds s
        if (s.stroke k).any fun t => t.nibblesLeft || t.run.state == .trapped then s else s.passFirst k b rest

def execPhaseBoundaryComplete (k : Nat) (s : State) : Host.Outcome State Fault Refusal := .next (phaseBoundaryComplete k s)

/-! ## PUBLISH (R251, R391) -/

/-- The leaf of a page, present or not, once every other check of R385 has passed; else the code with its level, or UNCORR with the granule of the
entry that holds an error. -/
def State.leafFor (s : State) (part priv region off kind : Nat) : Except (Nat × Nat) Leaf :=
  match s.walk region off fun p sonly => p == part && !(sonly && priv == 0) with
  | .fault c l => .error (c, l)
  | .poison g => .error (trUNCORR, g)
  | .leaf l => match s.checkLeaf l priv region off kind with
    | .fault c l => .error (c, l)
    | _ => .ok l

/-- What the check of a range of pages finds. -/
inductive PubCheck where
  | fault (code level off : Nat)
  /-- PUBFAIL code 2 or 3, at a page index -/
  | fail (code index : Nat)
  | ok (leaves : List Leaf)
  deriving DecidableEq, Repr

/-- Check the pages from index `i` on of `count` pages at `a`; at most `fuel` leaves. -/
def State.checkPages (s : State) (part priv region a count kind : Nat) : Nat → Nat → List Leaf → PubCheck
  | 0, _, acc => .ok acc
  | fuel + 1, i, acc =>
    if i ≥ count then .ok acc
    else
      let off := (a + i * 65536) % 2 ^ 64
      match s.leafFor part priv region off kind with
      | .error (c, l) => .fault c l off
      | .ok l =>
        if !bit l.w1 63 then .fail 2 i
        else
          let size := 2 ^ leafBits l.level
          let lo := off / size * size
          if l.level < 4 && (lo < a || a + count * 65536 < lo + size) then .fail 3 i
          else s.checkPages part priv region a count kind fuel (i + size / 65536) (acc ++ [l])

/-- The words of a leaf whose PA and SPA are exchanged and whose P is 1. -/
def exchanged (w0 w1 : Nat) : Nat × Nat :=
  let w0' := w0 - entryPa w0 + entryPa w1
  (if bit w0' 62 then w0' else w0' + 2 ^ 62, w1 - entryPa w1 + entryPa w0)

/-- R251, R235: a stroke that has read a page of a range in its phase keeps its stable values there, whichever physical page the range names now:
the values fixed for `n` bytes at `old` hold at `new` too. -/
def StrokeRun.carryStable (r : StrokeRun) (old new n : Nat) : StrokeRun :=
  { r with stable := r.stable.foldl (fun t e =>
      let g := granule new + (e.1 - granule old)
      if granule old ≤ e.1 && e.1 < granule (old + n) && (tabFind t g).isNone then tabPut t g e.2 else t) r.stable }

/-- A stroke that reads through the region. -/
def Stroke.carry (t : Stroke) (region old new n : Nat) : Stroke :=
  if t.region false == region || t.region true == region then t.modRun (·.carryStable old new n) else t

/-- One committed write per leaf, and the stable values of the strokes that read through the region. -/
def State.exchange (s : State) (region : Nat) (leaves : List Leaf) : State :=
  leaves.foldl (fun s l =>
    let w0 := s.mem.get (physKey 0 l.at_) 8
    let w1 := s.mem.get (physKey 0 (l.at_ + 8)) 8
    let r := exchanged w0 w1
    let tier := bits w0 11 10
    let old := physKey tier (entryPa w0)
    let new := physKey tier (entryPa w1)
    ({ s with strokes := s.strokes.map fun e => (e.1, e.2.carry region old new (2 ^ leafBits l.level)) } : State).writeLeaf l r.1 r.2) s

/-- Pages `lo` to `lo + n - 1` of a region meet a range of pages. -/
def inPages (region a count r lo n : Nat) : Bool := r == region && lo < a / 65536 + count && a / 65536 < lo + n

/-- The cached entry covers some page of a range. -/
def TlbEntry.meets (e : TlbEntry) (hit : Nat → Nat → Nat → Bool) : Bool :=
  let p := leafPages e.level e.page
  hit e.region p.1 p.2

/-- R391, R396: the translations of a range are removed, and the page requests on it end (R389). -/
def State.forget (s : State) (hit : Nat → Nat → Nat → Bool) : State :=
  let s := s.modMem fun m => { m with tlb := m.tlb.filter (!·.meets hit) }
  s.modEng fun e =>
    { e with pageReqs := e.pageReqs.filter fun r => !hit r.1 r.2 1,
             pageQueue := e.pageQueue.filter fun r => !hit r.2.1 r.2.2.1 1 }

/-- The request was translated through a leaf that covers some page of a range. -/
def AtomReq.meets (a : AtomReq) (hit : Nat → Nat → Nat → Bool) : Bool :=
  let p := leafPages a.level (a.addr.toNat / 65536)
  a.region < 65536 && hit a.region p.1 p.2

/-- An AFADD that waits outside the reorder buffer has not left its unit (R396). -/
def AtomReq.unsent (a : AtomReq) : Bool := match a.kind with
  | .afadd _ _ held => !held
  | _ => false

/-- An update translated through a page of a range has not reached its owner (R251, R396). An AFADD that the reorder buffer holds has. -/
def State.inFlight (s : State) (hit : Nat → Nat → Nat → Bool) : Bool := s.net.atoms.any fun a => a.meets hit && !isAdd a.kind

/-- R396: AFADDs that have not left their units are withdrawn, and translated again as their slots fire again. -/
def State.withdrawUnsent (s : State) (hit : Nat → Nat → Nat → Bool) : State :=
  let mine := s.net.atoms.filter fun a => a.meets hit && a.unsent
  let s := mine.foldl (fun s a => if (s.inst a.stroke).any (·.serial == a.serial) then s.unsend a.stroke a.slot else s) s
  s.modNet fun q => { q with atoms := q.atoms.filter fun a => !(a.meets hit && a.unsent) }

/-- The drain is over: what was on its way has reached the pages, and the range's translations go (R391, R396). -/
def State.invalidate (s : State) (hit : Nat → Nat → Nat → Bool) : State := ((s.withdrawUnsent hit).drainMoves hit).forget hit

def publish (ax : Bool) (x : Ctx) (g : Args) (s : State) : Fire :=
  let a := g.av.toNat
  let n := g.bv.toNat
  let region := x.st.region ax
  if a % 65536 != 0 then .trap s trMISALIGN g.av
  else if n == 0 || n > 65536 then .trap s trPUBFAIL 1
  else
    match s.checkPages x.st.decl.part (unitPriv (unitOf x.k)) region a n 3 n 0 [] with
    | .fault c l off => .trap s c (if c == trUNCORR then granuleVal l else transVal off ax l 3)
    | .fail c i => .trap s trPUBFAIL (word (i * 256 + c))
    | .ok leaves =>
      if s.inFlight (inPages region a n) then .hold s
      else .value ((s.exchange region leaves).invalidate (inPages region a n)) 0

def execPublish (t v : BitVec 9) (p : BitVec 2) (x : BitVec 1) (s : State) : Host.Outcome State Fault Refusal :=
  fire (.publish t v p x) (fun c g s => publish (x == 1) c g s) s

/-! ## Stalled writes (R229) -/

/-- The address of the pending write on which a held store stalls, if it does. -/
def State.stalled (s : State) (k n : Nat) : Option Word :=
  match s.inst k with
  | none => none
  | some i =>
    match i.slots[n]?, i.instr n with
    | some x, some (.st _ _ _ sp z q) =>
      if x.mode != .held then none
      else
        let a := (x.portA.join.getD 0).toNat
        (match (s.locateScalar k false (q == 2) sp.toNat a z.toNat 2).1 with
         | .mem p => if s.pendFits k p.key (2 ^ z.toNat) then none else some (word a)
         | .spad u off => if u == unitOf k || s.pendFits k (spadKey u off) (2 ^ z.toNat) then none else some (word a)
         | _ => none)
    | some x, some (.stv _ _ _ sp z q) =>
      if x.mode != .held then none
      else
        let a := (x.portA.join.getD 0).toNat
        let m := vecBytes z.toNat
        let raw := q.toNat / 4 == 1
        (match (s.locateVec k false raw sp.toNat a m 2).1 with
         | .mem p =>
           if s.pendFits k p.key (if raw then m else vecOther p.fmt m) then none else some (word a)
         | .spad u off => if u == unitOf k || s.pendFits k (spadKey u off) m then none else some (word a)
         | _ => none)
    | _, _ => none

/-- An out-port store stalls on the pending limit. -/
def State.outStalled (s : State) (k port : Nat) : Bool :=
  match (s.stroke k).bind fun t => tabFind t.run.binds (64 + port) with
  | none => false
  | some b =>
    !b.sent.isEmpty && !b.stopped &&
      (match (s.locateScalar k false b.raw b.space (b.addr b.pos) b.size 2).1 with
       | .mem p => !s.pendFits k p.key (if b.raw || p.fmt == 15 then 2 ^ b.size else fmtBytes p.fmt)
       | .spad u off => u != unitOf k && !s.pendFits k (spadKey u off) (2 ^ b.size)
       | _ => false)

/-- PHASEOVF: a write of slot `slot`, or of out-port `slot - 64`, has stalled for 4,096 cycles. -/
def phaseovf (k slot : Nat) (s : State) : State :=
  if slot < 64 then
    match (if (s.stroke k).any (·.running) then s.stalled k slot else none) with
    | some a => s.takeTrap k slot trPHASEOVF a
    | none => s
  else if s.outStalled k (slot - 64) then
    match (s.stroke k).bind fun t => tabFind t.run.binds slot with
    | some b =>
      (s.modRun k fun q => { q with binds := tabPut q.binds slot { b with sent := [], stopped := true } }).deferTrap k trPHASEOVF
        (word b.pos)
    | none => s
  else s

def execPhaseovf (k slot : Nat) (s : State) : Host.Outcome State Fault Refusal := .next (phaseovf k slot s)

end Sys2Proof.Machine
end

