-- ==== Sys2Proof/Machine/Channels.lean ====
section
/-!
DEFINITION. Machine/Channels.lean: places and gateways (R180, R400–R404), inboxes and words (R145, R148), handler entries (R147, R179), CHSEND and
CHMCAST (R163, R180), INRD (R181), barriers (R156, R157, R182), arrival words (R177).
-/
namespace Sys2Proof.Machine

/-! ## Places and gateways -/

/-- Valid gateway entry `e`: SPART, DPART, ANYCH, RATE, PLACE (Table 16-2). -/
def State.gateway (s : State) (e : Nat) : Option (Nat × Nat × Bool × Nat × Nat) :=
  let w := s.csrGet 0x47 0 e
  if bit w 63 then some (bits w 55 48, bits w 47 40, bit w 62, bits w 39 32, bits w 31 0) else none

/-- The first entry that admits a word of partition `part` to a place word. -/
def State.gateFor (s : State) (part w : Nat) (copy : Bool) : Option (Nat × Nat) :=
  (span 0 256).findSome? fun e =>
    match s.gateway e with
    | some (sp, dp, any, _, pl) =>
      if sp == part && (!copy || any) && (if any then pl / 64 == w % 2 ^ 32 / 64 else pl == w % 2 ^ 32) then some (e, dp) else none
    | none => none

/-- How a place word of partition `part` is reached: none when it is malformed or unreachable (R180), else its gateway when it crosses one. -/
def State.reach (s : State) (part w : Nat) : Option (Option (Nat × Nat)) :=
  let module := bits w 31 24
  if w / 2 ^ 32 != 0 || bits w 23 18 != 0 || bits w 17 14 > 11 || !placeNibOk (bits w 13 6) then none
  else if module != 0xFF && !s.peerOk module then none
  else if module == 0xFF && s.placePart (placeOfWord w) == some part then some none
  else (s.gateFor part w false).map some

/-- Send a word from a stroke's region, in its round, along a checked place word. -/
def State.sendWord (s : State) (sender : Sender) (round : Nat) (gate : Option (Nat × Nat)) (w : Nat) (v : Word) : State :=
  let s := match sender with
    | .chsend k _ _ _ => s.strokeBeat k 1
    | .stroke k => s.strokeBeat k 1
    | _ => s
  s.modNet fun n =>
    { n with words := n.words ++
        [{ sender, place := placeOfWord w, word := v, round, module := bits w 31 24, gate }] }

/-! ## Inboxes (R145, R148) -/

def UnitSt.inbox (u : UnitSt) (ch : Nat) : List InWord := tabGet u.inboxes ch []

def UnitSt.setInbox (u : UnitSt) (ch : Nat) (l : List InWord) : UnitSt :=
  { u with inboxes := if l.isEmpty then tabDel u.inboxes ch else tabPut u.inboxes ch l }

/-- The unbound-channel report (Table 14-4), unless it has been sent already. The management nib posts none (R353). -/
def State.reportUnbound (s : State) (place : Nat) : State :=
  let u := place / 64
  if nibOf u == 162 || (tabFind (s.unit u).reported (place % 64)).isSome then s
  else
    let dest := s.reportPlace u (if nibOf u < 160 then s.unitPart u else none)
    let s := s.modUnit u fun x => { x with reported := tabPut x.reported (place % 64) true }
    s.post (.engine u) dest (word (0x7B * 2 ^ 56 + placeWord place))

/-- An emptied inbox may be reported again. -/
def UnitSt.emptied (u : UnitSt) (ch : Nat) : UnitSt :=
  if (u.inbox ch).isEmpty then { u with reported := tabDel u.reported ch } else u

/-- The sender's token when its word is in the inbox: a pipeline action that launches ends then (R307). -/
def State.delivered (s : State) (w : NetWord) : State :=
  match w.sender with
  | .chsend k serial slot _ => s.pushReply k serial slot (some 0)
  | .mcast id =>
    match s.net.mcasts.find? (·.id == id) with
    | none => s
    | some m =>
      if m.left ≤ 1 then
        (s.modNet fun n => { n with mcasts := n.mcasts.filter (·.id != id) }).pushReply m.stroke m.serial m.slot (some 0)
      else s.modNet fun n => { n with mcasts := n.mcasts.map fun x => if x.id == id then { x with left := x.left - 1 } else x }
  | .action id =>
    match s.svc.acts.find? (·.id == id) with
    | none => s
    | some a =>
      (s.modSvc fun v => { v with acts := v.acts.filter (·.id != id) }).pushReply a.stroke a.serial a.slot (some a.result)
  | _ => s

/-- A word enters its inbox at the tail; on a management nib it ends a HALT (R370). -/
def State.enterInbox (s : State) (w : NetWord) : State :=
  let u := w.place / 64
  let ch := w.place % 64
  let s := s.modUnit u fun x =>
    { x.setInbox ch (x.inbox ch ++ [{ word := w.word, round := w.round }]) with halted := false }
  let s := if (tabFind (s.unit u).handlers ch).isNone then s.reportUnbound w.place else s
  s.delivered w

/-- Budget of a metered gateway entry left in this period (R404). -/
def State.gateOpen (s : State) (e : Nat) : Bool :=
  match s.gateway e with
  | some (_, _, _, rate, _) => rate == 0 || tabGet s.plat.spent e 0 < 16 * rate
  | none => true

def dropWord (n : Nat) (s : State) : State := s.modNet fun q => { q with words := listDrop q.words n }

/-! ## Words for peers (R411, R413) -/

/-- The place word of a word for a peer's place, as that peer reads it: MODULE 0xFF. -/
def homePlace (place : Nat) : Word := word (0xFF * 2 ^ 24 + placeWord place)

/-- A word for a peer leaves by a port. It stays in flight, and its sender waits, until its flit is acknowledged (R145, R413; log entry 78). -/
def State.leaveWord (s : State) (n : Nat) (w : NetWord) : State :=
  (dropWord n s).sendPeer w.module (homePlace w.place) { msg := .word (homePlace w.place) w.word, word := some w }

/-- Word `n` has come to its destination's network interface. -/
def arriveWord (n : Nat) (s : State) : State :=
  match s.net.words[n]? with
  | none => s
  | some w =>
    if !s.headOfLine n || w.kind == 2 || (s.absorber w).isSome ||
        (w.kind == 1 && w.module == 0xFF && (s.unit (w.place / 64)).reserves (w.place % 64)) then s
    else
      match w.gate with
      | some (e, dp) =>
        if !w.paid then
          if s.gateOpen e then
            let s := s.modPlat fun p => { p with spent := tabPut p.spent e (tabGet p.spent e 0 + 1) }
            s.modNet fun q => { q with words := listSet q.words n { w with paid := true } }
          else s
        else if w.module == 0xFF && s.placePart w.place != some dp then (dropWord n s).delivered w
        else if w.module != 0xFF then s.leaveWord n w
        else if ((s.unit (w.place / 64)).inbox (w.place % 64)).length ≥ 8 then
          s.modNet fun q => { q with words := listSet q.words n { w with refused := true } }
        else (dropWord n s).enterInbox w
      | none =>
        if w.module != 0xFF then s.leaveWord n w
        else if ((s.unit (w.place / 64)).inbox (w.place % 64)).length ≥ 8 then
          s.modNet fun q => { q with words := listSet q.words n { w with refused := true } }
        else (dropWord n s).enterInbox w

/-- CHANNEL_WORD_ARRIVAL: a word enters its inbox or is refused. -/
def execChannelWordArrival (n : Nat) (s : State) : Host.Outcome State Fault Refusal :=
  .next (if (s.net.words[n]?).any (·.refused) then s else arriveWord n s)

/-- INBOX_RETRY: a refused word is tried again. -/
def execInboxRetry (n : Nat) (s : State) : Host.Outcome State Fault Refusal :=
  .next (if (s.net.words[n]?).any (·.refused) then arriveWord n s else s)

/-! ## Arrival words (R177) -/

/-- Table 6-2: the arrival word of a page. -/
def arrivalWord (region page : Nat) : Word := word (0xA7 * 2 ^ 56 + (region * 2 ^ 48 + page) % 2 ^ 56)

/-- Arrival words go to the arrival channel of every stroke in PAGEWAIT on a page that `hit` names (R176, R396); a method's fetch walks
again. -/
def State.postArrivals (s : State) (hit : Nat → Nat → Bool) : State :=
  s.strokes.foldl (fun s e =>
    match e.2.run.state, e.2.run.waitPage with
    | .pagewait, some (r, p) =>
      if !hit r p then s
      else if isScribe (unitOf e.1) then s.modRun e.1 fun q => { q with state := .run, waitPage := none }
      else
        s.post (.engine anyEngine) (unitOf e.1 * 64 + e.2.decl.chbase + e.2.decl.arrch) (arrivalWord r p) 2
    | _, _ => s) s

/-- PAGE_ARRIVAL_ABSORB: the stroke becomes a candidate; a word that finds no such stroke is discarded. -/
def pageArrivalAbsorb (n : Nat) (s : State) : State :=
  match s.net.words[n]? with
  | none => s
  | some w =>
    if w.kind != 2 then s
    else
      let s := (dropWord n s).unhalt (w.place / 64)
      match s.channelOwner (w.place / 64) (w.place % 64) with
      | none => s
      | some k =>
        match (s.stroke k).map (·.run) with
        | some r =>
          if r.state == .pagewait && r.waitPage.any fun p => arrivalWord p.1 p.2 == w.word then
            s.modRun k fun r => { r with state := .ready }
          else s
        | none => s

def execPageArrivalAbsorb (n : Nat) (s : State) : Host.Outcome State Fault Refusal := .next (pageArrivalAbsorb n s)

/-! ## Handler entries (R179) -/

def hset (x : Ctx) (g : Args) (s : State) : Fire :=
  let b := g.bv.toNat
  let ch := bits b 5 0
  if b / 65536 != 0 || bits b 11 6 != 0 then .trap s trRSVOPND g.bv
  else if ch ≥ x.st.decl.chans then .trap s trCHANIDX (word ch)
  else if g.av.toNat % 4 != 0 then .trap s trMISALIGN g.av
  else
    let c := x.st.decl.chbase + ch
    let e : HandlerEntry := { stroke := x.k, entry := pcAt x.st.regs.pc g.av, prio := bits b 14 12, masked := bit b 15 }
    .value (s.modUnit (unitOf x.k) fun u =>
      { u with handlers := tabPut u.handlers c e, reported := tabDel u.reported c }) 0

def execHset (t : BitVec 9) (p : BitVec 2) (s : State) : Host.Outcome State Fault Refusal :=
  fire (.hset t p) (fun x g s => hset x g s) s

/-- Mask bits of the named channels of a stroke, from relative channel `c` on. -/
def maskBits (u : UnitSt) (base : Nat) (a : Nat) : List Nat → Nat
  | [] => 0
  | c :: t =>
    (if bit a c && (tabFind u.handlers (base + c)).any (·.masked) then 2 ^ c else 0) + maskBits u base a t

def hmask (m : Bool) (x : Ctx) (g : Args) (s : State) : Fire :=
  let a := g.av.toNat
  let d := x.st.decl
  if a ≥ 2 ^ d.chans then .trap s trCHANIDX g.av
  else
    let u := s.unit (unitOf x.k)
    let old := maskBits u d.chbase a (span 0 d.chans)
    let hs := u.handlers.map fun e =>
      if d.chbase ≤ e.1 && e.1 < d.chbase + d.chans && bit a (e.1 - d.chbase) then (e.1, { e.2 with masked := m }) else e
    .value (s.modUnit (unitOf x.k) fun u => { u with handlers := hs }) (word old)

def execHmask (t : BitVec 9) (p : BitVec 2) (m : BitVec 1) (s : State) : Host.Outcome State Fault Refusal :=
  fire (.hmask t p m) (fun x g s => hmask (m == 1) x g s) s

def hclr (discard : Bool) (x : Ctx) (g : Args) (s : State) : Fire :=
  let ch := bits g.av.toNat 5 0
  if ch ≥ x.st.decl.chans then .trap s trCHANIDX (word ch)
  else
    let c := x.st.decl.chbase + ch
    let u := unitOf x.k
    let mine := (s.unit u).handlers.filter (·.2.stroke == x.k)
    if mine.length == 1 && mine.any (·.1 == c) then .trap s trNOHANDLER (word ch)
    else
      let s := s.modUnit u fun y =>
        let y := { y with handlers := tabDel y.handlers c }
        if discard then (y.setInbox c []).emptied c else y
      .value (if ((s.unit u).inbox c).isEmpty then s else s.reportUnbound (u * 64 + c)) 0

def execHclr (t : BitVec 9) (p : BitVec 2) (d : BitVec 1) (s : State) : Host.Outcome State Fault Refusal :=
  fire (.hclr t p d) (fun x g s => hclr (d == 1) x g s) s

/-! ## CHSEND and CHMCAST (R163, R180) -/

def execChsend (t : BitVec 9) (p : BitVec 2) (s : State) : Host.Outcome State Fault Refusal :=
  fire (.chsend t p) (fun x g s =>
    match s.reach x.st.decl.part g.av.toNat with
    | none => .trap s trPLACE g.av
    | some gate => .owed (s.sendWord (.chsend x.k x.ins.serial x.n x.me.done) s.rounds.issued gate g.av.toNat g.bv)) s

/-- Words of the stroke's window, from an offset on. -/
def State.windowWords (s : State) (k base : Nat) : Nat → List Word × State
  | 0 => ([], s)
  | n + 1 =>
    let (v, s) := s.load k base 8
    let (l, s) := s.windowWords k (base + 8) n
    (word v :: l, s)

def chmcast (x : Ctx) (g : Args) (s : State) : Fire :=
  let b := g.bv.toNat
  if b % 8 != 0 then .trap s trMISALIGN g.bv
  else if b + 8 > x.st.decl.wsize then .trap s trSPADWIN g.bv
  else
    let base := spadKey (unitOf x.k) (x.st.decl.wbase + b)
    match s.readTrap base 8 with
    | some f => f
    | none =>
      let (n, s) := s.load x.k base 8
      if n == 0 || n > 64 then .trap s trPLACE (word n)
      else if b + 8 * (n + 1) > x.st.decl.wsize then .trap s trSPADWIN g.bv
      else
        match s.readTrap base (8 * (n + 1)) with
        | some f => f
        | none =>
          let (ps, s) := s.windowWords x.k (base + 8) n
          match ps.find? fun w => (s.reach x.st.decl.part w.toNat).isNone with
          | some w => .trap s trPLACE w
          | none =>
            .owed ((s.strokeBeat x.k 1).modNet fun q =>
              { q with nextId := q.nextId + 1,
                       mcasts := q.mcasts ++ [{ id := q.nextId, stroke := x.k, serial := x.ins.serial, slot := x.n, iter := x.me.done, word := g.av,
                                                places := ps, gates := ps.map fun w => (s.reach x.st.decl.part w.toNat).getD none,
                                                round := s.rounds.issued, part := x.st.decl.part, left := n }] })

def execChmcast (t : BitVec 9) (p : BitVec 2) (s : State) : Host.Outcome State Fault Refusal :=
  fire (.chmcast t p) (fun x g s => chmcast x g s) s

/-- A multicast is sent before another in its stroke's program order. -/
def Mcast.before (m v : Mcast) : Bool :=
  m.stroke == v.stroke && (if m.serial == v.serial then (if m.iter == v.iter then m.slot < v.slot else m.iter < v.iter) else m.serial < v.serial)

/-- A CHMCAST of the running instance that precedes slot `n` of iteration `it` has still to act; one that waits for its result does not precede it. -/
def Instance.castsFirst (i : Instance) (n it : Nat) : Bool :=
  (span 0 i.slots.length).any fun j => j != n && (match i.instr j, i.slots[j]? with
    | some (.chmcast ..), some y => if j < n then y.done ≤ it && !pathTo i.words n j else y.done < it
    | _, _ => false)

/-- R145: of two multicasts of one stroke that share a channel, the earlier one is replicated first. -/
def State.castMayGo (s : State) (m : Mcast) : Bool :=
  !(s.net.mcasts.any fun v => !v.sent && v.before m && v.places.any m.places.contains) &&
    !((s.inst m.stroke).any fun i => i.serial == m.serial && i.castsFirst m.slot m.iter)

/-- MCAST_REPLICATE: the replication point takes every branch of multicast `n` at once. -/
def mcastReplicate (n : Nat) (s : State) : State :=
  match s.net.mcasts[n]? with
  | none => s
  | some m =>
    if m.sent || !s.castMayGo m then s
    else
      let s := s.modNet fun q => { q with mcasts := listSet q.mcasts n { m with sent := true } }
      (m.places.zip m.gates).foldl (fun s w => s.sendWord (.mcast m.id) m.round w.2 w.1.toNat m.word) s

def execMcastReplicate (n : Nat) (s : State) : Host.Outcome State Fault Refusal := .next (mcastReplicate n s)

/-! ## INRD (R181, R161) -/

/-- INRD. A head word of a round whose edge the reader's region has not passed is not there yet: INRD waits, and with TRY sends null (log entry 29). -/
def inrd (cur try_ : Bool) (x : Ctx) (g : Args) (s : State) : Fire :=
  let ch := if cur then x.st.regs.curch else bits g.av.toNat 5 0
  if ch ≥ x.st.decl.chans then .trap s trCHANIDX (word ch)
  else
    let c := x.st.decl.chbase + ch
    match (s.unit (unitOf x.k)).inbox c with
    | w :: rest =>
      if w.round ≤ s.edgeOf x.k x.st then
        .value (s.modUnit (unitOf x.k) fun u => (u.setInbox c rest).emptied c) w.word
      else if try_ then .result s none
      else .hold s
    | [] => if try_ then .result s none else .hold s

def execInrd (t : BitVec 9) (p : BitVec 2) (c y : BitVec 1) (s : State) : Host.Outcome State Fault Refusal :=
  fire (.inrd t p c y) (fun x g s => inrd (c == 1) (y == 1) x g s) s

/-! ## Barriers (R156, R157, R182) -/

/-- Arrive at barrier `b`; a BARW also arms a wake on a relative channel. -/
def arrive (b : Nat) (wake : Option Nat) (x : Ctx) (s : State) : Fire :=
  match s.folioOf x.k with
  | none => .trap s trBARIDX (word b)
  | some f =>
    match f.bars[b]? with
    | none => .trap s trBARIDX (word b)
    | some y =>
      if wake.any (· ≥ x.st.decl.chans) then .trap s trCHANIDX (word (wake.getD 0))
      else if y.arrived.contains x.k then .trap s trBARTWICE (word b)
      else if !s.quiet x then .hold s
      else
        let y := { y with
          arrived := y.arrived ++ [x.k],
          waiters := match wake with
            | some c => y.waiters ++ [(x.k, unitOf x.k * 64 + x.st.decl.chbase + c)]
            | none => y.waiters }
        let s := s.modFolio f.id fun f => { f with bars := listSet f.bars b y }
        .owed (s.modRun x.k fun r =>
          { r with boundaries := r.boundaries ++
              [{ scope := 2, kind := 1, serial := x.ins.serial, slot := x.n, bar := b, gen := y.gen, upto := s.mem.order }] })

def execBara (t : BitVec 9) (p : BitVec 2) (b : BitVec 4) (s : State) : Host.Outcome State Fault Refusal :=
  fire (.bara t p b) (fun x _ s => arrive b.toNat none x s) s

def execBarw (t : BitVec 9) (p : BitVec 2) (b : BitVec 4) (s : State) : Host.Outcome State Fault Refusal :=
  fire (.barw t p b) (fun x g s => arrive b.toNat (some (bits g.av.toNat 5 0)) x s) s

/-- Table 6-2: the barrier wake word. -/
def barrierWord (b gen : Nat) : Word := word (0xBA * 2 ^ 56 + b * 2 ^ 52 + gen % 2 ^ 32)

/-- A wake word for a place. -/
def State.wakeAt (s : State) (place : Nat) (w : Word) : State := s.post (.engine (place / 64)) place w

/-- A wake word for a relative channel of a stroke. -/
def State.wake (s : State) (k ch : Nat) (w : Word) : State :=
  match s.stroke k with
  | some t => s.post (.engine (unitOf k)) (unitOf k * 64 + t.decl.chbase + ch) w
  | none => s

/-- R425: after a barrier release the matrix engines of the folio that have queued entries wait for admission, in ascending FRANK. -/
def State.slewRelease (s : State) (f : Folio) : State :=
  let ranked := f.strokes.filterMap fun k => (s.stroke k).map fun t => (t.decl.frank, unitOf k)
  let units := (span 0 256).flatMap fun r => distinct ((ranked.filter (·.1 == r)).map (·.2))
  let busy := units.filter fun u => !(s.unit u).matrix.queue.isEmpty
  if busy.isEmpty then s
  else s.modPlat fun p =>
    { p with slewing := (p.slewing.filter (·.folio != f.id)) ++ [{ folio := f.id, slab := f.slab, wait := busy }] }

/-- BARRIER_GENERATION_COMPLETE: every stroke of the folio has arrived and every arrival's boundary has completed. -/
def barrierComplete (folio b : Nat) (s : State) : State :=
  match s.folio folio with
  | none => s
  | some f =>
    match f.bars[b]? with
    | none => s
    | some y =>
      if y.settled.isEmpty || (distinct y.settled).length < f.strokes.length + f.away then s
      else
        let s := y.waiters.foldl (fun s w => s.wakeAt w.2 (barrierWord b y.gen)) s
        (s.modFolio folio fun f => { f with bars := listSet f.bars b { gen := y.gen + 1 } }).slewRelease f

def execBarrierGenerationComplete (folio bar : Nat) (s : State) : Host.Outcome State Fault Refusal :=
  .next (barrierComplete folio bar s)

end Sys2Proof.Machine
end

