-- ==== Sys2Proof/Machine/Chains.lean ====
section
/-!
DEFINITION. Machine/Chains.lean: engine chains (R172–R174, R183), reads and writes of engines (R249, R250, R386–R388), completion (R173), and
SEQWAIT, SEQRD and their watchers (R184, R297).
-/
namespace Sys2Proof.Machine

/-! ## Chains -/

/-- The key of a chain: kind, slab, engine, number; tile-task chains are one for each job and slab (R224). -/
def chainKey (kind slab engine chain job : Nat) : Nat :=
  1 + chain + 2048 * engine + 32768 * slab + 1048576 * kind + (if kind == 3 then 16777216 * (job + 1) else 0)

/-- The chain that a chain word names (R174, Table 6-9); none when it is malformed. -/
def chainOf (w job : Nat) : Option Nat :=
  let kind := bits w 31 28
  let slab := bits w 27 24
  let eng := bits w 23 16
  let ch := bits w 9 0
  if w / 2 ^ 32 != 0 || bits w 15 10 != 0 || kind > 3 || slab > 11 || (kind == 2 && slab != 0 && slab != 11) ||
      (if kind == 1 then eng > 7 else eng != 0) || (kind != 0 && ch != 0) then none
  else some (chainKey kind slab eng ch job)

def State.chain (s : State) (c : Nat) : Option Chain := tabFind s.eng.chains c

def State.setChain (s : State) (c : Nat) (x : Chain) : State := s.modEng fun e => { e with chains := tabPut e.chains c x }

/-- The runtime creates a job (R28, R402): at most 4,096 live jobs, numbered 0–4,095. -/
def newJob (job part region prio : Nat) (s : State) : State :=
  if job > 4095 || part > 255 || region > 65535 || prio > 7 || s.eng.jobs.any (·.id == job) then s
  else s.modEng fun e => { e with jobs := e.jobs ++ [{ id := job, part, region, prio }] }

/-- The runtime creates a chain of a job (R28, R172): at most 16 for one job; job 4096 stands for the chains of PART 0 (R410). -/
def newChain (job kind slab engine chain region : Nat) (s : State) : State :=
  let w := kind * 2 ^ 28 + slab * 2 ^ 24 + engine * 2 ^ 16 + chain
  let owner : Option (Nat × Nat) := if job == 4096 then some (0, 0) else (s.eng.jobs.find? (·.id == job)).map fun j => (j.part, j.prio)
  match owner, if w < 2 ^ 32 && slab < 16 && engine < 256 && chain < 1024 then chainOf w job else none with
  | some (part, prio), some c =>
    if (s.chain c).isSome || (job != 4096 && (s.eng.chains.filter fun e => e.2.job == job).length ≥ 16) then s
    else s.setChain c { kind, slab, engine, chain, job, part, region, prio }
  | _, _ => s

def State.modChain (s : State) (c : Nat) (f : Chain → Chain) : State :=
  match s.chain c with
  | some x => s.setChain c (f x)
  | none => s

/-! ## Accesses of engines -/

/-- Outcome of an engine's access. -/
inductive Eng (α : Type) where
  | ok (a : α)
  | fault (code : Nat)
  | absent (region page : Nat)
  deriving DecidableEq, Repr

/-- A translation for an engine (R386). A peer may refuse the access (R413). -/
def State.engAt (s : State) (part priv region off kind : Nat) : Eng Phys :=
  match s.translateEng part priv region (off % 2 ^ 64) kind with
  | .ok p => if p.tier == 3 && !Config.peerServes s.fresh p.pa then .fault 0x66 else .ok p
  | .fault c _ => .fault c
  | .poison _ => .fault trUNCORR
  | .absent => .absent region (off % 2 ^ 64 / 65536)

def Eng.andThen {α β : Type} (e : Eng α) (f : α → Eng β) : Eng β :=
  match e with
  | .ok a => f a
  | .fault c => .fault c
  | .absent r p => .absent r p

/-- Bytes that an engine reads, page by page; an uncorrectable error is a fault (R418). -/
def State.engBytes (s : State) (part priv region : Nat) (rd : Reader) (off : Nat) : Nat → Eng (List Byte)
  | 0 => .ok []
  | n + 1 =>
    match s.engAt part priv region off 1 with
    | .fault c => .fault c
    | .absent r p => .absent r p
    | .ok p =>
      if (s.mem.poisoned p.key 1).isSome then .fault trUNCORR
      else
        match s.engBytes part priv region rd (off + 1) n with
        | .ok l => .ok (s.mem.loadByte rd none p.key :: l)
        | e => e

/-- `n` 64-bit words that an engine reads from an aligned record. -/
def State.engWords (s : State) (part priv region : Nat) (rd : Reader) (off : Nat) : Nat → Eng (List Word)
  | 0 => .ok []
  | n + 1 =>
    match s.engAt part priv region off 1 with
    | .fault c => .fault c
    | .absent r p => .absent r p
    | .ok p =>
      if (s.mem.poisoned p.key 8).isSome then .fault trUNCORR
      else
        match s.engWords part priv region rd (off + 8) n with
        | .ok l => .ok (word (s.mem.engineGet rd p.key 8) :: l)
        | e => e

/-- An engine of a slab has used the page of an address, if it can be reached. -/
def State.touchAt (s : State) (slab part priv region off kind : Nat) : State :=
  match s.engAt part priv region off kind with
  | .ok p => (s.touch slab p).request p.key .read 64 []
  | _ => s

/-- A committed write, by an engine of a chain, of bytes that lie in one page (R250). -/
def State.engWrite (s : State) (x : Chain) (priv region off : Nat) (bs : List Byte) : Eng State :=
  match s.engAt x.part priv region off 2 with
  | .fault c => .fault c
  | .absent r p => .absent r p
  | .ok p => if s.inSc p then .fault trSCRANGE else .ok (((s.touch x.slab p).modMem fun m => m.commitWrite p.key bs).request p.key .write bs.length bs)

/-- An engine reader with no launcher. -/
def freeReader (slab : Nat) : Reader := { who := noStroke, unit := anyEngine, slab := slab, folio := 0 }

/-- The chain waits for a page (R388). -/
def State.chainWait (s : State) (c region page : Nat) : State :=
  match s.chain c with
  | some x => ((s.setChain c { x with waiting := some (region, page) }).countWalk (engineWho x.slab) region (page * 65536)).requestPage x.part region page true x.slab
  | none => s

/-- The chain waits for a page. -/
def State.chainWaits (s : State) (c : Nat) : Bool := (s.chain c).any (·.waiting.isSome)

/-- The privilege at which a chain's accesses are checked: the scheduler's at U, an engine's at its appender's (R386). -/
def Chain.privOf (c : Chain) (priv : Nat) : Nat := if c.kind == 0 then 0 else priv

/-- The reader of an entry (R249). -/
def entryReader (c : Chain) (stroke upto : Nat) : Reader := engineReader c.slab stroke upto

/-! ## Appending (R183) -/

/-- Link an entry to the tail, make it the tail and count it, as one action. -/
def State.append (s : State) (c : Nat) (x : Chain) (addr region priv stroke : Nat) : State :=
  let n := x.appended + 1
  let r : State × List ChainLink := if x.tail == 0 then (s, [])
    else match s.engWrite x priv x.tailRegion x.tail (toBytes addr 8) with
      | .ok s => (s, [])
      | .absent r p => (s.requestPage x.part r p true x.slab, [{ region := x.tailRegion, at_ := x.tail, priv, next := addr }])
      | .fault _ => (s, [])
  r.1.setChain c { x with
    appended := n, tail := addr, tailRegion := region, links := x.links ++ r.2,
    posted := x.posted ++ [{ num := n, addr, region, priv, stroke, upto := s.mem.order }] }

/-- Links to tails on pages that were not present are written once they are (R388). -/
def writeLinks (x : Chain) : List ChainLink → State → List ChainLink × State
  | [], s => ([], s)
  | l :: t, s =>
    match s.engWrite x l.priv l.region l.at_ (toBytes l.next 8) with
    | .absent _ _ => let (r, s) := writeLinks x t s; (l :: r, s)
    | .ok s => writeLinks x t s
    | .fault _ => writeLinks x t s

def chapp (x : Ctx) (g : Args) (s : State) : Fire :=
  let a := g.av.toNat
  if a % 64 != 0 then .trap s trMISALIGN g.av
  else
    match (chainOf g.bv.toNat x.st.decl.job).bind fun c => (s.chain c).map fun y => (c, y) with
    | none => .trap s trCHAINID g.bv
    | some (c, y) =>
      if y.job != x.st.decl.job then .trap s trCHAINID g.bv
      else .value (s.append c y a (x.st.region false) (unitPriv (unitOf x.k)) x.k) (word (y.appended + 1))

def execChapp (t : BitVec 9) (p : BitVec 2) (s : State) : Host.Outcome State Fault Refusal :=
  fire (.chapp t p) (fun x g s => chapp x g s) s

/-! ## Halted and waiting chains (R172, R388) -/

/-- CHAIN_ENTRY_REREAD: a halted chain reads its entry again. -/
def execChainEntryReread (c : Nat) (s : State) : Host.Outcome State Fault Refusal :=
  .next (s.modChain c fun x => { x with halted := false })

/-- ENGINE_PAGE_REWALK: a waiting engine walks its page again; while it is not present the request is renewed. -/
def enginePageRewalk (c : Nat) (s : State) : State :=
  match s.chain c with
  | none => s
  | some x =>
    if x.waiting.isNone && x.links.isEmpty then s
    else
      let (l, s) := writeLinks x x.links s
      s.setChain c { x with waiting := none, links := l }

def execEnginePageRewalk (c : Nat) (s : State) : Host.Outcome State Fault Refusal := .next (enginePageRewalk c s)

/-! ## Completion (R173) -/

/-- The word of an entry that holds CODE in bits 63:56: word 2 of a task, word 1 otherwise. -/
def codeWord (kind : Nat) : Nat := if kind == 0 then 2 else 1

/-- The word that holds the completion sequence address. -/
def seqWord (kind : Nat) : Nat := if kind == 2 then 6 else 5

/-- Table 6-10, word 7: the wake place of an entry. -/
def wakePlace (w : Word) : Option Nat := if bit w.toNat 63 then some (placeOfWord (w.toNat % 2 ^ 18)) else none

/-- Table 6-2: the sequence wake word. -/
def seqWake (n : Nat) : Word := word (0x5E * 2 ^ 56 + n % 2 ^ 48)

/-- An engine writes an entry's CODE (step 1): the entry is finished. A page that is not present is waited for; a write that faults is
not made. -/
def State.finishEntry (s : State) (c : Nat) (x : Chain) (e : ChainEntry) (code : Nat) : State :=
  let done := fun (s : State) => s.modChain c fun y =>
    { y with entries := y.entries.map fun d => if d.num == e.num then { d with finished := true, code } else d }
  match s.engWrite x (x.privOf e.priv) e.region (e.addr + 8 * codeWord x.kind + 7) [BitVec.ofNat 8 code] with
  | .ok s => done s
  | .absent r p => s.chainWait c r p
  | .fault _ => done s

/-- The region of an entry's sequence address: the job's for a task (R167), else that of the entry's REGION field (R378; Tables 6-10, 6-11, 8-8). -/
def Chain.seqRegion (c : Chain) (e : ChainEntry) : Nat :=
  let w := (e.words.getD 1 0).toNat
  if c.kind == 0 then c.region else if c.kind == 3 then bits w 47 32 else bits w 31 16

/-- COMPLETION_WRITE: the lowest entry that is not yet complete stores its number and posts its wake word. At a sequence address that is no multiple of 8,
of a task as of any other entry, nothing is stored and the entry is complete (R173; log entry 34). -/
def completionWrite (c : Nat) (s : State) : State :=
  match s.chain c with
  | none => s
  | some x =>
    match x.entries with
    | [] => s
    | e :: rest =>
      if !e.finished || e.num != x.completed + 1 || x.waiting.isSome then s
      else
        let seq := (e.words.getD (seqWord x.kind) 0).toNat
        let done := fun (s : State) (code : Nat) =>
          let s := s.modChain c fun y =>
            { y with entries := rest, completed := e.num,
                     stopped := y.stopped || (y.kind == 0 && code != 1 && bit (e.words.getD 2 0).toNat 28) }
          match (if x.kind == 0 then none else wakePlace (e.words.getD 7 0)) with
          | some p => s.post (.engine (2 ^ 32 + c)) p (seqWake e.num)
          | none => s
        if seq == 0 || seq % 8 != 0 then done s e.code
        else
          match s.engWrite x (x.privOf e.priv) (x.seqRegion e) seq (toBytes e.num 8) with
          | .ok s => done s e.code
          | .absent r p => s.chainWait c r p
          | .fault _ =>
            -- R387: the entry completes with FAULT after all
            match s.engWrite x (x.privOf e.priv) e.region (e.addr + 8 * codeWord x.kind + 7) [6] with
            | .ok s => done s 6
            | .absent r p => s.chainWait c r p
            | .fault _ => done s 6

def execCompletionWrite (c : Nat) (s : State) : Host.Outcome State Fault Refusal := .next (completionWrite c s)

/-! ## Taking up an entry (R172) -/

/-- The job of a chain is being torn down (R170). -/
def State.jobKilled (s : State) (job : Nat) : Bool := s.eng.jobs.any fun j => j.id == job && j.killed

/-- What reading the head of a chain gives. -/
inductive Take where
  | nothing
  | wait (s : State)
  | entry (s : State) (x : Chain) (e : ChainEntry)

/-- The engine reads the head entry of a chain: it halts at one it cannot read and waits for a page. -/
def State.takeHead (s : State) (c : Nat) (x : Chain) : Take :=
  match x.posted with
  | [] => .nothing
  | p :: rest =>
    if x.halted || (x.stopped && !s.jobKilled x.job) || x.waiting.isSome then .nothing
    else
      match s.engWords x.part (x.privOf p.priv) p.region (entryReader x p.stroke p.upto) p.addr 8 with
      | .fault _ => .wait (s.setChain c { x with halted := true })
      | .absent r q => .wait (s.chainWait c r q)
      | .ok ws =>
        let e : ChainEntry :=
          { num := p.num, addr := p.addr, region := p.region, priv := p.priv, stroke := p.stroke, upto := p.upto, words := ws }
        let x := { x with posted := rest, entries := x.entries ++ [e] }
        .entry ((s.touchAt x.slab x.part (x.privOf p.priv) p.region p.addr 1).setChain c x) x e

/-- Replace the entry of that number. -/
def State.setEntry (s : State) (c : Nat) (e : ChainEntry) : State :=
  s.modChain c fun y => { y with entries := y.entries.map fun d => if d.num == e.num then e else d }

/-! ## SEQWAIT and SEQRD (R184) -/

/-- The committed value of the sequence word at an address: what has reached its home (R184). -/
def seqAt (x : Ctx) (a : Nat) (s : State) : Acc (Nat × Nat) :=
  match s.locateVa x.k x.stale false a 1 with
  | (.mem p, s) =>
    match s.readTrap p.key 8 with
    | some f => .bad f
    | none => .ok (p.key, ofBytes (s.mem.bytes p.key 8)) (s.request p.key .read 8 [])
  | (l, s) => .bad ((failLoc s l).getD (.hold s))

/-- Watchers of a slab in use. -/
def State.watchersOf (s : State) (slab : Nat) : Nat :=
  (s.eng.watchers.filter fun w => w.slab == slab && !w.overflow).length

/-- Arm a watcher; it goes to the overflow list when the slab's 4,096 are taken. -/
def State.arm (s : State) (w : Watcher) : State :=
  s.modEng fun e => { e with watchers := e.watchers ++ [{ w with overflow := s.watchersOf w.slab ≥ 4096 }] }

def seqwait (ch : Nat) (x : Ctx) (g : Args) (s : State) : Fire :=
  let a := g.av.toNat
  if a % 8 != 0 then .trap s trMISALIGN g.av
  else if ch ≥ x.st.decl.chans then .trap s trCHANIDX (word ch)
  else
    match seqAt x a s with
    | .bad f => f
    | .ok (key, v) s =>
      if v ≥ g.bv.toNat then .value s 1
      else .value (s.arm { stroke := x.k, place := unitOf x.k * 64 + x.st.decl.chbase + ch, key := some key, slab := slabOf (unitOf x.k), value := g.bv }) 0

def execSeqwait (t : BitVec 9) (p : BitVec 2) (c : BitVec 5) (s : State) : Host.Outcome State Fault Refusal :=
  fire (.seqwait t p c) (fun x g s => seqwait c.toNat x g s) s

def execSeqrd (t : BitVec 9) (p : BitVec 2) (s : State) : Host.Outcome State Fault Refusal :=
  fire (.seqrd t p) (fun x g s =>
    if g.av.toNat % 8 != 0 then .trap s trMISALIGN g.av
    else match seqAt x g.av.toNat s with
      | .bad f => f
      | .ok (_, v) s => .value s (word v)) s

/-! ## Watchers -/

/-- The wake word of a watcher (Tables 6-2, 11-5). -/
def State.watchWord (s : State) (w : Watcher) : Word :=
  match w.key with
  | some _ => seqWake w.value.toNat
  | none => word (0xC0 * 2 ^ 56 + w.obj * 2 ^ 46 + s.applied w.obj w.slab % 2 ^ 46)

/-- SEQ_WATCHER_WAKE: watcher `n` finds its value reached. -/
def seqWatcherWake (n : Nat) (s : State) : State :=
  match s.eng.watchers[n]? with
  | none => s
  | some w =>
    if w.overflow || !(w.latched || s.reached w) then s
    else (s.modEng fun e => { e with watchers := listDrop e.watchers n }).wakeAt w.place (s.watchWord w)

def execSeqWatcherWake (n : Nat) (s : State) : Host.Outcome State Fault Refusal := .next (seqWatcherWake n s)

/-- SEQ_OVERFLOW_SCAN: the scheduler of a slab reads its overflow list again. -/
def seqOverflowScan (slab : Nat) (s : State) : State :=
  let hit : Watcher → Bool := fun w => w.overflow && w.slab == slab && (w.latched || s.reached w)
  let due := s.eng.watchers.filter hit
  due.foldl (fun s w => s.wakeAt w.place (s.watchWord w))
    (s.modEng fun e => { e with watchers := e.watchers.filter (!hit ·) })

def execSeqOverflowScan (slab : Nat) (s : State) : Host.Outcome State Fault Refusal := .next (seqOverflowScan slab s)

end Sys2Proof.Machine
end

