-- ==== Sys2Proof/Machine/Lane.lean ====
section
/-!
DEFINITION. Machine/Lane.lean: the lane pipe: configuration words, runs, stage operations, softmax and normalisation, flags and completion
(R187–R204).
-/
namespace Sys2Proof.Machine

/-! ## Stages (R189–R194) -/

/-- Stage field `s` of a configuration word. -/
def stageField (c s : Nat) : Nat := bits c (10 * s + 9) (10 * s)
def stageOp (f : Nat) : Nat := bits f 9 5
def stageBsrc (f : Nat) : Nat := bits f 4 3
def stageKsel (f : Nat) : Nat := bits f 2 0

/-- The operation takes an operand b. -/
def takesB (op : Nat) : Bool := (1 ≤ op && op ≤ 6) || op == 0x17

/-- The field breaks Table 7-3. -/
def stageBad (f : Nat) : Bool :=
  let op := stageOp f
  let b := stageBsrc f
  let k := stageKsel f
  op ≥ 0x18 || (b != 0) != takesB op ||
    (match op with
     | 0x04 => false
     | 0x0F => false
     | 0x10 => !(1 ≤ k && k ≤ 4)
     | 0x14 => k ≥ 4
     | _ => b != 1 && k != 0)

/-- How a run rounds (Table 2-4). -/
structure LaneMode where
  rm : Round
  rmBits : Nat
  sf : Bool
  fi : Bool
  fo : Bool

/-- The modifier a run keeps: RM in bits 1:0, SF 2, FI 3, FO 4. -/
def laneMode (m : Nat) : LaneMode :=
  { rm := Round.ofBits (m % 4), rmBits := m % 4, sf := bit m 2, fi := bit m 3, fo := bit m 4 }

def sign32 : Nat := 2 ^ 31

/-- One lane's result of an operation without lane links: a, b, c are FP32 codes. -/
def laneOp (m : LaneMode) (op ksel a b c : Nat) : Flagged Nat :=
  let v := operand .f32 m.fi
  match op with
  | 0x01 => fpSum .f32 m.rm m.fo [] [v a, v b]
  | 0x02 => fpSum .f32 m.rm m.fo [] [v a, (v b).negate]
  | 0x03 => fpMul .f32 m.rm m.fo (v a) (v b)
  | 0x04 => fpSum .f32 m.rm m.fo [(v a, v b)] [v c]
  | 0x05 => fpMinMax false false m.fi m.fo a b
  | 0x06 => fpMinMax true false m.fi m.fo a b
  | 0x07 => (a % sign32, 0)
  | 0x08 => (a ^^^ sign32, 0)
  | 0x09 => fpFunction 0 m.rmBits m.fi m.fo a
  | 0x0A => fpFunction 1 m.rmBits m.fi m.fo a
  | 0x0B => fpFunction 2 m.rmBits m.fi m.fo a
  | 0x0C => fpFunction 3 m.rmBits m.fi m.fo a
  | 0x0D => fpFunction 4 m.rmBits m.fi m.fo a
  | 0x0E => fpFunction 5 m.rmBits m.fi m.fo a
  | 0x0F =>
    let lo := fpMinMax true true m.fi false a b
    let hi := fpMinMax false true m.fi m.fo lo.1 c
    (hi.1, lo.2 ||| hi.2)
  | 0x10 =>
    match Fmt.ofCode ksel with
    | some f =>
      let r := fpConvert .f32 f m.rm m.fi m.fo a
      (widen f r.1.toNat, r.2)
    | none => (a, 0)
  | 0x17 =>
    let x := v a
    let y := v b
    if x.isNan || y.isNan then (0, flagNV) else (if cmpNum x y > 0 then 0x3F800000 else 0, 0)
  | _ => (a, 0)

/-- head(i): the highest lane at or below `i` whose head flag is set. -/
def headOf (heads : Nat) : Nat → Option Nat
  | 0 => if bit heads 0 then some 0 else none
  | i + 1 => if bit heads (i + 1) then some (i + 1) else headOf heads i

/-- Lanes of the segment of lane `i`. -/
def segmentOf (heads i : Nat) : List Nat :=
  let lo := (headOf heads i).getD 0
  (span lo (16 - lo)).filter fun j => (headOf heads j).getD 0 == lo

/-- The maximum of codes, number policy. -/
def maxOf (fi fo : Bool) (l : List Nat) : Flagged Nat :=
  if l.any fun c => (decodeNum .f32 c).isSig then (Fmt.nan .f32, flagNV)
  else
    let r := l.foldl (fun acc c => (fpMinMax true false fi false acc c).1) (Fmt.nan .f32)
    if fo && isSubnormal .f32 r then fpMinMax true false false true r r else (r, 0)

/-- A stage over a beat: `a` its inputs, `cy` its carry, `bn` the Beneš sets, `kc` the constants. -/
def laneStage (m : LaneMode) (f heads cy : Nat) (kc bn x y a : List Nat) : List (Flagged Nat) × Nat :=
  let op := stageOp f
  let k := stageKsel f
  let at_ := fun (l : List Nat) i => l.getD i 0
  let v := fun i => operand .f32 m.fi (at_ a i)
  let out : List (Flagged Nat) := (span 0 16).map fun i =>
    match op with
    | 0x11 =>
      match headOf heads i with
      | some j => fpSum .f32 m.rm m.fo [] ((span j (i + 1 - j)).map v)
      | none => fpSum .f32 m.rm m.fo [] (decodeNum .f32 cy :: (span 0 (i + 1)).map v)
    | 0x12 => fpSum .f32 m.rm m.fo [] ((segmentOf heads i).map v)
    | 0x13 => maxOf m.fi m.fo ((segmentOf heads i).map (at_ a))
    | 0x14 => (at_ (benes a (at_ bn k)) i, 0)
    | 0x15 => (if i == 0 then cy else at_ a (i - 1), 0)
    | 0x16 => (match headOf heads i with
      | some j => at_ a j
      | none => cy, 0)
    | _ =>
      let b := match stageBsrc f with
        | 1 => at_ kc k
        | 2 => at_ y i
        | 3 => at_ x i
        | _ => at_ kc k
      let c := if op == 0x04 && stageBsrc f != 1 then at_ kc k else at_ kc ((k + 1) % 8)
      laneOp m op k (at_ a i) b c
  (out, if op == 0x15 then at_ a 15 else (out.getD 15 (0, 0)).1)

/-! ## A run (R190, R192, R195, R196) -/

/-- A beat as it enters: X, Y and the head flags. -/
structure Beat where
  x : List Nat
  y : List Nat
  heads : Nat
  deriving DecidableEq, Repr

/-- What a run accumulates: a carry for each stage, and the flags of each lane. -/
structure RunAcc where
  cy : List Nat := List.replicate 6 0
  flags : List (BitVec 5) := List.replicate 16 0
  deriving DecidableEq, Repr

def RunAcc.raise (r : RunAcc) (l : List Flags) : RunAcc := { r with flags := List.zipWith (· ||| ·) r.flags l }

/-- Flags of the statistics path go to lane 0. -/
def RunAcc.stat (r : RunAcc) (f : Flags) : RunAcc := r.raise (f :: List.replicate 15 0)

/-- Stages `s`, `s + 1`, …, `n` of them, over one beat. -/
def runStages (m : LaneMode) (c : Nat) (kc bn : List Nat) (b : Beat) (s : Nat) : Nat → List Nat → RunAcc → List Nat × RunAcc
  | 0, a, r => (a, r)
  | n + 1, a, r =>
    let (out, cy) := laneStage m (stageField c s) b.heads (r.cy.getD s 0) kc bn b.x b.y a
    let r : RunAcc := { r with cy := listSet r.cy s cy }
    runStages m c kc bn b (s + 1) n (out.map (·.1)) (r.raise (out.map (·.2)))

/-- The values that the scaling stage gives for one row, and the flags of the statistics path. `k7` is the stabilising constant. -/
def laneRow (nrm k7 : Nat) (z : List Nat) : List Nat × Flags :=
  let num := decodeNum .f32
  let vs := z.map num
  let len := z.length
  let divided : Num → Num := fun x => match x with
    | .fin n a b => .fin n a (b * len)
    | x => x
  let pack := fun (l : List (Flagged Nat)) (f : Flags) => (l.map (fun (r : Flagged Nat) => r.1), l.foldl (fun acc (r : Flagged Nat) => acc ||| r.2) f)
  match nrm with
  | 1 =>
    let (mx, _) := maxOf false false z
    if vs.any Num.isNan || mx == infCode .f32 then (z.map fun _ => Fmt.nan .f32, flagNV)
    else if mx == sign32 + infCode .f32 then (z.map fun _ => 0, 0)
    else
      let (u, f1) := pack (vs.map fun (x : Num) =>
        let d := fpSum .f32 .rne false [] [x, (num mx).negate]
        let e := fpFunction 2 0 false false d.1
        (e.1, d.2 ||| e.2)) 0
      let sm := fpSum .f32 .rne false [] (u.map num)
      let r := fpFunction 0 0 false false sm.1
      pack (u.map fun (x : Nat) => fpMul .f32 .rne false (num x) (num r.1)) (f1 ||| sm.2 ||| r.2)
  | 2 =>
    let sq : List (Num × Bool) := vs.map fun x => mulNum x x
    let (t, f1) := sumNum .rne (sq.map (fun p => divided p.1) ++ [num k7])
    let v := roundNum .f32 .rne false t
    let r := fpFunction 1 0 false false v.1
    pack (vs.map fun (x : Num) => fpMul .f32 .rne false x (num r.1)) (f1 ||| v.2 ||| r.2 ||| flagIf (vs.any Num.isSig) flagNV)
  | _ =>
    let (t, f0) := sumNum .rne (vs.map divided)
    let mu := roundNum .f32 .rne false t
    let ds := vs.map fun x => sumNum .rne [x, (num mu.1).negate]
    let fd := ds.foldl (fun acc d => acc ||| d.2) 0
    let (q, f1) := sumNum .rne (ds.map (fun d => divided (mulNum d.1 d.1).1) ++ [num k7])
    let v := roundNum .f32 .rne false q
    let r := fpFunction 1 0 false false v.1
    pack (ds.map fun (d : Num × Flags) => fpMul .f32 .rne false d.1 (num r.1)) (f0 ||| mu.2 ||| fd ||| f1 ||| v.2 ||| r.2)

/-- The output conversion of R192. -/
def laneOut (m : LaneMode) (f : Fmt) (v : Nat) : Flagged Nat :=
  let x := decodeNum .f32 v
  if x.isNan then (if f == .f32 then (v, 0) else (f.nan, flagIf x.isSig flagNV)) else roundNum f m.rm m.fo x

/-- Rows of a run from beat `b` on, `rows` of them with `per` beats each; the output beats are added to `acc`. `rd` reads a row's beats, given
the beats written before. -/
def runRows (m : LaneMode) (c : Nat) (kc bn : List Nat) (of : Fmt) (per : Nat)
    (rd : Nat → List (List Nat) → List Beat × List (BitVec 5)) :
    Nat → Nat → RunAcc → List (List Nat) → List (List Nat) × RunAcc
  | 0, _, r, acc => (acc, r)
  | rows + 1, b, r, acc =>
    let (row, fl) := rd b acc
    let r := r.raise fl
    let nrm := bits c 62 61
    let (zs, r) := row.foldl (fun (p : List (List Nat) × RunAcc) b =>
      let (z, r) := runStages m c kc bn b 0 2 b.x p.2
      (p.1 ++ [z], r)) ([], r)
    let (ys, r) := if nrm == 0 then (zs.flatten, r)
      else
        let (y, f) := laneRow nrm (kc.getD 7 0) zs.flatten
        (y, r.stat f)
    let (outs, r, _) := row.foldl (fun (p : List (List Nat) × RunAcc × List Nat) b =>
      let (w, r) := runStages m c kc bn b 2 4 (p.2.2.take 16) p.2.1
      let o := w.map (laneOut m of)
      (p.1 ++ [o.map (·.1)], r.raise (o.map (·.2)), p.2.2.drop 16)) ([], r, ys)
    runRows m c kc bn of per rd rows (b + per) r (acc ++ outs)

/-! ## The run descriptor (Table 7-1) -/

def laneFmt (c : Nat) : Fmt := match c with
  | 0 => .f32
  | 1 => .f16
  | _ => .bf16

def descWord (d : List Word) (i : Nat) : Nat := (d.getD i 0).toNat
def descX (d : List Word) : Nat := bits (descWord d 0) 20 0
def descY (d : List Word) : Nat := bits (descWord d 0) 52 32
def descD (d : List Word) : Nat := bits (descWord d 1) 20 0
def descH (d : List Word) : Nat := bits (descWord d 1) 52 32
def descIn (d : List Word) : Nat := bits (descWord d 2) 25 24
def descOut (d : List Word) : Nat := bits (descWord d 2) 27 26
def descRow (d : List Word) : Nat := bits (descWord d 2) 23 16 + 1
def descBeats (d : List Word) : Nat := bits (descWord d 2) 15 0 + 1
def descKs (d : List Word) : List Nat := (span 0 8).map fun j => descWord d (3 + j / 2) / 2 ^ (32 * (j % 2)) % 2 ^ 32

/-- Bytes of a beat in a format code. -/
def beatBytes (fmt : Nat) : Nat := if fmt == 0 then 64 else 32

/-- The first word of a descriptor that breaks Table 7-1 or R195. -/
def descBad (d : List Word) (c chans : Nat) : Option Nat :=
  let w := descWord d
  if bits (w 0) 63 53 != 0 || bits (w 0) 31 21 != 0 then some 0
  else if bits (w 1) 63 53 != 0 || bits (w 1) 31 21 != 0 then some 1
  else if w 2 / 2 ^ 28 != 0 || descIn d == 3 || descOut d == 3 || (descRow d != 1 && bits c 62 61 == 0) || descBeats d % descRow d != 0 then some 2
  else if bits (w 7) 62 6 != 0 || bits (w 7) 5 0 ≥ chans then some 7
  else none

def usesY (c : Nat) : Bool := (span 0 6).any fun s => stageBsrc (stageField c s) == 2
def usesPerm (c : Nat) : Bool := (span 0 6).any fun s => stageOp (stageField c s) == 0x14
def usesHeads (c : Nat) : Bool := bit c 60

/-- The streams of a run: offset, alignment, bytes per beat, in the order of R200. -/
def descStreams (d : List Word) (c : Nat) : List (Nat × Nat × Nat) :=
  [(descX d, 16, beatBytes (descIn d))] ++ (if usesY c then [(descY d, 16, beatBytes (descIn d))] else []) ++
    (if usesHeads c then [(descH d, 2, 2)] else []) ++ [(descD d, 16, beatBytes (descOut d))]

/-- The trap of the first stream that is misaligned or leaves the window. -/
def streamBad (beats wsize : Nat) : List (Nat × Nat × Nat) → Option (Nat × Word)
  | [] => none
  | (o, al, n) :: t =>
    if o % al != 0 then some (trMISALIGN, word o)
    else if o + beats * n > wsize then some (trSPADWIN, word o)
    else streamBad beats wsize t

/-! ## LCFG, LRUN, LWAIT, LSTAT (R199, R200, R202, R203) -/

def lcfg (n : Nat) (x : Ctx) (g : Args) (s : State) : Fire :=
  let a := g.av.toNat
  if bit a 63 then .trap s trLCFGBAD 6
  else
    match (span 0 6).find? fun i => stageBad (stageField a i) with
    | some i => .trap s trLCFGBAD (word i)
    | none => .value (s.modUnit (unitOf x.k) fun u => { u with lane := { u.lane with lc := listSet u.lane.lc n g.av } }) 0

def execLcfg (t : BitVec 9) (n : BitVec 3) (p : BitVec 2) (s : State) : Host.Outcome State Fault Refusal :=
  fire (.lcfg t n p) (fun x g s => lcfg n.toNat x g s) s

/-- LRUN. One that waits for a full queue has not been performed: it reads its descriptor, lc and bn at each try, and queues what it finds as there is room
(log entry 80). -/
def lrun (n modifier : Nat) (x : Ctx) (g : Args) (s : State) : Fire :=
  let a := g.av.toNat
  if a % 64 != 0 then .trap s trMISALIGN g.av
  else if a + 64 > x.st.decl.wsize then .trap s trSPADWIN g.av
  else
    let base := spadKey (unitOf x.k) (x.st.decl.wbase + a)
    match s.readTrap base 64 with
    | some f => f
    | none =>
      let (d, s') := s.windowWords x.k base 8
      let p := (s.unit (unitOf x.k)).lane
      let c := (p.lc.getD n 0).toNat
      match descBad d c x.st.decl.chans with
      | some i => .trap s trRUNDESC (word i)
      | none =>
        match streamBad (descBeats d) x.st.decl.wsize (descStreams d c) with
        | some (code, v) => .trap s code v
        | none =>
          if p.queue.length ≥ 4 then .hold s
          else
            let r : LaneRun :=
              { ticket := (p.runseq + 1).toNat, stroke := x.k, serial := x.ins.serial, round := s.rounds.issued, desc := d, config := word c, bn := if usesPerm c then p.bn else [],
                modifier, wbase := x.st.decl.wbase, wsize := x.st.decl.wsize, upto := s.mem.order, bnd := x.st.bnd }
            .value (s'.modUnit (unitOf x.k) fun u =>
              { u with lane := { u.lane with runseq := p.runseq + 1, queue := u.lane.queue ++ [r] } }) (p.runseq + 1)

def execLrun (t : BitVec 9) (n : BitVec 3) (p : BitVec 2) (sp imm o : BitVec 1) (r : BitVec 2) (s : State) :
    Host.Outcome State Fault Refusal :=
  fire (.lrun t n p sp imm o r) (fun x g s => lrun n.toNat (r.toNat + 4 * sp.toNat + 8 * imm.toNat + 16 * o.toNat) x g s) s

def execLwait (t : BitVec 9) (p : BitVec 2) (y : BitVec 1) (s : State) : Host.Outcome State Fault Refusal :=
  fire (.lwait t p y) (fun x g s =>
    if (s.unit (unitOf x.k)).lane.completed.toNat ≥ g.av.toNat then .value s g.av
    else if y == 1 then .result s none
    else .hold s) s

/-- The status word of a selector. -/
def LanePipe.status (p : LanePipe) (sel : Nat) : Word :=
  match sel with
  | 0 => p.lflags0
  | 1 => p.lflags1
  | 2 => p.completed
  | _ => word p.queue.length

/-- Clear bits of a word of LFLAGS. -/
def LanePipe.clear (p : LanePipe) (sel : Nat) (a : Word) : LanePipe :=
  match sel with
  | 0 => { p with lflags0 := p.lflags0 &&& ~~~a }
  | 1 => { p with lflags1 := p.lflags1 &&& ~~~a }
  | _ => p

def execLstat (t : BitVec 9) (p : BitVec 2) (c : BitVec 1) (e : BitVec 2) (s : State) : Host.Outcome State Fault Refusal :=
  fire (.lstat t p c e) (fun x g s =>
    let v := (s.unit (unitOf x.k)).lane.status e.toNat
    .value (if c == 1 then s.modUnit (unitOf x.k) fun u => { u with lane := u.lane.clear e.toNat g.av } else s) v) s

/-! ## A run's start and completion (R201, R204) -/

/-- The reader that a run is. -/
def laneReader (u : Nat) (r : LaneRun) : Reader := { who := r.stroke, unit := u, slab := slabOf u, folio := 0, upto := some r.upto }

/-- The beats a run has written so far, and the number of the first of its open reads. -/
structure LaneWritten where
  beats : List (List Nat) := []
  turn : Nat := 0
  deriving DecidableEq, Repr

/-- D and X have one offset and one beat size: each beat is read before it is written (R201). -/
def LaneRun.inPlace (r : LaneRun) : Bool :=
  descD r.desc == descX r.desc && beatBytes (descIn r.desc) == beatBytes (descOut r.desc)

/-- R201: a read of `n` bytes at window offset `off` that the run has written already finds the value before, `v`, or the value written: which
is open. `idx` numbers the reads of a run. -/
def LaneRun.finds (r : LaneRun) (w : LaneWritten) (idx off n v : Nat) : Nat :=
  let d := descD r.desc
  let size := beatBytes (descOut r.desc)
  if d ≤ off && off < d + size * w.beats.length && Config.freeBool (w.turn + idx) then
    ofBytes ((((w.beats.getD ((off - d) / size) []).flatMap (toBytes · (size / 16))).drop ((off - d) % size)).take n)
  else v

/-- An element of X or Y widened to FP32: a poisoned one is the default NaN, and so is a signalling NaN, with NV (R190, R201). `idx` numbers
an open read; none is read before the run writes it. -/
def State.laneElem (s : State) (u : Nat) (r : LaneRun) (w : LaneWritten) (idx : Option Nat) (fmt off : Nat) : Flagged Nat :=
  let key := spadKey u (r.wbase + off)
  let n := if fmt == 0 then 4 else 2
  if (s.mem.poisoned key n).isSome then (Fmt.nan .f32, 0)
  else
    let old := s.mem.engineGet (laneReader u r) key n
    let v := widen (laneFmt fmt) (match idx with
      | some i => r.finds w i off n old
      | none => old)
    if (decodeNum .f32 v).isSig then (Fmt.nan .f32, flagNV) else (v, 0)

/-- Beat `b` of stream X (`y` false) or Y. -/
def State.laneBeat (s : State) (u : Nat) (r : LaneRun) (w : LaneWritten) (y : Bool) (b : Nat) : List (Flagged Nat) :=
  let fmt := descIn r.desc
  let n := beatBytes fmt
  let off := if y then descY r.desc else descX r.desc
  (span 0 16).map fun i =>
    s.laneElem u r w (if !y && r.inPlace then none else some (48 * b + (if y then 16 else 0) + i)) fmt (off + b * n + i * (n / 16))

/-- Beats `b`, `b + 1`, …, `n` of them, as they are read after the beats of `w` have been written, with the flags that reading raised in each
lane. The head-flag word of a beat is read as its bytes stand, with an uncorrectable error too (R201; log entry 63). -/
def State.laneBeats (s : State) (u : Nat) (r : LaneRun) (w : LaneWritten) (b : Nat) : Nat → List Beat × List (BitVec 5)
  | 0 => ([], List.replicate 16 0)
  | n + 1 =>
    let c := r.config.toNat
    let x := s.laneBeat u r w false b
    let y := if usesY c then s.laneBeat u r w true b else []
    let heads := if usesHeads c then
        let off := descH r.desc + 2 * b
        r.finds w (48 * b + 32) off 2 (s.mem.engineGet (laneReader u r) (spadKey u (r.wbase + off)) 2)
      else 0
    let (rest, fl) := s.laneBeats u r w (b + 1) n
    let f1 := List.zipWith (· ||| ·) fl (x.map (·.2))
    let f2 := if y.isEmpty then f1 else List.zipWith (· ||| ·) f1 (y.map (·.2))
    ({ x := x.map (·.1), y := y.map (·.1), heads } :: rest, f2)

/-- The run whole: its output beats and what it has raised. -/
def State.laneRun (s : State) (u : Nat) (r : LaneRun) : List (List Nat) × RunAcc :=
  let c := r.config.toNat
  let per := if bits c 62 61 == 0 then 1 else descRow r.desc
  runRows (laneMode r.modifier) c (descKs r.desc) (r.bn.map (·.toNat)) (laneFmt (descOut r.desc)) per
    (fun b out => s.laneBeats u r { beats := out, turn := s.fresh } b per) (descBeats r.desc / per) 0 {} []

/-- LANE_RUN_START: the head of the queue reads its streams. -/
def laneRunStart (u : Nat) (s : State) : State :=
  match (s.unit u).lane.queue with
  | [] => s
  | r :: rest =>
    if r.started then s
    else
      let (out, acc) := s.laneRun u r
      let q := { r with
        started := true, beats := out.map (·.map word),
        flags := if (laneMode r.modifier).sf then List.replicate 16 0 else acc.flags }
      { s.modUnit u (fun x => { x with lane := { x.lane with queue := q :: rest } }) with fresh := s.fresh + 48 * descBeats r.desc }

def execLaneRunStart (u : Nat) (s : State) : Host.Outcome State Fault Refusal := .next (laneRunStart u s)

/-- Beats written in ascending order, each granule with its full bit. -/
def Memory.writeBeats (m : Memory) (u off n : Nat) : List (List Word) → Memory
  | [] => m
  | b :: t =>
    let bs := b.flatMap fun v => toBytes v.toNat (n / 16)
    ((m.localWrite u (spadKey u off) bs).setFulls (spadKey u off) true (n / 16)).writeBeats u (off + n) n t

/-- Flags of lanes 0–11, or 12–15, as a word of LFLAGS. -/
def lflagsWord (l : List (BitVec 5)) : Nat := l.foldr (fun f acc => f.toNat + 32 * acc) 0

/-- LANE_RUN_COMPLETE: the run's beats and flags are written, its ticket is counted, its wake word is posted. -/
def laneRunComplete (u : Nat) (s : State) : State :=
  match (s.unit u).lane.queue with
  | [] => s
  | r :: rest =>
    let size := beatBytes (descOut r.desc)
    if !r.started || s.heldFrom r.stroke r.bnd (spadKey u (r.wbase + descD r.desc)) (size * r.beats.length) then s
    else
      let s := s.modMem fun m => m.writeBeats u (r.wbase + descD r.desc) size r.beats
      let s := s.modUnit u fun x =>
        ({ x with lane := { x.lane with
            queue := rest, completed := word r.ticket,
            lflags0 := x.lane.lflags0 ||| word (lflagsWord (r.flags.take 12)),
            lflags1 := x.lane.lflags1 ||| word (lflagsWord (r.flags.drop 12)) } } : UnitSt).releaseWindows
      let w := descWord r.desc 7
      -- a wake for a stroke that has ended is discarded, though its residency slot may be another's now (R204)
      let same := (s.stroke r.stroke).any fun t => t.run.serial / 2 ^ 64 == r.serial / 2 ^ 64
      if bit w 63 && same then s.wake r.stroke (bits w 5 0) (word (0x1A * 2 ^ 56 + r.ticket % 2 ^ 56)) else s

def execLaneRunComplete (u : Nat) (s : State) : Host.Outcome State Fault Refusal := .next (laneRunComplete u s)

end Sys2Proof.Machine
end

