-- ==== Sys2Proof/Machine/Aes.lean ====
section
/-!
DEFINITION. Machine/Aes.lean: AES-256 and its XTS mode, which copy entries with OP DECRYPT use (R175, R415).
-/
namespace Sys2Proof.Machine

/-! ## The field of 256 elements -/

/-- Twice `a`. -/
def gfTwice (a : Nat) : Nat := if a ≥ 128 then (a * 2 - 256) ^^^ 0x1B else a * 2

def gfMulBits (a b : Nat) : Nat → Nat
  | 0 => 0
  | n + 1 => (if b % 2 == 1 then a else 0) ^^^ gfMulBits (gfTwice a) (b / 2) n

def gfMul (a b : Nat) : Nat := gfMulBits a b 8

/-- `a` to the power 254: its inverse, and 0 for 0. -/
def gfInv (a : Nat) : Nat :=
  let a2 := gfMul a a
  let a4 := gfMul a2 a2
  let a8 := gfMul a4 a4
  let a16 := gfMul a8 a8
  let a32 := gfMul a16 a16
  let a64 := gfMul a32 a32
  let a128 := gfMul a64 a64
  gfMul a128 (gfMul a64 (gfMul a32 (gfMul a16 (gfMul a8 (gfMul a4 a2)))))

def rotByte (x n : Nat) : Nat := x * 2 ^ n % 256 + x / 2 ^ (8 - n)

def aesSub (x : Nat) : Nat :=
  let i := gfInv x
  i ^^^ rotByte i 1 ^^^ rotByte i 2 ^^^ rotByte i 3 ^^^ rotByte i 4 ^^^ 0x63

def aesUnsub (y : Nat) : Nat := gfInv (rotByte y 1 ^^^ rotByte y 3 ^^^ rotByte y 6 ^^^ 5)

/-! ## AES-256 on blocks of 16 bytes -/

def xorBytes (a b : List Nat) : List Nat := List.zipWith (· ^^^ ·) a b

/-- The round constant of key word `8 * n`. -/
def aesRcon : Nat → Nat
  | 0 => 0
  | 1 => 1
  | n + 1 => gfTwice (aesRcon n)

/-- Key words from `i` on, `n` of them, after the words `w`. -/
def aesKeysFrom (i : Nat) (w : List (List Nat)) : Nat → List (List Nat)
  | 0 => w
  | n + 1 =>
    let t := w.getD (i - 1) []
    let t := if i % 8 == 0 then xorBytes ((t.drop 1 ++ t.take 1).map aesSub) [aesRcon (i / 8), 0, 0, 0]
      else if i % 8 == 4 then t.map aesSub
      else t
    aesKeysFrom (i + 1) (w ++ [xorBytes (w.getD (i - 8) []) t]) n

/-- The 60 key words of a key of 32 bytes. -/
def aesKeys (key : List Nat) : List (List Nat) :=
  aesKeysFrom 8 ((span 0 8).map fun i => (key.drop (4 * i)).take 4) 52

def aesAddKey (ks : List (List Nat)) (round : Nat) (b : List Nat) : List Nat :=
  xorBytes b ((ks.drop (4 * round)).take 4).flatten

/-- Byte `r` of column `c` comes from column `c + d r`. -/
def aesRows (d : Nat → Nat) (b : List Nat) : List Nat :=
  (span 0 16).map fun i => b.getD ((i / 4 + d (i % 4)) % 4 * 4 + i % 4) 0

/-- Each column times a circulant matrix whose first row is `m`. -/
def aesColumns (m : List Nat) (b : List Nat) : List Nat :=
  (span 0 16).map fun i =>
    let c := i / 4 * 4
    let r := i % 4
    (span 0 4).foldl (fun acc j => acc ^^^ gfMul (m.getD ((j + 4 - r) % 4) 0) (b.getD (c + j) 0)) 0

def aesRounds (ks : List (List Nat)) (r : Nat) (b : List Nat) : Nat → List Nat
  | 0 => aesAddKey ks r (aesRows (fun r => r) (b.map aesSub))
  | n + 1 => aesRounds ks (r + 1) (aesAddKey ks r (aesColumns [2, 3, 1, 1] (aesRows (fun r => r) (b.map aesSub)))) n

def aesEncrypt (key b : List Nat) : List Nat :=
  let ks := aesKeys key
  aesRounds ks 1 (aesAddKey ks 0 b) 13

def aesUnrounds (ks : List (List Nat)) (b : List Nat) : Nat → List Nat
  | 0 => aesAddKey ks 0 ((aesRows (fun r => 4 - r) b).map aesUnsub)
  | n + 1 =>
    aesUnrounds ks (aesColumns [14, 11, 13, 9] (aesAddKey ks (n + 1) ((aesRows (fun r => 4 - r) b).map aesUnsub))) n

def aesDecrypt (key b : List Nat) : List Nat :=
  let ks := aesKeys key
  aesUnrounds ks (aesAddKey ks 14 b) 13

/-! ## XTS (R415) -/

def natBytes (v : Nat) : Nat → List Nat
  | 0 => []
  | n + 1 => v % 256 :: natBytes (v / 256) n

def ofNatBytes : List Nat → Nat
  | [] => 0
  | b :: t => b + 256 * ofNatBytes t

/-- A tweak times α, `n` times. -/
def xtsTweak (t : Nat) : Nat → Nat
  | 0 => t
  | n + 1 => xtsTweak (if t ≥ 2 ^ 127 then (2 * t - 2 ^ 128) ^^^ 0x87 else 2 * t) n

/-- Decrypt block `j` of the data unit `unit` under a key pair, key 1 first; all values little-endian. -/
def xtsDecrypt (key1 key2 unit j block : Nat) : Nat :=
  let t := xtsTweak (ofNatBytes (aesEncrypt (natBytes key2 32) (natBytes unit 16))) j
  ofNatBytes (aesDecrypt (natBytes key1 32) (natBytes (block ^^^ t) 16)) ^^^ t

end Sys2Proof.Machine
end

