-- ==== Sys2Proof/Machine/Copy.lean ====
section
/-!
DEFINITION. Machine/Copy.lean: the copy engines: COPY, FILL and DECRYPT with and without DECODE, SHADOW, PUBLISH, the partner's update word
(R175, R250, R384, R404, R415).
-/
namespace Sys2Proof.Machine

/-! ## The entry (Table 6-10) -/

def entryWord (e : ChainEntry) (i : Nat) : Nat := (e.words.getD i 0).toNat
def copyOp (e : ChainEntry) : Nat := bits (entryWord e 1) 3 0
def copySsp (e : ChainEntry) : Nat := bits (entryWord e 1) 5 4
def copyDsp (e : ChainEntry) : Nat := bits (entryWord e 1) 7 6
def copyShadow (e : ChainEntry) : Bool := bit (entryWord e 1) 8
def copyPublish (e : ChainEntry) : Bool := bit (entryWord e 1) 9
def copyDecode (e : ChainEntry) : Bool := bit (entryWord e 1) 10
def entryRegion (e : ChainEntry) : Nat := bits (entryWord e 1) 31 16

/-- A nib address that an engine does not take: self form, malformed, or past the scratchpad. -/
def badNib (a n : Nat) : Bool := nibSelf a || nibMalformed a || bits a 20 0 + n > 0x180000

/-- The entry breaks its layout. The extent of a decoded destination in a scratchpad follows from the source's pages (`State.decodesPast`). -/
def copyBad (e : ChainEntry) : Bool :=
  let fill := copyOp e == 1
  let src := entryWord e 2
  let dst := entryWord e 3
  let len := entryWord e 4
  copyOp e > 2 || !(copyDsp e == 1 || copyDsp e == 2) || len == 0 || len % 16 != 0 || dst % 16 != 0 || entryWord e 5 % 8 != 0 ||
    (!fill && (!(copySsp e == 1 || copySsp e == 2) || src % 16 != 0 || (copySsp e == 2 && badNib src len))) ||
    (fill && copyDecode e) || (copyPublish e && !copyShadow e) ||
    (copyDsp e == 2 && badNib dst (if copyDecode e then 16 else len))

/-! ## Where its bytes lie -/

/-- A located byte of an engine's copy: its key, the page it lies in, the unit whose scratchpad it lies in, and whether the receiving
interface discards it (R404). -/
structure CopyAt where
  key : Nat
  page : Option Phys := none
  unit : Option Nat := none
  drop : Bool := false
  deriving DecidableEq, Repr

def CopyAt.fmt (c : CopyAt) : Nat := match c.page with
  | some p => p.fmt
  | none => 15

/-- What an entry's engine acts as: its partition, its privilege and its reader. -/
structure EngCtx where
  part : Nat
  priv : Nat
  region : Nat
  rd : Reader
  deriving DecidableEq, Repr

def engCtx (x : Chain) (e : ChainEntry) : EngCtx :=
  { part := x.part, priv := x.privOf e.priv, region := entryRegion e, rd := entryReader x e.stroke e.upto }

def State.readAt (s : State) (c : EngCtx) (space a : Nat) : Eng CopyAt :=
  if space == 1 then (s.engAt c.part c.priv c.region a 1).andThen fun p => .ok { key := p.key, page := some p }
  else if !s.nibInPart a c.part then .fault 6
  else .ok { key := spadKey (nibUnit a) (bits a 20 0), unit := some (nibUnit a) }

/-- The place word of a nib, its channel 0. -/
def nibPlaceWord (a : Nat) : Nat := 0xFF * 2 ^ 24 + placeWord (nibUnit a * 64)

/-- A destination byte: the primary or the shadow page, or a scratchpad of the partition or behind a gateway. -/
def State.writeAt (s : State) (c : EngCtx) (space a : Nat) (shadow : Bool) : Eng CopyAt :=
  if space == 1 then
    (s.engAt c.part c.priv c.region a 2).andThen fun p =>
      if shadow then
        match p.shadow with
        | none => .fault 0x67
        | some spa =>
          let q := { p with pa := spa }
          if s.inSc q then .fault trSCRANGE else .ok { key := q.key, page := some p }
      else if s.inSc p then .fault trSCRANGE
      else .ok { key := p.key, page := some p }
  else if shadow then .fault 0x67
  else if bits a 20 0 ≥ 0x180000 then .fault 6
  else
    let at_ : CopyAt := { key := spadKey (nibUnit a) (bits a 20 0), unit := some (nibUnit a) }
    if s.nibInPart a c.part then .ok at_
    else
      match s.gateFor c.part (nibPlaceWord a) true with
      | none => .fault 6
      | some (_, dp) => .ok { at_ with drop := s.unitPart (nibUnit a) != some dp }

/-- The bytes are committed; in a scratchpad they set the full bits (R119, R250). -/
def State.putAt (s : State) (d : CopyAt) (bs : List Byte) : State :=
  if d.drop then s
  else
    (s.modMem fun m => match d.unit with
      | some u => (m.localWrite u d.key bs).setFulls (d.key / 16 * 16) true (granules d.key bs.length)
      | none => m.commitWrite d.key bs).request d.key .write bs.length bs

/-! ## Reading a granule -/

def State.granuleAt (s : State) (c : EngCtx) (d : CopyAt) : Eng Nat :=
  if (s.mem.poisoned d.key 16).isSome then .fault trUNCORR else .ok (s.mem.engineGet c.rd d.key 16)

/-- The key pair in a key slot: words 0–3 are key 1, words 4–7 key 2, least significant first (R414). It lies in a register number that
no instruction names. -/
def State.keyPair (s : State) (slot : Nat) : Nat × Nat :=
  let w := fun i => s.csrGet 0x80 0 (slot * 8 + i)
  let k := fun i => w i + 2 ^ 64 * w (i + 1) + 2 ^ 128 * w (i + 2) + 2 ^ 192 * w (i + 3)
  (k 0, k 4)

/-- R384, R415: a granule of a DECRYPT source. -/
def State.decryptAt (s : State) (c : EngCtx) (d : CopyAt) (a : Nat) : Eng Nat :=
  let slot := match d.page with
    | some p => bits p.leaf.w1 7 0
    | none => 0
  if slot == 0 || !bit (s.csrGet 0x4C 0 slot) 63 then .fault 0x68
  else
    (s.granuleAt c d).andThen fun v =>
      let k := s.keyPair slot
      .ok (xtsDecrypt k.1 k.2 (a % 2 ^ 64 / 4096) (a % 4096 / 16) v)

/-- Granule `i` of the source and where it lies. -/
def State.srcGranule (s : State) (c : EngCtx) (e : ChainEntry) (i : Nat) : Eng (CopyAt × Nat) :=
  if copyOp e == 1 then .ok ({ key := 0 }, entryWord e 2 * (2 ^ 64 + 1))
  else
    let a := entryWord e 2 + 16 * i
    (s.readAt c (copySsp e) a).andThen fun d =>
      (if copyOp e == 2 then s.decryptAt c d a else s.granuleAt c d).andThen fun v => .ok (d, v)

/-! ## The copy -/

/-- How far the engine came. -/
inductive Ran where
  | done (s : State)
  | fault (s : State)
  /-- a page is not present; the progress to go on from -/
  | wait (s : State) (region page progress : Nat)

/-- Each 64 bytes of a copy, or the part of 64 that it ends with, take one unit of the budget of a metered gateway (R404): the byte at position `pos` of
the copy begins one (log entry 82). -/
def State.meter (s : State) (c : EngCtx) (space a pos : Nat) : State :=
  if space != 2 || pos % 64 != 0 || s.nibInPart a c.part then s
  else
    match s.gateFor c.part (nibPlaceWord a) true with
    | some (g, _) => s.modPlat fun p => { p with spent := tabPut p.spent g (tabGet p.spent g 0 + 1) }
    | none => s

/-- The engine has used the page of a side of its copy. -/
def State.touchSide (s : State) (c : EngCtx) (d : CopyAt) : State :=
  match d.page with
  | some p => s.touch c.rd.slab p
  | none => s

/-- The engine has read a granule of its source. -/
def State.readSide (s : State) (c : EngCtx) (d : CopyAt) : State := (s.touchSide c d).request d.key .read 16 []

/-- Granules from `i` on, `n` of them, moved raw. -/
def copyRaw (c : EngCtx) (e : ChainEntry) (i : Nat) : Nat → State → Ran
  | 0, s => .done s
  | n + 1, s =>
    match s.srcGranule c e i with
    | .fault _ => .fault s
    | .absent r p => .wait s r p i
    | .ok (src, v) =>
      let a := entryWord e 3 + 16 * i
      match s.writeAt c (copyDsp e) a (copyShadow e) with
      | .fault _ => .fault s
      | .absent r p => .wait s r p i
      | .ok d => copyRaw c e (i + 1) n ((((s.readSide c src).putAt d (toBytes v 16)).meter c (copyDsp e) a (16 * i)).touchSide c d)

/-- R66: the scale code of an element of a page, at offset `off` of the region. -/
def State.engScale (s : State) (c : EngCtx) (p : Phys) (off : Nat) (high : Bool) : Eng (Option Nat) :=
  if !p.scaled then .ok none
  else
    let low := off % 2 ^ 60
    let n := if p.fmt == 4 then 2 * low + (if high then 1 else 0) else low
    (s.engAt c.part c.priv c.region (off / 2 ^ 61 * 2 ^ 61 + 2 ^ 60 + n / p.blockLen) 5).andThen fun q =>
      if (s.mem.poisoned q.key 1).isSome then .fault trUNCORR else .ok (some (s.mem.engineGet c.rd q.key 1))

/-- Width in nibbles of an element of a side. -/
def sideNibbles (d : CopyAt) : Nat := if decodes d.fmt then fmtBits d.fmt / 4 else 8

/-- The word of an element of a located side, from its code. -/
def State.elemWord (s : State) (c : EngCtx) (d : CopyAt) (off : Nat) (high : Bool) (code : Nat) : Eng Nat :=
  match d.page with
  | some p =>
    if decodes p.fmt then
      (s.engScale c p off high).andThen fun sc => .ok ((pageValue code p.fmt sc.isSome (sc.getD 0)).toNat % 2 ^ 32)
    else .ok code
  | none => .ok code

/-- The code of a word for a located side. -/
def State.wordCode (s : State) (c : EngCtx) (d : CopyAt) (off : Nat) (high : Bool) (v : Nat) : Eng Nat :=
  match d.page with
  | some p =>
    if decodes p.fmt then
      (s.engScale c p off high).andThen fun sc => .ok (storeCode v p.fmt sc.isSome (sc.getD 0) true)
    else .ok v
  | none => .ok v

/-- The bytes that an element of `n` nibbles at a location writes; one nibble keeps the other of its byte. -/
def elemBytes (m : Memory) (d : CopyAt) (n : Nat) (high : Bool) (code : Nat) : List Byte :=
  if n == 1 then
    let old := m.committed d.key
    [BitVec.ofNat 8 (if high then code % 16 * 16 + old.toNat % 16 else old.toNat / 16 * 16 + code % 16)]
  else toBytes code (n / 2)

/-- One element: source and destination positions are counted in nibbles. The new positions and the state. -/
def State.copyElem (s : State) (c : EngCtx) (e : ChainEntry) (sn dn : Nat) : Eng (Nat × Nat × State) :=
  let a := entryWord e 3 + dn / 2
  (s.writeAt c (copyDsp e) a (copyShadow e)).andThen fun d =>
    (s.srcGranule c e (sn / 32)).andThen fun g =>
      let side := if copyOp e == 2 then d else g.1
      let n := sideNibbles side
      let m := sideNibbles d
      let code := g.2 / 2 ^ (4 * (sn % 32)) % 2 ^ (4 * n)
      let off := if copyOp e == 2 then a else entryWord e 2 + sn / 2
      let high := if copyOp e == 2 then dn % 2 == 1 else sn % 2 == 1
      (s.elemWord c side (off % 2 ^ 64) high code).andThen fun v =>
        (s.wordCode c d (a % 2 ^ 64) (dn % 2 == 1) v).andThen fun w =>
          .ok (sn + n, dn + m, ((((if sn % 32 == 0 then s.readSide c g.1 else s.touchSide c g.1).putAt d (elemBytes s.mem d m (dn % 2 == 1) w)).meter c (copyDsp e) a
            (if dn % 2 == 0 then dn / 2 else 1)).touchSide c d))

/-- Elements in `left` bytes of the source from `a` on, page by page. What follows a page that gives a fault is left out: the engine ends there. -/
def State.srcElems (s : State) (c : EngCtx) (e : ChainEntry) (a left : Nat) : Nat → Eng Nat
  | 0 => .ok 0
  | n + 1 =>
    let here := min left (65536 - a % 65536)
    if here == 0 then .ok 0
    else match s.readAt c (copySsp e) a with
      | .fault _ => .ok 0
      | .absent r p => .absent r p
      | .ok d => (s.srcElems c e (a + here) (left - here) n).andThen fun m => .ok (2 * here / sideNibbles d + m)

/-- A decoding copy into a scratchpad runs past 0x17_FFFF: it makes no access (R175). -/
def State.decodesPast (s : State) (c : EngCtx) (e : ChainEntry) : Eng Bool :=
  if !copyDecode e || copyDsp e != 2 then .ok false
  else
    (if copyOp e == 2 then .ok (entryWord e 4 / 4) else s.srcElems c e (entryWord e 2) (entryWord e 4) (entryWord e 4 / 65536 + 2)).andThen
      fun n => .ok (bits (entryWord e 3) 20 0 + 4 * n > 0x180000)

/-- Both positions in one number. -/
def copyProgress (sn dn : Nat) : Nat := sn + 2 ^ 66 * dn

/-- Elements until the source is used up; at most one for each of its nibbles. -/
def copyElems (c : EngCtx) (e : ChainEntry) : Nat → Nat → Nat → State → Ran × Nat
  | 0, _, dn, s => (.done s, dn)
  | n + 1, sn, dn, s =>
    if sn ≥ 2 * entryWord e 4 then (.done s, dn)
    else
      match s.copyElem c e sn dn with
      | .fault _ => (.fault s, dn)
      | .absent r p => (.wait s r p (copyProgress sn dn), dn)
      | .ok (sn, dn, s) => copyElems c e n sn dn s

/-- The whole transfer from the entry's progress on, and the bytes its destination spans. -/
def copyRun (c : EngCtx) (e : ChainEntry) (s : State) : Ran × Nat :=
  let len := entryWord e 4
  if copyDecode e then
    let r := copyElems c e (2 * len) (e.progress % 2 ^ 66) (e.progress / 2 ^ 66) s
    (r.1, (r.2 + 1) / 2)
  else (copyRaw c e e.progress (len / 16 - e.progress) s, len)

/-! ## After the transfer -/

/-- PUBLISH of the destination range: a state, or nothing while updates through the range are in flight; a failed check is a fault. -/
def State.publishRange (s : State) (c : EngCtx) (a n : Nat) : Eng (Option State) :=
  let lo := a / 65536 * 65536
  let count := (a + n - 1) / 65536 - a / 65536 + 1
  match s.checkPages c.part c.priv c.region lo count 3 count 0 [] with
  | .fault k _ _ => .fault k
  | .fail _ _ => .fault 6
  | .ok leaves =>
    if s.inFlight (inPages c.region lo count) then .ok none
    else .ok (some ((s.exchange c.region leaves).invalidate (inPages c.region lo count)))

/-- The partner's update word (R130). -/
def copyPartner (c : Nat) (e : ChainEntry) (s : State) : State :=
  let p := entryWord e 6
  if bit p 63 then
    s.post (.engine (2 ^ 32 + c)) (placeOfWord (p % 2 ^ 18))
      (cbUpdate (bit (entryWord e 1) 11) (bits p 21 18) (bits (entryWord e 1) 47 32 % 512)) 1
  else s

/-- Beats of an engine that moves `n` bytes (R405). -/
def State.engineBeats (s : State) (x : Chain) (n : Nat) : State :=
  s.beat (if x.part == 0 then none else some (engineBucket x.slab x.part)) (beatsOf n)

/-- A port to a peer takes no message yet for the granule that the engine has come to (R411). -/
def State.copyStalls (s : State) (k : EngCtx) (e : ChainEntry) : Bool :=
  let full := fun (d : Eng CopyAt) => match d with
    | .ok d => s.portFull d.key
    | _ => false
  let sn := if copyDecode e then e.progress % 2 ^ 66 / 32 else e.progress
  let dn := if copyDecode e then e.progress / 2 ^ 66 / 2 else 16 * e.progress
  (copyOp e != 1 && full (s.readAt k (copySsp e) (entryWord e 2 + 16 * sn))) || full (s.writeAt k (copyDsp e) (entryWord e 3 + dn) (copyShadow e))

/-- COPY_ENTRY: the engine runs the head entry of its chain; one that has waited for a page goes on where it stopped. -/
def copyEntry (c : Nat) (s : State) : State :=
  match s.chain c with
  | none => s
  | some x =>
    if x.kind != 1 || x.waiting.isSome then s
    else
      let run := fun (s : State) (x : Chain) (e : ChainEntry) =>
        if e.finished then s
        else if copyBad e then s.finishEntry c x e 7
        else
          let k := engCtx x e
          match (if e.progress == 0 then s.decodesPast k e else .ok false) with
          | .absent r p => s.chainWait c r p
          | .fault _ => s.finishEntry c x e 6
          | .ok true => s.finishEntry c x e 7
          | .ok false =>
          if s.copyStalls k e then s
          else match copyRun k e s with
          | (.fault s, _) => s.finishEntry c x e 6
          | (.wait s r p n, _) => (s.setEntry c { e with progress := n }).chainWait c r p
          | (.done s, n) =>
            let s := s.engineBeats x (entryWord e 4)
            let all := if copyDecode e then copyProgress (2 * entryWord e 4) (2 * n) else entryWord e 4 / 16
            let s := s.setEntry c { e with progress := all }
            if (s.finishEntry c x e 1).chainWaits c then s.finishEntry c x e 1
            else if copyPublish e then
              match s.publishRange k (entryWord e 3) n with
              | .ok (some s) => copyPartner c e (s.finishEntry c x e 1)
              | .fault _ => s.finishEntry c x e 6
              | _ => s
            else copyPartner c e (s.finishEntry c x e 1)
      match x.entries with
      | e :: _ => run s x e
      | [] =>
        match s.takeHead c x with
        | .nothing => s
        | .wait s => s
        | .entry s x e => run s x e

def execCopyEntry (c : Nat) (s : State) : Host.Outcome State Fault Refusal := .next (copyEntry c s)

end Sys2Proof.Machine
end

