-- ==== Sys2Proof/Machine/Matrix.lean ====
section
/-!
DEFINITION. Machine/Matrix.lean: operand descriptors, queued matrix entries, drains and their routes, mask blocks, MFLAGS (R206–R222, R343, R344).
-/
namespace Sys2Proof.Machine

/-! ## Operand descriptors (R208–R210) -/

/-- Width of an operand format in nibbles: 0 for a code that is none of 0x1–0x5. -/
def operandNibbles (f : Nat) : Nat :=
  match f with
  | 1 | 2 => 4
  | 3 | 5 => 2
  | 4 => 1
  | _ => 0

def descFmt (w1 : Nat) : Nat := bits w1 27 24
def descSrc (w1 : Nat) : Nat := bits w1 29 28

/-- The word of a descriptor that breaks R208. -/
def operandBad (w0 w1 : Nat) : Option Nat :=
  let es := (operandNibbles (descFmt w1) + 1) / 2
  let base := bits w0 20 0
  let rowp := bits w0 47 32
  let src := descSrc w1
  if bits w0 63 48 != 0 || bits w0 31 21 != 0 || (src == 0 && es != 0 && (base % es != 0 || rowp % es != 0)) ||
      (src == 1 && (base ≥ 8 || rowp != 0)) then some 1
  else if bits w1 63 35 != 0 || bits w1 31 30 != 0 || src > 1 || es == 0 || bits w1 23 21 != 0 ||
      (src == 0 && bits w1 20 0 % es != 0) || (src == 1 && (bits w1 20 0 != 0 || bits w1 34 32 != 0)) then some 2
  else none

/-- A captured descriptor. -/
structure Desc where
  w0 : Nat
  w1 : Nat
  deriving DecidableEq, Repr

def Desc.fmt (d : Desc) : Nat := descFmt d.w1
def Desc.tiles (d : Desc) : Bool := descSrc d.w1 == 1
/-- Bytes of a line of one step. -/
def Desc.line (d : Desc) : Nat := 16 * operandNibbles d.fmt
/-- Steps that a tile register holds. -/
def Desc.perReg (d : Desc) : Nat := 4096 / (64 * d.line)

/-- Window offset of line `m` in step `j` (R209). -/
def Desc.offset (d : Desc) (m j : Nat) : Int :=
  (bits d.w0 20 0 : Int) + m * toSigned (bits d.w0 47 32) 16 + ((16 * (m * bits d.w1 34 32 % 32) + j * bits d.w1 20 0 : Nat) : Int)

/-- Byte of the tile registers at which line `m` of step `j` begins. -/
def Desc.regByte (d : Desc) (m j : Nat) : Nat :=
  (bits d.w0 2 0 + j / d.perReg) * 4096 + j % d.perReg * 64 * d.line + m * d.line

/-- R210: the formats are a legal pair. -/
def pairOk (a b : Nat) : Bool :=
  (a == 1 && b == 1) || (a == 2 && b == 2) || (a == 5 && b == 5) || ((a == 3 || a == 4) && (b == 3 || b == 4))

/-- A tile-register operand runs past k7. -/
def Desc.pastEnd (d : Desc) (steps : Nat) : Bool :=
  d.tiles && operandNibbles d.fmt != 0 && bits d.w0 2 0 + (steps - 1) / d.perReg > 7

/-- The lowest byte of a scratchpad operand that lies outside the window. -/
def Desc.lowestOut (d : Desc) (steps wsize : Nat) : Option Int :=
  if d.tiles then none
  else
    ((span 0 steps).flatMap fun j => (span 0 64).filterMap fun m =>
      let o := d.offset m j
      if o < 0 then some o else if o + d.line > wsize then some (max o wsize) else none).foldl
      (fun (a : Option Int) b => match a with
        | some c => some (min b c)
        | none => some b) none

/-! ## Instructions that act when they fire (R216, R220, R222) -/

def State.modMatrix (s : State) (u : Nat) (f : MatrixUnit → MatrixUnit) : State :=
  s.modUnit u fun x => { x with matrix := f x.matrix }

def setDesc (b : Bool) (n : Nat) (x : Ctx) (g : Args) (s : State) : Fire :=
  match operandBad g.av.toNat g.bv.toNat with
  | some w => .trap s trMDESC (word w)
  | none =>
    .value (s.modMatrix (unitOf x.k) fun m =>
      if b then { m with mb := listSet m.mb n (g.av, g.bv) } else { m with ma := listSet m.ma n (g.av, g.bv) }) 0

def execMda (t : BitVec 9) (n p : BitVec 2) (s : State) : Host.Outcome State Fault Refusal :=
  fire (.mda t n p) (fun x g s => setDesc false n.toNat x g s) s

def execMdb (t : BitVec 9) (n p : BitVec 2) (s : State) : Host.Outcome State Fault Refusal :=
  fire (.mdb t n p) (fun x g s => setDesc true n.toNat x g s) s

/-- Bytes of a drained row of 64 elements. -/
def rowBytes (ofmt : Nat) : Nat :=
  match ofmt with
  | 0 | 7 => 256
  | 1 | 2 => 128
  | 4 => 32
  | _ => 64

def ofmtOk (f : Nat) : Bool := f ≤ 5 || f == 7

/-- The word of a route that breaks Table 8-5. -/
def routeBad (w0 w1 : Nat) : Option Nat :=
  let f := bits w1 35 32
  let pitch := bits w1 15 0
  if w0 / 2 ^ 33 != 0 || nibMalformed w0 || bits w0 20 0 % 16 != 0 then some 1
  else if bits w1 62 48 != 0 || bit w1 36 || bits w1 31 16 != 0 || !ofmtOk f || (bit w1 38 && f > 2) || pitch % 16 != 0 ||
      (bits w1 47 42 > 0 && pitch < rowBytes f) then some 2
  else none

def execRtset (t : BitVec 9) (r : BitVec 4) (p : BitVec 2) (s : State) : Host.Outcome State Fault Refusal :=
  fire (.rtset t r p) (fun x g s =>
    match routeBad g.av.toNat g.bv.toNat with
    | some w => .trap s trROUTEBAD (word w)
    | none => .value (s.modMatrix (unitOf x.k) fun m => { m with rt := listSet m.rt r.toNat (g.av, g.bv) }) 0) s

/-- The status word of a selector. -/
def MatrixUnit.status (m : MatrixUnit) (sel : Nat) : Word :=
  match sel with
  | 0 => word m.mflags.toNat
  | 1 => m.mdone
  | 2 => word m.queue.length
  | _ => m.mseq

def execMstat (t : BitVec 9) (p : BitVec 2) (c : BitVec 1) (e : BitVec 2) (s : State) : Host.Outcome State Fault Refusal :=
  fire (.mstat t p c e) (fun x g s =>
    let v := (s.unit (unitOf x.k)).matrix.status e.toNat
    .value (if c == 1 && e == 0 then
        s.modMatrix (unitOf x.k) fun m => { m with mflags := m.mflags &&& ~~~(BitVec.ofNat 5 g.av.toNat) }
      else s) v) s

/-! ## Entering the queue (R211, R212) -/

/-- A running stroke of a lower region of the unit holds a checked matrix instruction, which enters first. -/
def State.lowerWaits (s : State) (x : Ctx) : Bool :=
  s.strokes.any fun e => e.1 != x.k && unitOf e.1 == unitOf x.k && e.2.running && e.2.run.region.getD 0 < x.st.run.region.getD 0 &&
    e.2.run.inst.any fun i => i.slots.zipIdx.any fun y => y.1.mode == .held && (i.instr y.2).any isMatrix

/-- R425: an engine that has been idle for 256 cycles, 64 steps, waits for a step of its own. -/
def State.slewAlone (s : State) (u : Nat) : State :=
  if (s.unit u).matrix.queue.isEmpty && tabGet s.plat.idle u 0 ≥ 64 && !(tabGet s.plat.slewLone (slabOf u) []).contains u then
    s.modPlat fun p => { p with slewLone := tabPut p.slewLone (slabOf u) (tabGet p.slewLone (slabOf u) [] ++ [u]) }
  else s

/-- A checked instruction enters the matrix queue, or holds while it is full or a lower region's goes first; its ticket comes at completion. -/
def enqueue (op : MatrixOp) (x : Ctx) (s : State) : Fire :=
  let m := (s.unit (unitOf x.k)).matrix
  if m.queue.length ≥ 16 || s.lowerWaits x then .hold s
  else
    let e : MatrixEntry :=
      { ticket := (m.mseq + 1).toNat, stroke := x.k, serial := x.ins.serial, slot := x.n, wbase := x.st.decl.wbase, wsize := x.st.decl.wsize,
        upto := s.mem.order, bnd := x.st.bnd, round := s.rounds.issued, op }
    .owed ((s.slewAlone (unitOf x.k)).modMatrix (unitOf x.k) fun m => { m with mseq := m.mseq + 1, queue := m.queue ++ [e] })

def mma (i j : Nat) (sf : Bool) (x : Ctx) (g : Args) (s : State) : Fire :=
  let a := g.av.toNat
  if a / 2 ^ 12 != 0 then .trap s trMCTL g.av
  else
    let m := (s.unit (unitOf x.k)).matrix
    let (a0, a1) := m.ma.getD i (0, 0)
    let (b0, b1) := m.mb.getD j (0, 0)
    let da : Desc := { w0 := a0.toNat, w1 := a1.toNat }
    let db : Desc := { w0 := b0.toNat, w1 := b1.toNat }
    let steps := bits a 10 4 + 1
    let past := da.pastEnd steps || db.pastEnd steps
    if !pairOk da.fmt db.fmt || past then .trap s trMFMT (word (da.fmt + 16 * db.fmt + (if past then 256 else 0)))
    else
      match (da.lowestOut steps x.st.decl.wsize).or (db.lowestOut steps x.st.decl.wsize) with
      | some o => .trap s trSPADWIN (word (ofInt o 64))
      | none => enqueue (.mma a0 a1 b0 b1 g.av sf) x s

def execMma (t : BitVec 9) (b a p : BitVec 2) (sp : BitVec 1) (s : State) : Host.Outcome State Fault Refusal :=
  fire (.mma t b a p sp) (fun x g s => mma a.toNat b.toNat (sp == 1) x g s) s

def execKld (t : BitVec 9) (k : BitVec 3) (p : BitVec 2) (s : State) : Host.Outcome State Fault Refusal :=
  fire (.kld t k p) (fun x g s =>
    let a := g.av.toNat
    if a % 16 != 0 then .trap s trMISALIGN g.av
    else if a + 4096 > x.st.decl.wsize then .trap s trSPADWIN g.av
    else enqueue (.kld k.toNat a) x s) s

def execAccz (t : BitVec 9) (p : BitVec 2) (s : State) : Host.Outcome State Fault Refusal :=
  fire (.accz t p) (fun x g s =>
    if g.av.toNat / 65536 != 0 then .trap s trMCTL g.av else enqueue (.accz g.av.toNat) x s) s

/-- Tile and pitch word of ACCRD and ACCWR. -/
def pitchOf (a : Nat) : Nat := bits a 31 16

/-- The checks that ACCRD and ACCWR share. -/
def accMove (op : Word → Nat → MatrixOp) (x : Ctx) (g : Args) (s : State) : Fire :=
  let a := g.av.toNat
  let b := g.bv.toNat
  if a / 2 ^ 32 != 0 || bits a 15 4 != 0 || pitchOf a % 16 != 0 || pitchOf a < 256 then .trap s trMCTL g.av
  else if b % 16 != 0 then .trap s trMISALIGN g.bv
  else if b + 63 * pitchOf a + 256 > x.st.decl.wsize then .trap s trSPADWIN g.bv
  else enqueue (op g.av b) x s

def execAccrd (t : BitVec 9) (p : BitVec 2) (s : State) : Host.Outcome State Fault Refusal :=
  fire (.accrd t p) (fun x g s => accMove .accrd x g s) s

def execAccwr (t : BitVec 9) (p : BitVec 2) (s : State) : Host.Outcome State Fault Refusal :=
  fire (.accwr t p) (fun x g s => accMove .accwr x g s) s

/-- DRAIN (R221): the destination is checked when it fires. -/
def drain (x : Ctx) (g : Args) (s : State) : Fire :=
  let a := g.av.toNat
  let b := g.bv.toNat
  let off := bits b 52 32
  if a / 16 != 0 then .trap s trMCTL g.av
  else if b / 2 ^ 53 != 0 || bits b 31 4 != 0 || off % 16 != 0 then .trap s trMCTL g.bv
  else
    let (r0, r1) := (s.unit (unitOf x.k)).matrix.rt.getD (b % 16) (0, 0)
    let w1 := r1.toNat
    if !bit w1 63 then .trap s trROUTEBAD 3
    else
      let dest := r0.toNat
      let o := bits dest 20 0 + off
      let n := bits w1 47 42 * bits w1 15 0 + rowBytes (bits w1 35 32)
      if nibSelf dest then
        if o + n > x.st.decl.wsize then .trap s trSPADWIN (word o)
        else enqueue (.drain g.av r0 r1 (word (spadKey (unitOf x.k) (x.st.decl.wbase + o)))) x s
      else if o + n > 0x180000 || !s.nibInPart dest x.st.decl.part then .trap s trNIBADDR (word (dest + off))
      else enqueue (.drain g.av r0 r1 (word (spadKey (nibUnit dest) o))) x s

def execDrain (t : BitVec 9) (p : BitVec 2) (s : State) : Host.Outcome State Fault Refusal :=
  fire (.drain t p) (fun x g s => drain x g s) s

/-! ## Mask parameter blocks (R343, R344) -/

def maskNodes (w4 : Nat) : Nat := bits w4 20 16

/-- Row `i` of a mask parameter block. -/
def maskRow (b : List Word) (i : Nat) : Nat := (b.getD (i / 4) 0).toNat / 2 ^ (16 * (i % 4)) % 65536

/-- The word of a block that breaks R343: word 4 first. -/
def maskBad (b : List Word) : Option Nat :=
  let w := (b.getD 4 0).toNat
  let n := maskNodes w
  if w / 2 ^ 25 != 0 || bits w 23 21 != 0 || bits w 15 14 != 0 || bits w 7 6 != 0 || n == 0 || n > 16 || bits w 5 0 + n > 64 ||
      bits w 13 8 + n > 64 then some 4
  else
    ((span 0 16).find? fun i =>
      let r := maskRow b i
      if i < n then !bit r i || r ≥ 2 ^ (i + 1) else r != 0).map (· / 4)

def tmload (x : Ctx) (g : Args) (s : State) : Fire :=
  let a := g.av.toNat
  if a % 8 != 0 then .trap s trMISALIGN g.av
  else if a + 40 > x.st.decl.wsize then .trap s trSPADWIN g.av
  else
    match s.readTrap (spadKey (unitOf x.k) (x.st.decl.wbase + a)) 40 with
    | some f => f
    | none =>
      let (b, s') := s.windowWords x.k (spadKey (unitOf x.k) (x.st.decl.wbase + a)) 5
      match maskBad b with
      | some i => .trap s trMASKBAD (word i)
      | none => enqueue (.tmload b) x s'

def execTmload (t : BitVec 9) (p : BitVec 2) (s : State) : Host.Outcome State Fault Refusal :=
  fire (.tmload t p) (fun x g s => tmload x g s) s

/-- masked(m, c) of R344. -/
def masked (b : List Word) (m c : Nat) : Bool :=
  let w := (b.getD 4 0).toNat
  let n := maskNodes w
  let row0 := bits w 5 0
  let col0 := bits w 13 8
  if m < row0 || m - row0 ≥ n || c < col0 then false
  else if c - col0 < n then !bit (maskRow b (m - row0)) (c - col0)
  else bit w 24

/-! ## Arithmetic of a step (R76, R217) -/

/-- The value of an operand code. -/
def operandNum (fmt code : Nat) : Num := decodeNum ((Fmt.ofCode fmt).getD .f16) code

/-- The value taken for a code that holds an uncorrectable error (R213). -/
def lostNum (fmt : Nat) : Num := if fmt == 5 then .zero false else .nan false

/-- A floating-point accumulator word and 32 products. -/
def stepFp (acc : Nat) (ps : List (Num × Num)) : Flagged Nat :=
  let prods := ps.map fun p => mulNum p.1 p.2
  let x := decodeNum .f32 acc
  let (v, f) := sumNum .rne (x :: prods.map (·.1))
  let (c, f2) := roundNum .f32 .rne false v
  (c, f ||| f2 ||| flagIf (ps.any (fun p => p.1.isNan || p.2.isNan) || prods.any (·.2)) flagNV)

/-- An INT32 accumulator word and 32 products. -/
def stepInt (acc : Nat) (ps : List (Num × Num)) : Flagged Nat :=
  let s := ps.foldl (fun a p => a + p.1.frac.1 * p.2.frac.1) (toSigned acc 32)
  let r := satS s 32
  (ofInt r.1 32, flagIf r.2 flagClamp)

/-- One step on a tile: its words in row order, the 64 lines of each operand. -/
def stepTile (int : Bool) (tile : List Nat) (as bs : List (List Num)) : List (Flagged Nat) :=
  tile.zipIdx.map fun w =>
    let ps := List.zip (as.getD (w.2 / 64) []) (bs.getD (w.2 % 64) [])
    if int then stepInt w.1 ps else stepFp w.1 ps

def flagsOf (l : List (Flagged Nat)) : Flags := l.foldl (fun a r => a ||| r.2) 0

/-- Steps `j`, `j + 1`, …, `n` of them. -/
def runSteps (int : Bool) (lines : Nat → List (List Num) × List (List Num)) (j : Nat) : Nat → List Nat → Flags → List Nat × Flags
  | 0, t, f => (t, f)
  | n + 1, t, f =>
    let (as, bs) := lines j
    let r := stepTile int t as bs
    runSteps int lines (j + 1) n (r.map (·.1)) (f ||| flagsOf r)

/-- The code that DRAIN writes for a word of the store (R221). -/
def drainCode (ofmt : Nat) (rm : Round) (v : Nat) : Flagged Nat :=
  match ofmt with
  | 0 | 7 => (v, 0)
  | 5 =>
    let r := satS (toSigned v 32) 8
    (ofInt r.1 8, flagIf r.2 flagClamp)
  | f =>
    let x := decodeNum .f32 v
    let r := roundNum ((Fmt.ofCode f).getD .f16) rm false x
    (r.1, r.2 ||| flagIf x.isSig flagNV)

/-- A drained row as bytes. -/
def drainBytes (ofmt : Nat) (codes : List Nat) : List Byte :=
  if ofmt == 4 then pairNibbles codes else packBytes (rowBytes ofmt / 64) codes

/-! ## Execution of an entry (R213) -/

/-- The reader that an entry is. -/
def MatrixEntry.reader (e : MatrixEntry) (u : Nat) : Reader :=
  { who := e.stroke, unit := u, slab := slabOf u, folio := 0, upto := some e.upto }

/-- Element `k` of the code bytes that begin at a nibble position of a value. -/
def codeAt (nibbles v k : Nat) : Nat := v / 2 ^ (4 * nibbles * k) % 2 ^ (4 * nibbles)

/-- The elements of a line whose bytes lie at a key. -/
def Memory.lineAt (m : Memory) (r : Reader) (fmt key : Nat) : List Num :=
  let w := operandNibbles fmt
  let v := m.engineGet r key (16 * w)
  (span 0 32).map fun k =>
    if (m.poisoned (key + k * w / 2) ((w + 1) / 2)).isSome then lostNum fmt else operandNum fmt (codeAt w v k)

/-- The 64 lines of an operand in step `j`. -/
def State.operandLines (s : State) (u : Nat) (e : MatrixEntry) (d : Desc) (j : Nat) : List (List Num) :=
  (span 0 64).map fun m =>
    s.mem.lineAt (e.reader u) d.fmt
      (if d.tiles then tileKey u (d.regByte m j) else spadKey u (e.wbase + (d.offset m j).toNat))

/-- Word `i` of tile `t` of the accumulator store; `lost` stands for one with an uncorrectable error. -/
def Memory.accWord (m : Memory) (u t lost i : Nat) : Nat :=
  let key := accKey u (accOffset t i)
  if (m.poisoned key 4).isSome then lost else ofBytes (m.bytes key 4)

/-- The 4,096 words of a tile, in row order. -/
def Memory.accTile (m : Memory) (u t lost : Nat) : List Nat := (span 0 4096).map (m.accWord u t lost)

/-- Rows from `r` on of a tile are written, 64 words each. -/
def Memory.setRows (m : Memory) (u t r : Nat) : List (List Nat) → Memory
  | [] => m
  | l :: ls => (m.commitWrite (accKey u (accOffset t (64 * r))) (packBytes 4 l)).setRows u t (r + 1) ls

/-- A list cut into rows of 64. -/
def rowsOf64 : Nat → List Nat → List (List Nat)
  | 0, _ => []
  | n + 1, l => l.take 64 :: rowsOf64 n (l.drop 64)

def Memory.setTile (m : Memory) (u t : Nat) (l : List Nat) : Memory := m.setRows u t 0 (rowsOf64 64 l)

def zeroTile : List Nat := List.replicate 4096 0

/-- Rows of bytes written with their full bits into the scratchpad that holds a key. -/
def Memory.writeRows (m : Memory) (key pitch : Nat) : List (List Byte) → Memory
  | [] => m
  | r :: t =>
    let u := (key - 2 ^ 60) / 2 ^ 21
    ((m.localWrite u key r).setFulls key true (r.length / 16)).writeRows (key + pitch) pitch t

/-- Split a list into rows of `n`, at most `fuel` of them. -/
def rowsOf {α : Type} (n : Nat) : Nat → List α → List (List α)
  | 0, _ => []
  | fuel + 1, l => l.take n :: rowsOf n fuel (l.drop n)

/-- The effect of an entry: the memory, the flags it raises, and the block that a TMLOAD places. -/
def State.matrixEffect (s : State) (u : Nat) (e : MatrixEntry) : Memory × Flags × Option (List Word) :=
  let m := s.mem
  match e.op with
  | .mma a0 a1 b0 b1 ctl sf =>
    let da : Desc := { w0 := a0.toNat, w1 := a1.toNat }
    let db : Desc := { w0 := b0.toNat, w1 := b1.toNat }
    let c := ctl.toNat
    let int := da.fmt == 5
    let t := if bit c 11 then zeroTile else m.accTile u (c % 16) (if int then 0 else Fmt.nan .f32)
    let r := runSteps int (fun j => (s.operandLines u e da j, s.operandLines u e db j)) 0 (bits c 10 4 + 1) t 0
    (m.setTile u (c % 16) r.1, if sf then 0 else r.2, none)
  | .kld k off =>
    let src := spadKey u (e.wbase + off)
    (m.commitWrite (tileKey u (4096 * k)) (m.engineBytes (e.reader u) src 4096), 0, none)
  | .accz mask =>
    ((span 0 16).foldl (fun m t => if bit mask t then m.setTile u t zeroTile else m) m, 0, none)
  | .accrd ctl off =>
    let l := m.accTile u (ctl.toNat % 16) (Fmt.nan .f32)
    (m.writeRows (spadKey u (e.wbase + off)) (pitchOf ctl.toNat) ((rowsOf 64 64 l).map (packBytes 4)), 0, none)
  | .accwr ctl off =>
    -- a word that holds an uncorrectable error is taken as the FP32 default NaN (log entry 63)
    let row := fun i =>
      let key := spadKey u (e.wbase + off + i * pitchOf ctl.toNat)
      (wordsOf (m.engineBytes (e.reader u) key 256)).zipIdx.map fun w =>
        if (m.poisoned (key + 4 * w.2) 4).isSome then Fmt.nan .f32 else w.1
    (m.setTile u (ctl.toNat % 16) ((span 0 64).flatMap row), 0, none)
  | .drain ctl _ r1 dst =>
    let w := r1.toNat
    let f := bits w 35 32
    let t := ctl.toNat % 16
    let l := (m.accTile u t (if f == 5 || f == 7 then 0 else Fmt.nan .f32)).take (64 * (bits w 47 42 + 1))
    let mk := (s.unit u).matrix.mask
    let out := l.zipIdx.map fun v =>
      drainCode f (Round.ofBits (bits w 41 40)) (if bit w 38 && masked mk (v.2 / 64) (v.2 % 64) then 0xFF800000 else v.1)
    let m := m.writeRows dst.toNat (bits w 15 0) ((rowsOf 64 (bits w 47 42 + 1) (out.map (·.1))).map (drainBytes f))
    (if bit w 37 then m.setTile u t zeroTile else m, if bit w 39 then 0 else flagsOf out, none)
  | .tmload b => (m, 0, some b)

/-- KLD carries an uncorrectable error of its source along: a word of the register is marked where its source was. -/
def kldMarks (u : Nat) (e : MatrixEntry) (m : Memory) (new : Memory) : Memory :=
  match e.op with
  | .kld k off =>
    (span 0 1024).foldl (fun (n : Memory) i =>
      if (m.poisoned (spadKey u (e.wbase + off) + 4 * i) 4).isSome then n.poisonFrom (tileKey u (4096 * k) + 4 * i) 1 else n) new
  | _ => new

/-- A row that an ACCRD or DRAIN writes meets a wash hold (R267). -/
def State.entryHeld (s : State) (u : Nat) (e : MatrixEntry) : Bool :=
  let rows := fun (key pitch n size : Nat) => (span 0 n).any fun i => s.heldFrom e.stroke e.bnd (key + i * pitch) size
  match e.op with
  | .accrd ctl off => rows (spadKey u (e.wbase + off)) (pitchOf ctl.toNat) 64 256
  | .drain _ _ r1 dst =>
    let w := r1.toNat
    rows dst.toNat (bits w 15 0) (bits w 47 42 + 1) (rowBytes (bits w 35 32))
  | _ => false

/-- R425: the engine waits for the slew limiter's admission. -/
def State.slewHolds (s : State) (u : Nat) : Bool :=
  (s.plat.slewing.any (·.wait.contains u)) || (tabGet s.plat.slewLone (slabOf u) []).contains u

/-- MATRIX_ENTRY_EXECUTE: the head of the queue executes whole. An aged tile-task goes first (R226). -/
def matrixEntryExecute (u : Nat) (s : State) : State :=
  let x := (s.unit u).matrix
  match x.queue with
  | [] => s
  | e :: rest =>
    if e.executed || s.slewHolds u || s.entryHeld u e || x.tileRunning || (x.tileAged && !x.tiles.isEmpty) then s
    else
      let (m, f, b) := s.matrixEffect u e
      (s.modMem fun old => kldMarks u e old m).modMatrix u fun y =>
          { y with queue := { e with executed := true } :: rest, mflags := y.mflags ||| f, mask := b.getD y.mask }

def execMatrixEntryExecute (u : Nat) (s : State) : Host.Outcome State Fault Refusal := .next (matrixEntryExecute u s)

/-- MATRIX_ENTRY_COMPLETE: the ticket is counted in MDONE and sent. -/
def matrixEntryComplete (u : Nat) (s : State) : State :=
  match (s.unit u).matrix.queue with
  | [] => s
  | e :: rest =>
    if !e.executed then s
    else
      let s := s.modUnit u fun y =>
        ({ y with matrix := { y.matrix with queue := rest, mdone := word e.ticket } } : UnitSt).releaseWindows
      s.pushReply e.stroke e.serial e.slot (some (word e.ticket))

def execMatrixEntryComplete (u : Nat) (s : State) : Host.Outcome State Fault Refusal := .next (matrixEntryComplete u s)

end Sys2Proof.Machine
end

