-- ==== Sys2Proof/Machine/Selector.lean ====
section
/-!
DEFINITION. Machine/Selector.lean: the selector (R149–R151), aging (R31, R151), forced yields (R152), round markers and edges (R158–R161, R358).
-/
namespace Sys2Proof.Machine

/-! ## Waiting instances (R152, R358) -/

/-- The slot holds as a waiting instance as the list of R358 has it (RECV, `.fe` and `.fc` reads, CBWAIT, CBRSV, INRD, LWAIT, an LRUN or a matrix instruction
on a full queue, CPREAD, CPWAIT, wash slots), or calls for room in a log (R291). -/
def Instance.waitsAt (i : Instance) (n : Nat) (me : SlotSt) : Bool :=
  me.mode == .held && (match i.instr n with
    | some (.recv ..) => true
    | some (.ld _ _ _ _ _ q) => q != 0 && q != 1 && q != 2 && q != 5
    | some (.ldv _ _ _ _ _ q) => q.toNat % 4 == 1 || q.toNat % 4 == 2
    | some (.stv _ _ _ _ _ q) => q.toNat % 4 == 1 || q.toNat % 4 == 2
    | some (.cbwait ..) => true
    | some (.cbrsv ..) => true
    | some (.inrd ..) => true
    | some (.lwait ..) => true
    | some (.lrun ..) => true
    | some (.cpread ..) => true
    | some (.cpwait ..) => true
    | some (.wld ..) => true
    | some (.wlds ..) => true
    | some w => isMatrix w
    | none => false)

/-- A wash holds bytes of the stroke's window (R267). -/
def State.holdsOn (s : State) (k : Nat) : Bool := s.svc.washes.any fun w => w.left.any fun j => s.isMember w j k

/-- An instruction whose writes into the own window a wash can hold (R267). -/
def writesWindow (i : Instr) : Bool :=
  match i with
  | .st .. | .stv .. | .ldv .. | .kvwr .. => true
  | _ => false

/-- R267: the lanes of a slot's updates on their way, where a wash stalls one of them; a scalar's is lane 0. -/
def State.stalledLanes (s : State) (k serial n : Nat) (me : SlotSt) : Option (List Nat) :=
  let mine := s.net.atoms.filter fun a => a.stroke == k && a.serial == serial && a.slot == n
  if mine.any s.atomHeld then some (mine.map (·.laneAt (s.laneRecord k me))) else none

/-- The update is one that a wash stalls. -/
def State.isStalled (s : State) (k : Nat) (t : Stroke) (a : AtomReq) : Bool :=
  a.stroke == k && (match t.run.inst with
    | some i => i.serial == a.serial && ((i.slots[a.slot]?).bind (s.stalledLanes k i.serial a.slot)).isSome
    | none => false)

/-- The slot is one of the waiting slots of R358, or its write is stalled by a wash (R267). -/
def State.slotWaits (s : State) (k : Nat) (i : Instance) (n : Nat) (me : SlotSt) : Bool :=
  i.waitsAt n me ||
    (me.mode == .held && (i.instr n).any writesWindow && s.holdsOn k) ||
    (s.stalledLanes k i.serial n me).isSome ||
    (s.svc.washes.any fun w => w.loader == k && w.serial == i.serial && w.slot == n) ||
    (s.svc.book.reads.any fun c => c.stroke == k && c.serial == i.serial && c.slot == n) ||
    (s.svc.book.calls.any fun c => c.stroke == k && c.serial == i.serial && c.slot == n && c.index.isNone && c.waited)

/-- The slot has sent what a freeze withdraws and a round edge does not wait for: an AFADD that has not been applied (R246), a pipeline action that is not
begun (R322). -/
def State.slotSent (s : State) (k : Nat) (i : Instance) (n : Nat) : Bool :=
  (s.net.atoms.any fun a => a.stroke == k && a.serial == i.serial && a.slot == n && isAdd a.kind) ||
    (s.svc.acts.any fun a => a.stroke == k && a.serial == i.serial && a.slot == n && a.todo.isSome)

def Stroke.at (t : Stroke) (k : Nat) (i : Instance) (n : Nat) (me : SlotSt) : Ctx := { k, n, st := t, ins := i, me, stale := false }

/-- The instance is waiting: some slot satisfies `wait`, and nothing in it moves but such slots. -/
def onlyThese (k : Nat) (t : Stroke) (i : Instance) (wait : Nat → SlotSt → Bool) : Bool :=
  let each := fun (f : Nat → SlotSt → Bool) => (span 0 i.slots.length).map fun n => match i.slots[n]? with
    | some me => f n me
    | none => false
  (each wait).any id && (each fun n me => !(t.at k i n me).movesNow || wait n me).all id

/-- R152: nothing moves but the waiting slots. -/
def State.onlyWaits (s : State) (k : Nat) (t : Stroke) (i : Instance) : Bool := onlyThese k t i (s.slotWaits k i)

/-- R358, R246, R322: nothing that a round edge waits for is left in the instance. -/
def State.edgeWaits (s : State) (k : Nat) (t : Stroke) (i : Instance) : Bool :=
  onlyThese k t i fun n me => s.slotWaits k i n me || s.slotSent k i n

/-- A stream-mode instance is between iterations: no token of an earlier iteration is in flight (R160). -/
def betweenIterations (k : Nat) (t : Stroke) (i : Instance) : Bool :=
  i.stream && (span 0 i.slots.length).all fun n => match i.slots[n]?, i.instr n with
    | some me, some ins =>
      me.mode == .ready && me.out1.isNone && me.out2.isNone && !(me.drop && me.portB.isSome) &&
        (n == 0 || (formOf ins me).quota (t.at k i n me) ≤ me.done)
    | _, _ => true

/-! ## Candidates (R150, R151) -/

/-- A candidate: stroke, aging key, physical channel, level, and for a parked stroke its handler entry. -/
structure Candidate where
  stroke : Nat
  key : Nat
  chan : Nat
  level : Nat
  entry : Option HandlerEntry
  deriving DecidableEq, Repr

/-- The level of a candidate: its base priority raised by waiting, up to 7. -/
def levelOf (r : StrokeRun) (key base : Nat) : Nat := min 7 (base + tabGet r.age key 0)

/-- The handlers of a parked stroke that are runnable (R147). -/
def runnableHandlers (u : UnitSt) (k : Nat) (t : Stroke) : List Candidate :=
  u.handlers.filterMap fun e =>
    if e.2.stroke == k && !e.2.masked && !(u.inbox e.1).isEmpty then
      some { stroke := k, key := e.1 - t.decl.chbase, chan := e.1, level := levelOf t.run (e.1 - t.decl.chbase) e.2.prio, entry := some e.2 }
    else none

def candidatesOf (u : UnitSt) (k : Nat) (t : Stroke) : List Candidate :=
  if t.run.frozen || t.run.ending.isSome then []
  else
    match t.run.state with
    | .ready => [{ stroke := k, key := 64, chan := t.decl.chbase + t.regs.curch, level := levelOf t.run 64 t.run.prio, entry := none }]
    | .parked => runnableHandlers u k t
    | _ => []

def State.candidates (s : State) (u : Nat) : List Candidate :=
  (s.strokes.filter fun e => unitOf e.1 == u && !(s.rounds.freezes.any (·.folio == e.2.decl.folio))).flatMap fun e =>
    candidatesOf (s.unit u) e.1 e.2

/-- Regions of a unit that hold no stroke. -/
def State.freeRegions (s : State) (u : Nat) : List Nat :=
  (span 0 (regionsOf u)).filter fun r => !(s.strokes.any fun e => unitOf e.1 == u && e.2.run.region == some r)

/-- Distance of a channel after the one chosen last, round the 64 channels. -/
def turnsTo (last ch : Nat) : Nat := (ch + 64 - (last + 1) % 64) % 64

/-- The winner: the highest level, then the first in round-robin order. -/
def bestOf (last : Nat) : List Candidate → Option Candidate
  | [] => none
  | c :: t =>
    match bestOf last t with
    | none => some c
    | some d => if c.level > d.level || (c.level == d.level && turnsTo last c.chan ≤ turnsTo last d.chan) then some c else some d

/-! ## Placing (R149–R151) -/

/-- R304: the tag that a handler start takes: the head word of a token channel, on a sampler core of any channel. -/
def UnitSt.startTag (u : UnitSt) (sampler : Bool) (ch : Nat) (old : Word) : Word :=
  if sampler || (tabFind u.pipe.tokens ch).isSome then
    match tabGet u.inboxes ch [] with
    | w :: _ => w.word
    | [] => old
  else old

/-- The washes of a stroke that have been withdrawn issue again (R269). -/
def State.reissueWashes (s : State) (k : Nat) : State :=
  s.modSvc fun v => { v with washes := v.washes.map fun w => if w.loader == k then { w with withdrawn := false } else w }

/-- A stroke is placed in a region; one that met an absent page begins a phase as it resumes (R233). The waiting count of the candidate chosen restarts (R151). -/
def State.place (s : State) (u r : Nat) (c : Candidate) : State :=
  let s := (s.modUnit u fun x => { x with lastChosen := c.chan }).reissueWashes c.stroke
  match c.entry with
    | some e =>
      s.modStroke c.stroke fun t =>
        { t with regs := { t.regs with pc := e.entry, curch := c.key,
                                       gentag := (s.unit u).startTag (isSampler u) c.chan t.regs.gentag },
                 run := { t.run with state := .run, region := some r, prio := e.prio, age := tabDel t.run.age c.key, forced := false, startCh := some c.chan,
                                     stable := [] } }
    | none =>
      s.modRun c.stroke fun q =>
        { q with state := .run, region := some r, age := tabDel q.age c.key, forced := false,
                 stable := if q.waitPage.isSome then [] else q.stable, waitPage := none }

/-- SELECTOR: a free region takes the winning candidate. -/
def selector (u : Nat) (s : State) : State :=
  if (s.unit u).still || isScribe u then s
  else
    match bestOf (s.unit u).lastChosen (s.candidates u) with
    | none => s
    | some c =>
      match s.freeRegions u with
      | [] => s
      | r :: rest =>
        -- only a READY stroke goes back to the region it left, not one that waited for a page
        let back := (s.stroke c.stroke).bind fun t => if t.run.waitPage.isNone then some t.run.lastRegion else none
        s.place u (match c.entry, back with
          | none, some b => if (r :: rest).contains b then b else r
          | _, _ => r) c

def execSelector (u : Nat) (s : State) : Host.Outcome State Fault Refusal := .next (selector u s)

/-- HANDLER_AGING: a candidate has waited 1,024 cycles more: its level rises, up to 7. -/
def handlerAging (k ch : Nat) (s : State) : State :=
  if (s.candidates (unitOf k)).any fun c => c.stroke == k && c.key == ch && c.level < 7 then
    s.modRun k fun r => { r with age := tabPut r.age ch (tabGet r.age ch 0 + 1) }
  else s

def execHandlerAging (k ch : Nat) (s : State) : Host.Outcome State Fault Refusal := .next (handlerAging k ch s)

/-- A call that waits for room, and a read that waits for catch-up, are unperformed: their slots fire again (R291). -/
def State.withdrawCalls (s : State) (k : Nat) : State :=
  let mine := s.svc.book.calls.filter fun c => c.stroke == k && c.index.isNone && (s.inst k).any (·.serial == c.serial)
  let s := mine.foldl (fun s c => s.unsend k c.slot) s
  let s := (s.svc.book.reads.filter (·.stroke == k)).foldl (fun s c =>
    if (s.inst k).any (·.serial == c.serial) then s.unsend k c.slot else s) s
  s.modSvc fun v => { v with book := { v.book with
    calls := v.book.calls.filter fun c => !(c.stroke == k && c.index.isNone),
    reads := v.book.reads.filter (·.stroke != k) } }

/-- Updates of the running instance that a wash stalls are unperformed: their slots fire again, a vector atomic for its lanes left (R243, R267). -/
def State.withdrawStalled (s : State) (k : Nat) : State :=
  match s.inst k with
  | none => s
  | some i =>
    (span 0 i.slots.length).foldl (fun s n =>
      match (i.slots[n]?).bind fun me => (s.stalledLanes k i.serial n me).map fun l => l.foldl (fun t j => insertNat j t) me.lanes with
      | none => s
      | some l =>
        let s := s.modNet fun q => { q with atoms := q.atoms.filter fun a => !(a.stroke == k && a.serial == i.serial && a.slot == n) }
        let s := if (i.instr n).any isVectorAtomic then
            (s.setResume k (l.headD 0)).modSlot k n fun y => { y with lanes := l }
          else s
        s.unsend k n) s

/-- The waiting slots of a stroke stand unperformed (R122): its reads leave the queues of their banks, and its washes that have not read every member are
withdrawn until it goes on (R269). What a wash has read it keeps: the holds of those members are released, and the values it reads are to be the same (log
entry 80). -/
def State.withdrawWaits (s : State) (k : Nat) : State :=
  let s := ((s.withdrawCalls k).withdrawStalled k).modMem fun m => { m with waits := m.waits.filter (·.stroke != k) }
  s.modSvc fun v => { v with washes := v.washes.map fun w => if w.loader == k && !w.left.isEmpty then { w with withdrawn := true } else w }

/-- FORCED_YIELD: the stroke gives up its region at its next commit, or now when its instance may be spilled or none is loaded (R152, R153). -/
def forcedYield (k : Nat) (s : State) : State :=
  match s.stroke k with
  | none => s
  | some t =>
    let u := unitOf k
    if !t.running || !(s.freeRegions u).isEmpty || (s.candidates u).isEmpty then s
    else
      match t.run.inst with
      | some i =>
        if s.onlyWaits k t i || betweenIterations k t i then
          (s.withdrawWaits k).modRun k fun r => r.leave .ready
        else s.modRun k fun r => { r with forced := true }
      | none => s.modRun k fun r => r.leave .ready

def execForcedYield (k : Nat) (s : State) : Host.Outcome State Fault Refusal := .next (forcedYield k s)

/-! ## Rounds (R158–R161) -/

/-- R159: marker `n` goes along every seam route and every in-port binding, behind what was sent before it. -/
def State.pushMarkers (s : State) (n : Nat) : State :=
  let s := s.modEng fun e => { e with folios := e.folios.map fun f => { f with seams := f.seams.map fun r => { r with toks := r.toks ++ [.marker n] } } }
  { s with strokes := s.strokes.map fun e => (e.1, e.2.modRun fun r => { r with binds := r.binds.map fun b =>
      if b.1 < 64 then (b.1, { b.2 with ahead := b.2.ahead ++ [.marker n] }) else b }) }

/-- ROUND_MARKER_ISSUE: the round generator issues the next marker: on request, or at the period of recorded replay (R424). -/
def roundMarkerIssue (s : State) : State :=
  if s.rounds.requested || s.replayMode != 0 then
    let s := s.pushMarkers s.rounds.issued
    { s with rounds := { s.rounds with issued := s.rounds.issued + 1, requested := false } }
  else s

def execRoundMarkerIssue (s : State) : Host.Outcome State Fault Refusal := .next (roundMarkerIssue s)

/-- The place is a channel of the stroke. -/
def Stroke.ownsChan (t : Stroke) (k place : Nat) : Bool := place / 64 == unitOf k && t.owns (place % 64)

/-- The stroke that a word's sender is, or acts for. -/
def State.senderStroke (s : State) (w : NetWord) : Option Nat :=
  match w.sender with
  | .chsend k .. => some k
  | .stroke k => some k
  | .mcast id => (s.net.mcasts.find? (·.id == id)).map (·.stroke)
  | .action id => (s.svc.acts.find? (·.id == id)).map (·.stroke)
  | .engine _ => none

/-- R159: every item of round `n` or earlier bound for the stroke has arrived: words for its channels, update words for its handles among them, and the
replies, runs and matrix entries that it is owed (R204, R214). On seam routes and bindings the marker stands behind what has arrived. The counts of the
sender hold for its words in flight on links to peers (R413). -/
def State.markerReached (s : State) (k n : Nat) (t : Stroke) : Bool :=
  !(s.net.words.any fun w => w.round ≤ n && w.module == 0xFF && t.ownsChan k w.place) &&
    !(s.net.mcasts.any fun m => m.round ≤ n && !m.sent && m.places.any fun w => bits w.toNat 31 24 == 0xFF && t.ownsChan k (placeOfWord w.toNat)) &&
    !(s.linkWords.any fun w => w.round ≤ n && s.senderStroke w == some k) &&
    !(s.net.replies.any (·.stroke == k)) && !(s.net.atoms.any fun a => a.stroke == k && !isAdd a.kind && !s.isStalled k t a) &&
    !((s.unit (unitOf k)).lane.queue.any fun r => r.stroke == k && r.round ≤ n) &&
    !((s.unit (unitOf k)).matrix.queue.any fun e => e.stroke == k && e.round ≤ n)

/-- AFADDs of the stroke that have not been applied are unperformed: their slots fire again (R246). -/
def State.withdrawAdds (s : State) (k : Nat) : State :=
  let mine := s.net.atoms.filter fun a => a.stroke == k && isAdd a.kind
  let s := mine.foldl (fun s a => if (s.inst k).any (·.serial == a.serial) then s.unsend k a.slot else s) s
  s.modNet fun q => { q with atoms := q.atoms.filter fun a => !(a.stroke == k && isAdd a.kind) }

/-- Pipeline actions of the running instance that are not begun are unperformed: their slots fire again (R322). -/
def State.withdrawActs (s : State) (k : Nat) : State :=
  let mine := s.svc.acts.filter fun a => a.stroke == k && a.todo.isSome && (s.inst k).any (·.serial == a.serial)
  let s := mine.foldl (fun s a => s.unsend k a.slot) s
  s.modSvc fun v => { v with acts := v.acts.filter fun a => !mine.any (·.id == a.id) }

/-- A stroke freezes (R357): its waiting slots, AFADDs and actions not begun stand unperformed; a load that is cut short leaves its region empty (R153). -/
def State.freezeStroke (s : State) (k : Nat) : State :=
  (((s.withdrawWaits k).withdrawAdds k).withdrawActs k).modRun k fun r =>
    if r.inst.isNone && r.state == .run && r.region.isSome then { r.leave .ready with frozen := true } else { r with frozen := true }

/-- The stroke that holds a region. -/
def State.holder (s : State) (u r : Nat) : Option (Nat × Stroke) := s.strokes.find? fun e => unitOf e.1 == u && e.2.run.region == some r

/-- A region may pass its round-`n` edge: it holds no stroke, or one that R160 and R358 let pass. A run or matrix entry is a reply that its stroke is owed
(R204, R214): a region that the stroke has left does not wait for it (log entry 80). -/
def State.mayPass (s : State) (u r n : Nat) : Bool :=
  match s.holder u r with
  | none => true
  | some (k, t) =>
    s.markerReached k n t && (match t.run.inst with
      | none => t.run.state == .run || t.run.state == .trapped
      | some i => t.run.state == .run && !i.reloading && (betweenIterations k t i || s.edgeWaits k t i))

/-- A region passes its round-`n` edge, and freezes there when a FREEZE names that round. -/
def State.passEdge (s : State) (u r n : Nat) : State :=
  let s := s.modUnit u fun x => { x with edges := listSet x.edges r (n + 1) }
  match s.holder u r with
  | some (k, t) => if s.rounds.freezes.any fun q => q.folio == t.decl.folio && q.round ≤ n then s.freezeStroke k else s
  | none => s

/-- REGION_ROUND_EDGE: a region passes its next edge. A recording module writes its choices into the log first, and stalls while the ring has no room for
them (R424). -/
def regionRoundEdge (u r : Nat) (s : State) : State :=
  let n := (s.unit u).edges.getD r 0
  if n ≥ s.rounds.issued || r ≥ regionsOf u || !s.mayPass u r n then s
  else
    let s := s.writeLog
    if s.logStalls then s else s.passEdge u r n

def execRegionRoundEdge (u r : Nat) (s : State) : Host.Outcome State Fault Refusal := .next (regionRoundEdge u r s)

end Sys2Proof.Machine
end

