-- ==== Sys2Proof/Machine/Swap.lean ====
section
/-!
DEFINITION. Machine/Swap.lean: the session swap engines (R176, R390, R416, R417).
-/
namespace Sys2Proof.Machine

/-! ## The entry (Table 6-11) -/

def swapOp (e : ChainEntry) : Nat := bits (entryWord e 1) 3 0
def swapFmt (e : ChainEntry) : Nat := bits (entryWord e 1) 7 4
def swapEvict (e : ChainEntry) : Bool := bit (entryWord e 1) 8

/-- Valid queue pairs of a swap engine that serve a namespace (R417). -/
def State.swapPairs (s : State) (slab nsid : Nat) : List Nat :=
  (span 0 16).filter fun q =>
    let w := s.csrGet 0x4D slab (4 * q)
    bit w 63 && bits w 31 0 == nsid

def State.swapBad (s : State) (x : Chain) (e : ChainEntry) : Bool :=
  let nsid := entryWord e 5
  swapOp e > 1 || swapFmt e > 1 || entryWord e 2 % 65536 != 0 || entryWord e 3 == 0 || entryWord e 3 > 4096 || nsid == 0 ||
    nsid ≥ 0xFFFFFFFF || entryWord e 6 % 8 != 0 || (s.swapPairs x.slab nsid).isEmpty

/-- Commands of a slab's swap engine that are outstanding on a queue pair. -/
def State.outstanding (s : State) (slab q : Nat) : Nat :=
  (s.eng.chains.flatMap fun c =>
    if c.2.kind == 2 && c.2.slab == slab then (tabGet s.eng.swapCmds c.1 []).filter fun x => x.pair == q && x.status.isNone else []).length

/-- Places of a pair's submission queue: DEPTH holds their number minus 1, and one stays free. -/
def State.pairRoom (s : State) (slab q : Nat) : Bool := s.outstanding slab q < bits (s.csrGet 0x4D slab (4 * q)) 59 48

/-- The pair that takes the next command: the pairs of the namespace are used round-robin. -/
def State.nextPair (s : State) (x : Chain) (e : ChainEntry) : Nat :=
  let l := s.swapPairs x.slab (entryWord e 5)
  let last := tabGet s.eng.swapLast x.slab 15
  ((l.find? (· > last)).orElse fun _ => l.head?).getD 0

def swapQueueKey (slab q : Nat) : Nat := slab * 16 + q

/-- Entries that each queue of a pair holds. -/
def State.pairDepth (s : State) (slab q : Nat) : Nat := bits (s.csrGet 0x4D slab (4 * q)) 59 48 + 1

/-- Bytes are written into a queue in tier one: the entry's number, of `n` bytes, from the base in word `i` of the pair's description (R417). -/
def State.queuePut (s : State) (slab q i n place : Nat) (bs : List Byte) : State :=
  s.modMem fun m => m.commitWrite (physKey 0 (bits (s.csrGet 0x4D slab (4 * q + i)) 56 12 * 4096 + n * place)) (bs.take n)

/-- A command is stored in the submission queue of its pair, and the new tail is rung at the doorbell's bus address. -/
def State.issueCmd (s : State) (c : Nat) (x : Chain) (op nsid : Nat) (cmd : SwapCmd) : State :=
  let k := swapQueueKey x.slab cmd.pair
  let p := tabGet s.eng.swapQueues k (0, 0)
  let tail := (p.1 + 1) % s.pairDepth x.slab cmd.pair
  (s.queuePut x.slab cmd.pair 1 64 p.1 (Config.swapCommand op p.1 nsid cmd.lba cmd.count)).modEng fun g =>
    { g with swapLast := tabPut g.swapLast x.slab cmd.pair, swapQueues := tabPut g.swapQueues k (tail, p.2),
             swapBells := tabPut g.swapBells (s.csrGet 0x4D x.slab (4 * cmd.pair + 3)) tail,
             swapCmds := tabPut g.swapCmds c (tabGet g.swapCmds c [] ++ [cmd]) }

/-- The drive puts the completion of command `n` of the head entry at the head of the pair's completion queue, where the engine, which polls it, finds it. -/
def State.completeCmd (s : State) (c : Nat) (x : Chain) (n : Nat) (ok : Bool) : State :=
  let l := tabGet s.eng.swapCmds c []
  match l[n]? with
  | none => s
  | some cmd =>
    let k := swapQueueKey x.slab cmd.pair
    let p := tabGet s.eng.swapQueues k (0, 0)
    (s.queuePut x.slab cmd.pair 2 16 p.2 (Config.swapCompletion (bits (s.csrGet 0x4D x.slab (4 * cmd.pair)) 47 32) n ok)).modEng fun g =>
      { g with swapQueues := tabPut g.swapQueues k (p.1, (p.2 + 1) % s.pairDepth x.slab cmd.pair),
               swapCmds := tabPut g.swapCmds c (listSet l n { cmd with status := some ok }) }

/-- The commands of an entry that has completed are forgotten. -/
def State.dropCmds (s : State) (c : Nat) : State := s.modEng fun g => { g with swapCmds := tabDel g.swapCmds c }

/-- A byte of the namespace of an entry, behind the engine's root port. -/
def lbaKey (x : Chain) (e : ChainEntry) (lba : Nat) : Nat :=
  driveKey ((if x.slab == 0 then 0 else 1) * 2 ^ 32 + entryWord e 5) (4096 * (entryWord e 4 + lba))

/-! ## Formats -/

def zeroGranule (l : List Byte) : Bool := l.all (· == 0)

/-- The granules of a page. -/
def granulesOf : List Byte → Nat → List (List Byte)
  | _, 0 => []
  | l, n + 1 => l.take 16 :: granulesOf (l.drop 16) n

/-- Bits of a bitmap, as bytes. -/
def bitmapBytes : List Bool → Nat → List Byte
  | _, 0 => []
  | l, n + 1 =>
    BitVec.ofNat 8 ((l.take 8).foldr (fun b acc => 2 * acc + (if b then 1 else 0)) 0) :: bitmapBytes (l.drop 8) n

/-- Bytes that nothing determines. -/
def State.drawBytes (s : State) : Nat → List Byte × State
  | 0 => ([], s)
  | n + 1 =>
    let (w, s) := s.drawWord
    let (l, s) := s.drawBytes n
    (BitVec.ofNat 8 w.toNat :: l, s)

/-- The image of a page on the drive: bytes of whole LBAs. The bytes past the bitmap and the padding are open. -/
def State.swapImage (s : State) (fmt : Nat) (page : List Byte) : List Byte × State :=
  if fmt == 0 then (page, s)
  else
    let gs := granulesOf page 4096
    let body := (gs.filter (!zeroGranule ·)).flatten
    let (p, s) := s.drawBytes 3584
    let (q, s) := s.drawBytes ((4096 - body.length % 4096) % 4096)
    (bitmapBytes (gs.map (!zeroGranule ·)) 512 ++ p ++ body ++ q, s)

/-- Granules of a GRANZ image: set bits take the next granule of the body. -/
def granzPage : List Bool → List Byte → List Byte
  | [], _ => []
  | true :: t, l => l.take 16 ++ granzPage t (l.drop 16)
  | false :: t, l => List.replicate 16 0 ++ granzPage t l

/-- The page at an LBA of the drive, and the LBAs it takes. -/
def State.swapPage (s : State) (x : Chain) (e : ChainEntry) (lba : Nat) : List Byte × Nat :=
  if swapFmt e == 0 then (s.mem.bytes (lbaKey x e lba) 65536, 16)
  else
    let map := (s.mem.bytes (lbaKey x e lba) 512).flatMap fun b => (span 0 8).map fun i => bit b.toNat i
    let n := (map.filter id).length
    (granzPage map (s.mem.bytes (lbaKey x e (lba + 1)) (16 * n)), 1 + (16 * n + 4095) / 4096)

/-! ## Pages -/

/-- A swap entry's page: its leaf, or the completion code. -/
def State.swapLeaf (s : State) (c : EngCtx) (off kind : Nat) : Except Nat Leaf :=
  match s.leafFor c.part c.priv c.region off kind with
  | .error _ => .error 6
  | .ok l => if l.level < 4 then .error 7 else if !bit l.w1 63 then .error 6 else .ok l

/-- Whether the engine can send the next command of its entry. -/
inductive Issue where
  /-- every page has its command, or the queues are full, or an earlier command must complete first -/
  | none
  | cmd (s : State) (x : SwapCmd)
  /-- the page gives the entry this completion code -/
  | code (n : Nat)
  | wait (region page : Nat)

/-- The LBA after the commands sent so far. -/
def lbaAfter (l : List SwapCmd) : Nat := (l.getLast?.map fun x => x.lba + x.count).getD 0

/-- The Write command of the next page: its image is taken as the command is sent. -/
def State.nextWrite (s : State) (k : EngCtx) (x : Chain) (e : ChainEntry) (l : List SwapCmd) : Issue :=
  let i := l.length
  let q := s.nextPair x e
  if i ≥ entryWord e 3 || !s.pairRoom x.slab q then .none
  else
    let off := (entryWord e 2 + 65536 * i) % 2 ^ 64
    match s.swapLeaf k off 1 with
    | .error c => .code c
    | .ok _ =>
      match s.engAt k.part k.priv k.region off 1 with
      | .fault _ => .code 6
      | .absent r p => .wait r p
      | .ok p =>
        if (s.mem.poisoned p.key 65536).isSome then .code 6
        else
          let (bs, s) := s.swapImage (swapFmt e) (s.mem.engineBytes k.rd p.key 65536)
          .cmd s { pair := q, page := i, lba := lbaAfter l, count := bs.length / 4096, data := bs }

/-- The Read command of the next page. The length of a GRANZ page is known once the one before it has been read. -/
def State.nextRead (s : State) (k : EngCtx) (x : Chain) (e : ChainEntry) (l : List SwapCmd) : Issue :=
  let i := l.length
  let q := s.nextPair x e
  if i ≥ entryWord e 3 || !s.pairRoom x.slab q || (swapFmt e == 1 && l.any (·.status.isNone)) then .none
  else
    match s.swapLeaf k ((entryWord e 2 + 65536 * i) % 2 ^ 64) 2 with
    | .error c => .code c
    | .ok _ => .cmd s { pair := q, page := i, lba := lbaAfter l, count := (s.swapPage x e (lbaAfter l)).2 }

/-- A Write that the drive acknowledges has put its bytes on it. -/
def swapWritten (x : Chain) (e : ChainEntry) (cmd : SwapCmd) (s : State) : State :=
  s.modMem fun m => m.setBytes (lbaKey x e cmd.lba) cmd.data

/-- A Read that has succeeded has put its page into the shadow page. -/
def swapRead (k : EngCtx) (x : Chain) (e : ChainEntry) (cmd : SwapCmd) (s : State) : Option State :=
  match s.swapLeaf k ((entryWord e 2 + 65536 * cmd.page) % 2 ^ 64) 2 with
  | .error _ => none
  | .ok l =>
    let p : Phys := { tier := bits l.w0 11 10, pa := entryPa l.w1, leaf := l, region := k.region, off := entryWord e 2 }
    if s.inSc p then none else some (s.modMem fun m => m.commitWrite p.key (s.swapPage x e cmd.lba).1)

/-- R390: P := 0 in the leaf of each page. -/
def State.evictPages (s : State) (c : EngCtx) (a : Nat) : List Nat → State
  | [] => s
  | i :: t =>
    let s := match s.leafFor c.part c.priv c.region ((a + 65536 * i) % 2 ^ 64) 1 with
      | .ok l => if bit l.w0 62 then s.writeLeaf l (l.w0 - 2 ^ 62) l.w1 else s
      | .error _ => s
    s.evictPages c a t

/-- Arrival words of the pages, in ascending order. -/
def State.arrivals (s : State) (region page : Nat) : Nat → State
  | 0 => s
  | n + 1 => (s.postArrivals fun r p => r == region && p == page).arrivals region (page + 1) n

/-! ## The engine -/

/-- What a command of an entry that has succeeded does. -/
def swapDone (op : Nat) (k : EngCtx) (x : Chain) (e : ChainEntry) (cmd : SwapCmd) (s : State) : Option State :=
  if op == 0 then some (swapWritten x e cmd s) else swapRead k x e cmd s

/-- Every command is complete: the entry ends. A swap-out evicts its pages; a swap-in publishes them and posts arrival words. -/
def swapEnd (op c : Nat) (x : Chain) (e : ChainEntry) (s : State) : State :=
  let k := engCtx x e
  let n := entryWord e 3
  let a := entryWord e 2
  if (op == 1 || swapEvict e) && s.inFlight (inPages k.region a n) then s
  else if (s.finishEntry c x e 1).chainWaits c then s.finishEntry c x e 1
  else if op == 0 then
    let s := (s.finishEntry c x e 1).dropCmds c
    if swapEvict e then (s.evictPages k a (span 0 n)).invalidate (inPages k.region a n) else s
  else
    match s.checkPages k.part k.priv k.region a n 2 n 0 [] with
    | .ok leaves =>
      let s := (s.exchange k.region leaves).invalidate (inPages k.region a n)
      (((s.finishEntry c x e 1).dropCmds c).engineBeats x (65536 * n)).arrivals k.region (a / 65536) n
    | _ => (s.finishEntry c x e 6).dropCmds c

/-- Command `cmd` of the entry completes with a status. -/
def swapStatus (op c cmd : Nat) (ok : Bool) (k : EngCtx) (x : Chain) (e : ChainEntry) (l : List SwapCmd) (s : State) : State :=
  match l[cmd]? with
  | none => s
  | some y =>
    if y.status.isSome then s
    else if !ok then s.completeCmd c x cmd false
    else match swapDone op k x e y s with
      | some s => s.completeCmd c x cmd true
      | none => s.completeCmd c x cmd false

/-- One action of a swap engine on its head entry: it sends the next command while it can, else finds command `cmd` complete with a status;
with every command complete the entry ends. An error, of a page or of a command, ends it once the commands sent have completed. -/
def swapRun (op c cmd : Nat) (ok : Bool) (x : Chain) (e : ChainEntry) (s : State) : State :=
  let k := engCtx x e
  let l := tabGet s.eng.swapCmds c []
  let failed := l.any (·.status == some false)
  let idle := l.all (·.status.isSome)
  match (if failed then Issue.none else if op == 0 then s.nextWrite k x e l else s.nextRead k x e l) with
  | .cmd s y => (s.issueCmd c x op (entryWord e 5) y).engineBeats x (if op == 0 then 65536 else 0)
  | .wait r p => if idle then s.chainWait c r p else swapStatus op c cmd ok k x e l s
  | .code n => if idle then (s.finishEntry c x e n).dropCmds c else swapStatus op c cmd ok k x e l s
  | .none =>
    if !idle then swapStatus op c cmd ok k x e l s
    else if failed then (s.finishEntry c x e 6).dropCmds c
    else swapEnd op c x e s

/-- Run the head entry of a swap chain when its operation is `op`. -/
def swapEntry (op c cmd : Nat) (ok : Bool) (s : State) : State :=
  match s.chain c with
  | none => s
  | some x =>
    if x.kind != 2 || x.waiting.isSome then s
    else
      let go := fun (s : State) (x : Chain) (e : ChainEntry) =>
        if e.finished then s
        else if s.swapBad x e then s.finishEntry c x e 7
        else if swapOp e != op then s
        else swapRun op c cmd ok x e s
      match x.entries with
      | e :: _ => go s x e
      | [] =>
        match s.takeHead c x with
        | .nothing => s
        | .wait s => s
        | .entry s x e => go s x e

/-- SWAP_OUT: `done` is a command and the status that it completes with, when one is to complete. -/
def swapOut (c : Nat) (done : Nat × Bool) (s : State) : State := swapEntry 0 c done.1 done.2 s

def execSwapOut (c : Nat) (done : Nat × Bool) (s : State) : Host.Outcome State Fault Refusal := .next (swapOut c done s)

/-- SWAP_IN: with an error status nothing is published. -/
def swapIn (c : Nat) (done : Nat × Bool) (s : State) : State := swapEntry 1 c done.1 done.2 s

def execSwapIn (c : Nat) (done : Nat × Bool) (s : State) : Host.Outcome State Fault Refusal := .next (swapIn c done s)

end Sys2Proof.Machine
end

