-- ==== Sys2Proof/Machine/System.lean ====
section
/-!
DEFINITION. Machine/System.lean: CSRR and CSRW and the system registers (R371–R376, R398, R400–R417, R423, R424, R429), TRAP and RFT (R350–R356, R366), CFGINV
and HALT (R369, R370), TLBINV, TLBPROBE and page requests (R389, R395–R397).
-/
namespace Sys2Proof.Machine

/-! ## What the registers are (Tables 14-11, 16-1, R398, R429) -/

inductive Holder where
  | stroke | nib | slab | module
  deriving DecidableEq, Repr

/-- A register: its holder, its first index and how many, and the privileges that read and write it. -/
structure CsrShape where
  holder : Holder
  first : Nat := 0
  count : Nat := 1
  read : Nat := 1
  write : Option Nat := some 1
  deriving DecidableEq, Repr

def csrShape (code : Nat) : Option CsrShape :=
  if code == 0x01 || code == 0x02 then some { holder := .stroke, read := 0, write := some 0 }
  else if 0x03 ≤ code && code ≤ 0x11 then some { holder := .stroke, read := 0, write := none }
  else
    match code with
    | 0x20 => some { holder := .nib, count := 2, read := 0, write := some 0 }
    | 0x21 => some { holder := .nib, read := 0, write := some 0 }
    | 0x40 => some { holder := .module }
    | 0x41 => some { holder := .module, count := 512 }
    | 0x42 => some { holder := .slab, count := 24 }
    | 0x43 => some { holder := .module, count := 256 }
    | 0x44 => some { holder := .slab, count := 512 }
    | 0x45 => some { holder := .module }
    | 0x46 => some { holder := .slab, count := 160 }
    | 0x47 => some { holder := .module, count := 256 }
    | 0x48 => some { holder := .slab, count := 256 }
    | 0x49 => some { holder := .slab }
    | 0x4A => some { holder := .module, count := 128 }
    | 0x4B => some { holder := .module, count := 8, read := 2, write := some 2 }
    | 0x4C => some { holder := .module, first := 1, count := 255, write := some 2 }
    | 0x4D => some { holder := .slab, count := 64 }
    | 0x50 => some { holder := .module }
    | 0x51 => some { holder := .slab }
    | 0x52 => some { holder := .module, count := 256 }
    | 0x60 => some { holder := .slab, count := 11, read := 2, write := some 2 }
    | 0x61 => some { holder := .slab, read := 2, write := some 2 }
    | 0x62 => some { holder := .slab, count := 168, read := 2, write := some 2 }
    | 0x63 => some { holder := .module, count := 2, read := 2, write := some 2 }
    | 0x64 => some { holder := .slab, count := 8, read := 2, write := some 2 }
    | 0x65 => some { holder := .slab, read := 2, write := some 2 }
    | 0x66 => some { holder := .module, read := 2, write := none }
    | _ => none

/-- A selector taken apart (Table 14-10): code, index, slab. -/
structure Selected where
  code : Nat
  index : Nat
  slab : Nat
  shape : CsrShape
  deriving DecidableEq, Repr

/-- R371, R372: the register that a selector names for a stroke of a unit, when it names one. The swap queues are those of slabs 0 and 11;
a sampler core has neither a lane pipe nor a matrix engine. -/
def selected (u a : Nat) : Option Selected :=
  let code := bits a 7 0
  let index := bits a 16 8
  let xs := bit a 21
  let slab := bits a 20 17
  match csrShape code with
  | none => none
  | some sh =>
    let own := if xs then slab else slabOf u
    if a / 2 ^ 22 != 0 || index < sh.first || index ≥ sh.first + sh.count then none
    else if sh.holder != .slab && (xs || slab != 0) then none
    else if !xs && slab != 0 then none
    else if slab > 11 then none
    else if code == 0x4D && own != 0 && own != 11 then none
    else if sh.holder == .nib && !isNib u then none
    else some { code, index, slab := if sh.holder == .slab then own else 0, shape := sh }

/-! ## Reading -/

/-- PHASENO (Table 9-3). -/
def phaseWord (r : StrokeRegs) (pend : Nat) : Word := word (r.phaseNumber.toNat + pend % 8192 * 2 ^ 32)

/-- A per-stroke register as at instance start. -/
def strokeCsr (x : Ctx) (code : Nat) : Word :=
  let r := x.ins.start
  let d := x.st.decl
  match code with
  | 0x01 => word r.flags.toNat
  | 0x02 => word r.aregion.toNat
  | 0x03 => phaseWord r x.ins.pend0
  | 0x04 => r.gentag
  | 0x05 => r.wstat
  | 0x06 => r.cpstat
  | 0x07 => r.cplast
  | 0x08 => word d.chbase
  | 0x09 => word d.frank
  | 0x0A => word d.srank
  | 0x0B => word d.inst.toNat
  | 0x0C => word r.curch
  | 0x0D => r.trapcause
  | 0x0E => r.trapslot
  | 0x0F => r.trapval
  | 0x10 => r.resumeidx
  | _ => word (unitPriv (unitOf x.k))

def nibCsr (u : UnitSt) (code index : Nat) : Word :=
  if code == 0x21 then word u.matrix.mflags.toNat else if index == 0 then u.lane.lflags0 else u.lane.lflags1

/-- R373, R376, R398, R414: registers whose reading is not what was written. TLBMISS counts the walks. -/
def State.systemCsr (s : State) (code slab index : Nat) : Word × State :=
  match code with
  | 0x40 => if s.rounds.issued == 0 then s.drawWord else (word (s.rounds.issued - 1), s)
  | 0x45 => (0, s)
  | 0x4B => (0, s)
  | 0x51 => (tabGet s.mem.misses slab 0, s)
  | _ => (word (s.csrGet code slab index), s)

def csrr (x : Ctx) (g : Args) (s : State) : Fire :=
  match selected (unitOf x.k) g.av.toNat with
  | none => .trap s trCSRBAD g.av
  | some c =>
    if unitPriv (unitOf x.k) < c.shape.read then .trap s trPRIVCSR g.av
    else
      match c.shape.holder with
      | .stroke => .value s (strokeCsr x c.code)
      | .nib => .value s (nibCsr (s.unit (unitOf x.k)) c.code c.index)
      | _ => let (w, s) := s.systemCsr c.code c.slab c.index; .value s w

def execCsrr (t : BitVec 9) (p : BitVec 2) (s : State) : Host.Outcome State Fault Refusal :=
  fire (.csrr t p) (fun x g s => csrr x g s) s

/-! ## Writing -/

/-- What a write of a system register comes to. -/
inductive Write where
  /-- the value breaks the register's layout -/
  | bad
  /-- the write holds as a waiting instance -/
  | wait
  | ok (old : Word) (s : State)

/-- The bits of `v` in the listed fields: the others are reserved and ignored (R7). -/
def keepFields (v : Nat) : List (Nat × Nat) → Nat
  | [] => 0
  | (hi, lo) :: t => bits v hi lo * 2 ^ lo + keepFields v t

/-- The fields of a register. -/
def csrFields (code index : Nat) : List (Nat × Nat) :=
  match code with
  | 0x41 => if index % 2 == 0 then [(63, 63), (62, 62), (61, 60), (56, 16)] else [(56, 16), (8, 0)]
  | 0x42 => [(14, 8), (5, 0)]
  | 0x43 => [(63, 63), (17, 0)]
  | 0x44 => [(63, 63), (7, 0)]
  | 0x46 => [(7, 0)]
  | 0x47 => [(63, 62), (55, 0)]
  | 0x48 => [(7, 0)]
  | 0x49 => [(31, 0)]
  | 0x4A => if index % 2 == 0 then [(63, 63), (15, 0)] else [(8, 0)]
  | 0x4D => if index % 4 == 0 then [(63, 63), (59, 0)] else if index % 4 == 3 then [(63, 0)] else [(56, 12)]
  | 0x50 => [(63, 63), (56, 20)]
  | 0x52 => [(63, 63), (56, 12)]
  | 0x60 => [(31, 0)]
  | 0x61 => [(56, 0)]
  | 0x62 => [(8, 0)]
  | 0x63 => if index == 0 then [(63, 62), (31, 0)] else [(56, 0)]
  | 0x64 => [(3, 0)]
  | 0x65 => [(15, 0)]
  | _ => [(63, 0)]

/-- A plain write: the value it replaced is sent. -/
def State.csrSwap (s : State) (code slab index v : Nat) : Write :=
  .ok (word (s.csrGet code slab index)) (s.csrPut code slab index v)

/-- R374: two ranges of one tier overlap. -/
def OwnRange.meets (a b : OwnRange) : Bool := a.num != b.num && a.tier == b.tier && a.base ≤ b.last && b.base ≤ a.last

/-- R374: the valid ranges keep their rules. -/
def rangesOk (l : List OwnRange) : Bool :=
  (l.all fun r => !(l.any r.meets)) && (distinct ((l.filter (·.sc)).map (·.well))).length ≤ 64

/-- R374: an atomic or `.sc` access bound to a range has not been applied. -/
def State.boundTo (s : State) (r : OwnRange) : Bool :=
  s.net.atoms.any fun a => a.node == r.well && physKey r.tier r.base ≤ a.key && a.key ≤ physKey r.tier r.last

/-- R374: LAST of a range lies below its BASE. -/
def State.lastBelow (s : State) (e : Nat) : Bool := bits (s.csrGet 0x41 0 (2 * e + 1)) 56 16 < bits (s.csrGet 0x41 0 (2 * e)) 56 16

/-- R374: OWNRNG. A well that loses a range frees its sequence contexts. -/
def ownWrite (index v : Nat) (s : State) : Write :=
  let bad := if index % 2 == 0 then bits v 61 60 == 3 else bits v 8 5 > 11 || bits v 4 0 > 23
  let old := s.ownRange (index / 2)
  let s' := s.csrPut 0x41 0 index v
  if bad || s'.lastBelow (index / 2) || !rangesOk s'.ownRanges then .bad
  else if index % 2 == 0 && old.any s.boundTo then .wait
  else
    let new := s'.ownRange (index / 2)
    let s' := match old with
      | some r => if new == old then s' else s'.modNet fun q => { q with afctx := q.afctx.filter (·.node != r.well) }
      | none => s'
    .ok (word (s.csrGet 0x41 0 index)) s'

/-- Bytes that the logs of a home well take (R277). -/
def State.logBytes (s : State) (slab well : Nat) : Nat :=
  (s.svc.book.objects.filter fun o => o.2.hslab == slab && o.2.hwell == well).foldl (fun n o => n + 2 ^ o.2.caplog * 64) 0

/-- Pending granules that a well holds (R229): which well holds one, no rule says. -/
def State.pendAt (s : State) (slab well : Nat) : Nat :=
  (s.mem.pendGranules.filter fun g => Config.wellOf g.2 == slab * 32 + well).length

/-- R375: WELLSHARE. -/
def shareWrite (slab well v : Nat) (s : State) : Write :=
  let pend := bits v 5 0
  if pend > 32 || pend + bits v 14 8 > 128 || bits v 14 8 * 65536 < s.logBytes slab well then .bad
  else if s.mem.pendGranules.length > pend * 4096 && s.pendAt slab well > pend * 4096 then .wait
  else s.csrSwap 0x42 slab well v

/-- R376: TRAPPL names a place on a supervisor nib, when V is 1. -/
def trapplBad (v : Nat) : Bool := bit v 63 && (bits v 17 14 > 11 || !(bits v 13 6 == 160 || bits v 13 6 == 161))

/-- R376: a context that is assigned has its area zeroed. -/
def smpctxWrite (slab index v : Nat) (s : State) : Write :=
  let key := candKey (unitNum slab (0xF0 + index / 256)) (index % 256 * 32768)
  let zero := fun (s : State) => s.modMem fun m =>
    ({ m with cells := m.cells.filter fun c => !(key ≤ c.1 && c.1 < key + 32768) } : Memory).heal key 32768
  (if bit v 63 then zero s else s).csrSwap 0x44 slab index v

/-- R376, R170: the tear-down of a job. -/
def jobkillWrite (job : Nat) (s : State) : Write :=
  .ok 0 (s.modEng fun e => { e with jobs := e.jobs.map fun j => if j.id == job then { j with killed := true } else j })

/-- R401: NIBPART, refused while the nib is in use. -/
def nibpartWrite (slab n v : Nat) (s : State) : Write :=
  let u := unitNum slab n
  if s.strokes.any (fun e => unitOf e.1 == u) || !(s.unit u).windows.isEmpty then .bad else s.csrSwap 0x46 slab n v

/-- R414: KEYSLOT: the staged key goes into the slot and the staging is zeroed, or the slot is erased. -/
def keyslotWrite (slot v : Nat) (s : State) : Write :=
  let old := word (s.csrGet 0x4C 0 slot)
  if bit v 63 then
    let s' := (span 0 8).foldl (fun (q : State) i => (q.csrPut 0x80 0 (slot * 8 + i) (s.csrGet 0x4B 0 i)).csrPut 0x4B 0 i 0) s
    .ok old (s'.csrPut 0x4C 0 slot (2 ^ 63))
  else
    let s' := (span 0 8).foldl (fun (q : State) i => q.csrPut 0x80 0 (slot * 8 + i) 0) s
    .ok old (s'.csrPut 0x4C 0 slot 0)

/-- R423: ROLETAB: a new site takes over the nib's state, in this one step; decoded images are not copied, and the spare lane stays behind. -/
def roletabWrite (slab n v : Nat) (s : State) : Write :=
  let u := unitNum slab n
  if bits v 7 0 ≥ nibSites then .bad
  else
    let old := s.csrGet 0x62 slab n
    let site := bits v 7 0
    let s' := if bits old 7 0 == site then
        if bit v 8 && !bit old 8 then s.modUnit u fun x => { x with moved := false } else s
      else (s.modUnit u fun x => { x with images := [], badImages := [], moved := true, lane := { x.lane with spareFor := none } }).modPlat
        fun p => { p with spares := tabPut p.spares (slab * 256 + site) true }
    s'.csrSwap 0x62 slab n v

/-- R373: ROUND: the next marker is requested, and its number sent. -/
def roundWrite (s : State) : Write :=
  .ok (word s.rounds.issued) { s with rounds := { s.rounds with requested := true } }

/-- A write of a system register. -/
def State.csrWrite (s : State) (code slab index : Nat) (val : Word) : Write :=
  let v := keepFields val.toNat (csrFields code index)
  match code with
  | 0x40 => roundWrite s
  | 0x41 => ownWrite index v s
  | 0x42 => shareWrite slab index v s
  | 0x43 => if trapplBad v then .bad else s.csrSwap code slab index v
  | 0x44 => smpctxWrite slab index v s
  | 0x45 => jobkillWrite (bits val.toNat 11 0) s
  | 0x46 => nibpartWrite slab index v s
  | 0x4A => if index % 2 == 0 && bit v 63 && bits v 15 0 == 0 then .bad else s.csrSwap code slab index v
  | 0x4B => .ok 0 (s.csrPut code slab index v)
  | 0x4C => keyslotWrite index v s
  | 0x4D =>
    if (index % 4 == 0 && bit v 63 && bits v 59 48 == 0) || ((index % 4 == 1 || index % 4 == 2) && v ≥ tierOne) then .bad
    else if s.outstanding slab (index / 4) > 0 then .wait
    else s.csrSwap code slab index v
  | 0x50 => if bits v 56 20 * 2 ^ 20 + 2 ^ 20 > tierOne then .bad else s.csrSwap code slab index v
  | 0x51 => .ok (tabGet s.mem.misses slab 0) (s.modMem fun m => { m with misses := tabPut m.misses slab val })
  | 0x52 => if bits v 56 12 * 4096 + 4096 > tierOne then .bad else s.csrSwap code slab index v
  | 0x62 => roletabWrite slab index v s
  | 0x63 => if index == 0 && bits v 63 62 == 3 then .bad else (if index == 1 then s.logTail (bits v 11 0) else s).csrSwap code slab index v
  | 0x64 => if v == 0 then .bad else s.csrSwap code slab index v
  | _ => s.csrSwap code slab index v

/-- LFLAGS and MFLAGS of a nib: a CSRW clears the flags that its value does not hold, and sets none (R197, R222). -/
def State.writeNibCsr (s : State) (u code index : Nat) (v : Word) : State :=
  s.modUnit u fun x =>
    if code == 0x21 then { x with matrix := { x.matrix with mflags := x.matrix.mflags &&& BitVec.ofNat 5 v.toNat } }
    else if index == 0 then { x with lane := { x.lane with lflags0 := x.lane.lflags0 &&& v } }
    else { x with lane := { x.lane with lflags1 := x.lane.lflags1 &&& v } }

def csrw (x : Ctx) (g : Args) (s : State) : Fire :=
  match selected (unitOf x.k) g.av.toNat with
  | none => .trap s trCSRBAD g.av
  | some c =>
    let priv := unitPriv (unitOf x.k)
    if priv < c.shape.write.getD c.shape.read then .trap s trPRIVCSR g.av
    else if c.shape.write.isNone then .trap s trCSRBAD g.av
    else
      match c.shape.holder with
      | .stroke =>
        .value (s.modInst x.k fun i => { i with csrw := i.csrw ++ [{ slot := x.n, code := c.code, value := g.bv }] }) (strokeCsr x c.code)
      | .nib =>
        .value (s.writeNibCsr (unitOf x.k) c.code c.index g.bv) (nibCsr (s.unit (unitOf x.k)) c.code c.index)
      | _ =>
        match s.csrWrite c.code c.slab c.index g.bv with
        | .bad => .trap s trCSRBAD g.av
        | .wait => .hold s
        | .ok old s => .value s old

def execCsrw (t : BitVec 9) (p : BitVec 2) (s : State) : Host.Outcome State Fault Refusal :=
  fire (.csrw t p) (fun x g s => csrw x g s) s

/-- A register written as an event of its own: nothing happens where a CSRW would trap or wait. -/
def State.csrEvent (s : State) (code slab index : Nat) (val : Word) : State :=
  match csrShape code with
  | some sh =>
    if index < sh.first || index ≥ sh.first + sh.count || slab > 11 || (code == 0x4D && slab != 0 && slab != 11) then s
    else match s.csrWrite code slab index val with
      | .ok _ s => s
      | _ => s
  | none => s

def execRoundWrite (s : State) : Host.Outcome State Fault Refusal := .next (s.csrEvent 0x40 0 0 0)

def execOwnrngWrite (idx : Nat) (val : Word) (s : State) : Host.Outcome State Fault Refusal := .next (s.csrEvent 0x41 0 idx val)

def execWellshareWrite (slab idx : Nat) (val : Word) (s : State) : Host.Outcome State Fault Refusal :=
  .next (s.csrEvent 0x42 slab idx val)

def execSmpctxAssign (slab idx : Nat) (part : BitVec 8) (s : State) : Host.Outcome State Fault Refusal :=
  .next (s.csrEvent 0x44 slab idx (word (2 ^ 63 + part.toNat)))

def execSmpctxUnassign (slab idx : Nat) (s : State) : Host.Outcome State Fault Refusal := .next (s.csrEvent 0x44 slab idx 0)

def execJobkill (job : Nat) (s : State) : Host.Outcome State Fault Refusal := .next (s.csrEvent 0x45 0 0 (word job))

def execPrqWrite (idx : Nat) (val : Word) (s : State) : Host.Outcome State Fault Refusal := .next (s.csrEvent 0x52 0 idx val)

def execNibpartWrite (slab idx : Nat) (val : Word) (s : State) : Host.Outcome State Fault Refusal :=
  .next (s.csrEvent 0x46 slab idx val)

def execKeyslotLoad (idx : Nat) (s : State) : Host.Outcome State Fault Refusal := .next (s.csrEvent 0x4C 0 idx (word (2 ^ 63)))

def execKeyslotErase (idx : Nat) (s : State) : Host.Outcome State Fault Refusal := .next (s.csrEvent 0x4C 0 idx 0)

def execSwqWrite (slab idx : Nat) (val : Word) (s : State) : Host.Outcome State Fault Refusal := .next (s.csrEvent 0x4D slab idx val)

def execRoletabWrite (slab idx : Nat) (val : Word) (s : State) : Host.Outcome State Fault Refusal :=
  .next (s.csrEvent 0x62 slab idx val)

def execReplayWrite (idx : Nat) (val : Word) (s : State) : Host.Outcome State Fault Refusal := .next (s.csrEvent 0x63 0 idx val)

/-! ## TRAP and RFT (R350, R355, R366) -/

def execTrap (t : BitVec 9) (p : BitVec 2) (s : State) : Host.Outcome State Fault Refusal :=
  fire (.trap t p) (fun x g s => .trap (s.modSlot x.k x.n fun y => { y with stash := some g.a }) trREQUEST g.av) s

/-- The token goes to a target, but not, where `drop`, to an out-port that takes none (R355; log entry 44). -/
def State.tokenFor (s : State) (k : Nat) (drop : Bool) (r : BitVec 9) (tok : Token) : Option Token :=
  if drop && (s.routeTrap k r (some tok)).isSome then none else some tok

/-- The slot resolves with the given token for each of its targets; results it already holds are replaced. -/
def State.resolveSlot (s : State) (k n : Nat) (tok : Token) (drop : Bool := false) : State :=
  match s.inst k with
  | none => s
  | some i =>
    match i.slots[n]?, i.instr n with
    | some me, some ins =>
      if me.out1.isSome || me.out2.isSome then
        s.modSlot k n fun y =>
          { y with out1 := y.out1.bind fun _ => s.tokenFor k drop y.to1 tok, out2 := y.out2.bind fun _ => s.tokenFor k drop y.to2 tok }
      else
        let f := formOf ins me
        (s.modSlot k n fun y => { f.consume y false with count := 0, kept := false }).emit k n f.t f.v (s.tokenFor k drop f.t tok)
          (s.tokenFor k drop f.v tok)
    | _, _ => s

/-- A fault that a RECV's binding held back is dropped: the element is read again (R138). -/
def Binding.clearFault (b : Binding) : Binding :=
  match b.ahead.filter fun a => isTok a || isFault a with
  | .fault .. :: _ => { b with ahead := b.ahead.filter (!isFault ·), pos := b.pos - 1 }
  | _ => b

def State.clearAhead (s : State) (k : Nat) (ins : Option Instr) : State :=
  match ins with
  | some (.recv _ _ n) => s.modRun k fun r => { r with binds := r.binds.map fun e => if e.1 == n.toNat then (e.1, e.2.clearFault) else e }
  | _ => s

/-- RETRY of a slot trap. A WLD that has trapped with WASHPOIS is complete, and its token has gone out (R272). -/
def State.retrySlot (s : State) (k n code : Nat) (i : Instance) : State :=
  if code == trWASHPOIS then s
  else if code == trREQUEST then
    s.resolveSlot k n (((i.slots[n]?).bind (·.stash)).getD none)
  else if code == trMULTIEXIT then s.modInst k fun i => { i with fired := i.fired.take 1 }
  else s.clearAhead k (i.instr n)

/-- SKIP of a slot trap. -/
def State.skipSlot (s : State) (k n code : Nat) (i : Instance) : State :=
  if code == trMULTIEXIT then
    let second := ((i.fired[1]?).map (·.slot)).getD n
    (s.modInst k fun i => { i with fired := i.fired.take 1 }).resolveSlot k second none
  else if code == trPCALIGN then s.modInst k fun i => { i with fired := i.fired.filter (·.slot != n) }
  else if code == trWASHPOIS || (code == trTOKENCLASH && (i.slots[n]?).any (·.begun)) then s
  else
    let s := s.clearAhead k (i.instr n)
    let s := if (i.instr n).any isVectorAtomic then s.setResume k 0 else s
    -- null cannot leave by the out-port that raised the trap
    let val := ((s.stroke k).map (·.regs.trapval.toNat)).getD 0
    s.resolveSlot k n none ((code == trUNBOUNDPORT && val < 64) || (code == trSTREAMEND && val ≥ 64))

/-- The request for the page that the stroke waits for has ended: it walks again. -/
def State.pageCame (s : State) (t : Stroke) : Bool := t.run.waitPage.any fun p => !s.eng.pageReqs.contains p

/-- R355: the action takes effect. A stroke that lost its region, or whose page came while it was TRAPPED, is a candidate again. -/
def State.resolveTrap (s : State) (k act : Nat) : State :=
  match s.stroke k with
  | none => s
  | some t =>
    if act == 2 then s.endStroke k 0 true
    else
      let slot := t.regs.trapslot.toNat
      let code := t.regs.trapcause.toNat % 256
      let s := s.modRun k fun r =>
        { r with state := if (r.before == .run && r.region.isNone) || (r.before == .pagewait && s.pageCame t) then .ready else r.before,
                 rftAct := none, inst := if slot == 64 then none else r.inst, later := if slot == 64 then [] else r.later }
      let s := if slot ≥ 64 then s
        else match t.run.inst with
          | none => s
          | some i => if act == 0 then s.retrySlot k slot code i else s.skipSlot k slot code i
      -- the next deferred trap of a stroke that goes on with its next block waits for a commit, if it runs (R351)
      let runs := (s.stroke k).any fun t => t.run.state == .run && !t.run.frozen
      let s := s.takeLater k
      let s := if act == 0 && (slot != 65 || !runs) && !((s.stroke k).any (·.run.state == .trapped)) then s.takeDeferred k else s
      s.flush k

/-- A stroke word names a resident stroke. -/
def State.named (s : State) (w : Nat) : Option (Nat × Stroke) :=
  match keyOfStrokeWord w with
  | none => none
  | some k => if isNib (unitOf k) || isSampler (unitOf k) then (s.stroke k).map fun t => (k, t) else none

/-- TRAPVAL of FRZBAD. -/
def frzVal (w reason : Nat) : Word := word (w % 2 ^ 18 + reason * 2 ^ 20)

/-- The stroke's folio is frozen. -/
def State.folioFrozen (s : State) (k : Nat) : Bool := (s.folioOf k).any (·.frozen)

def rft (g : Args) (s : State) : Fire :=
  let a := g.av.toNat
  let b := g.bv.toNat
  match s.named a with
  | none => .trap s trFRZBAD (frzVal a 1)
  | some (k, t) =>
    if t.run.state != .trapped then .trap s trFRZBAD (frzVal a 4)
    else if b / 4 != 0 || b % 4 == 3 then .trap s trRSVOPND g.bv
    else if b == 1 && t.regs.trapslot.toNat ≥ 64 then .trap s trFRZBAD (frzVal a 5)
    else if s.folioFrozen k then .value (s.modRun k fun r => { r with rftAct := some b }) 0
    else .value (s.resolveTrap k b) 0

def execRft (t : BitVec 9) (p : BitVec 2) (s : State) : Host.Outcome State Fault Refusal :=
  fire (.rft t p) (fun _ g s => rft g s) s

/-! ## CFGINV and HALT (R369, R370) -/

/-- A byte of a block of `n` words, header included, lies in the range. -/
def inRange (addr n region a len : Nat) : Bool :=
  len != 0 && addr / 2 ^ 64 == region && (span 0 n).any fun i =>
    let w := (addr + 4 * i) % 2 ^ 64
    w + 4 > a && w < a + len

/-- Images of a unit that touch the range are removed. -/
def UnitSt.dropImages (u : UnitSt) (region a len : Nat) : UnitSt :=
  { u with images := u.images.filter fun i => !inRange i.addr (i.words.length + 1) region a len }

def cfginv (all : Bool) (x : Ctx) (g : Args) (s : State) : Fire :=
  let a := g.av.toNat
  let b := g.bv.toNat
  if a + b > 2 ^ 64 then .trap s trRSVOPND g.bv
  else
    .value { s with units := s.units.map fun e =>
      if all || slabOf e.1 == slabOf (unitOf x.k) then (e.1, e.2.dropImages (x.st.region false) a b) else e } 0

def execCfginv (t : BitVec 9) (p : BitVec 2) (m : BitVec 1) (s : State) : Host.Outcome State Fault Refusal :=
  fire (.cfginv t p m) (fun x g s => cfginv (m == 1) x g s) s

def execHalt (p : BitVec 2) (s : State) : Host.Outcome State Fault Refusal :=
  fire (.halt p) (fun x _ s => .send (s.modInst x.k fun i => { i with halting := true }) none none) s

/-! ## TLBINV and TLBPROBE (R396, R397) -/

/-- The pages that a TLBINV names. -/
def tlbHit (all : Bool) (region a count r lo n : Nat) : Bool :=
  all || (r == region && (count == 0 || inPages region a count r lo n))

def tlbinv (all : Bool) (g : Args) (s : State) : Fire :=
  let a := g.av.toNat
  let b := g.bv.toNat
  let region := bits b 63 48
  let count := bits b 31 0
  if !all && a % 65536 != 0 then .trap s trMISALIGN g.av
  else if !all && (bits b 47 32 != 0 || a + 65536 * count > 2 ^ 64) then .trap s trRSVOPND g.bv
  else
    let hit := tlbHit all region a count
    if s.inFlight hit then .hold s
    else .value ((s.postArrivals fun r p => hit r p 1).invalidate hit) 0

def execTlbinv (t : BitVec 9) (p : BitVec 2) (a : BitVec 1) (s : State) : Host.Outcome State Fault Refusal :=
  fire (.tlbinv t p a) (fun _ g s => tlbinv (a == 1) g s) s

/-- R397: the word of the leaf, or where the walk stopped and why. An entry that holds an uncorrectable error gives neither: its reader traps (R418; log
entry 77). -/
def probe (shadow : Bool) (w : Walk) (s : State) : Fire :=
  match w with
  | .fault code level => .value s (word (level * 2 ^ 58 + code))
  | .poison g => .trap s trUNCORR (granuleVal g)
  | .leaf l =>
    let v := if shadow then l.w1 else l.w0
    .value s (word (bits v 63 61 * 2 ^ 61 + l.level * 2 ^ 58 + bits v 57 0))

def execTlbprobe (t : BitVec 9) (p : BitVec 2) (h : BitVec 1) (s : State) : Host.Outcome State Fault Refusal :=
  fire (.tlbprobe t p h) (fun _ g s =>
    if g.bv.toNat / 65536 != 0 then .trap s trRSVOPND g.bv
    else probe (h == 1) (s.walk (g.bv.toNat % 65536) g.av.toNat fun _ _ => true) s) s

/-! ## Page requests (R389) -/

/-- The report of a request goes where a trap report of the partition would; `u` stands for the requester's slab. -/
def pageReport (slot : Nat) : Word := word (0x7D * 2 ^ 56 + slot)

/-- PAGE_REQUEST: request `n` of those that wait takes its ring slot once the slot's V bit is 0. -/
def pageRequest (n : Nat) (s : State) : State :=
  match s.eng.pageQueue[n]? with
  | none => s
  | some (part, region, page, eng, slab) =>
    let w := s.csrGet 0x52 0 part
    let head := bits w 7 0
    let at_ := physKey 0 (bits w 56 12 * 4096 + 16 * head)
    if !bit w 63 || bit (s.mem.get (at_ + 8) 8) 63 || (s.eng.pageQueue.take n).any (·.1 == part) then s
    else
      let w0 := page * 65536
      let w1 := 2 ^ 63 + (if eng then 2 ^ 62 else 0) + region * 2 ^ 32 + slab
      let s := s.modMem fun m => m.commitWrite at_ (toBytes w0 8 ++ toBytes w1 8)
      let s := s.csrPut 0x52 0 part (w - head + (head + 1) % 256)
      let s := s.modEng fun e => { e with pageQueue := listDrop e.pageQueue n }
      s.post (.engine (unitNum slab 255)) (s.reportPlace (unitNum slab 0) (some part)) (pageReport head)

def execPageRequest (n : Nat) (s : State) : Host.Outcome State Fault Refusal := .next (pageRequest n s)

end Sys2Proof.Machine
end

