-- ==== Sys2Proof/Machine/Tasks.lean ====
section
/-!
DEFINITION. Machine/Tasks.lean: the task scheduler: kernel headers (R155, R164), shapes (R30, R165, Table 6-6), dispatch (R144, R154, R169, R170) and
the completion of a task.
-/
namespace Sys2Proof.Machine

/-! ## Reads of the scheduler (R169, R386) -/

/-- A reader of values committed at module scope: no pending version of narrower scope is visible to it. -/
def committedReader : Reader := { who := noStroke, unit := 65534, slab := 99, folio := 0 }

/-- A 64-bit word at an address of the job's region, as last committed at module scope. -/
def State.jobWord (s : State) (x : Chain) (off : Nat) : Eng Nat :=
  (s.engBytes x.part 0 x.region committedReader off 8).andThen fun l => .ok (ofBytes l)

/-! ## Shape word (Table 6-6) -/

def taskWord (e : ChainEntry) (i : Nat) : Nat := (e.words.getD i 0).toNat
def taskNibs (e : ChainEntry) : Nat := bits (taskWord e 2) 7 0 + 1
def taskStrokes (e : ChainEntry) : Nat := bits (taskWord e 2) 12 8 + 1
def taskPrio (e : ChainEntry) : Nat := bits (taskWord e 2) 15 13
def taskAffinity (e : ChainEntry) : Nat := bits (taskWord e 2) 27 16

/-! ## Kernel header (Table 6-5), words 8 to 15 of a prepared entry -/

def kernWord (e : ChainEntry) (i : Nat) : Nat := taskWord e (8 + i)
def kernHandlers (e : ChainEntry) : Nat := bits (kernWord e 0) 38 32
def kernSeams (e : ChainEntry) : Nat := bits (kernWord e 0) 31 25
def kernReadpol (e : ChainEntry) : Nat := bits (kernWord e 0) 24 23
def kernArrch (e : ChainEntry) : Nat := bits (kernWord e 0) 22 17
def kernChans (e : ChainEntry) : Nat := bits (kernWord e 0) 16 10
def kernBars (e : ChainEntry) : Nat := bits (kernWord e 0) 9 5
def kernRegs (e : ChainEntry) : Nat := bits (kernWord e 0) 4 0
def kernShared (e : ChainEntry) : Bool := bit (kernWord e 1) 9
def kernWsize (e : ChainEntry) : Nat := bits (kernWord e 1) 8 0

/-- A constraint of Table 6-5 is broken, tables aside. -/
def headerBroken (e : ChainEntry) : Bool :=
  kernWord e 0 / 2 ^ 39 != 0 || kernHandlers e > 63 || kernSeams e > 64 || kernReadpol e > 1 || kernChans e == 0 || kernChans e > 64 ||
    kernArrch e ≥ kernChans e || kernBars e > 16 || kernRegs e == 0 || kernRegs e > 16 ||
    kernWord e 1 / 2 ^ 10 != 0 || kernWsize e == 0 || kernWsize e > 384 || kernWord e 2 % 4 != 0 ||
    (kernSeams e != 0 && kernWord e 3 % 8 != 0) || (kernHandlers e != 0 && kernWord e 4 % 16 != 0) ||
    kernWord e 5 != 0 || kernWord e 6 != 0 || kernWord e 7 != 0

/-- A seam route between ranks: source nib, stroke and port, then destination. -/
structure SeamRec where
  snib : Nat
  sstk : Nat
  sport : Nat
  dnib : Nat
  dstk : Nat
  dport : Nat
  deriving DecidableEq, Repr

/-- The routes that a seam table entry gives a folio of a shape (Table 6-4). -/
def seamRecs (nibs strokes w : Nat) : List SeamRec :=
  let r : SeamRec :=
    { snib := bits w 23 16, sstk := bits w 15 11, sport := bits w 10 5, dnib := bits w 51 44, dstk := bits w 43 39, dport := bits w 38 33 }
  let all := if bit w 0 then
      (span 0 nibs).map fun n => { r with snib := n, dnib := (n + nibs * 256 + r.dnib - r.snib) % nibs }
    else [r]
  all.filter fun r => r.snib < nibs && r.dnib < nibs && r.sstk < strokes && r.dstk < strokes

/-- A reserved bit of a seam table entry is set. -/
def seamReserved (w : Nat) : Bool := w / 2 ^ 52 != 0 || bits w 32 24 != 0 || bits w 4 1 != 0

def noRepeats {α : Type} [DecidableEq α] : List α → Bool
  | [] => true
  | x :: t => !t.contains x && noRepeats t

/-- R155: the seam table of a header is valid for a shape. -/
def seamsOk (nibs strokes : Nat) (l : List Word) : Bool :=
  let rs := l.flatMap fun w => seamRecs nibs strokes w.toNat
  !(l.any fun w => seamReserved w.toNat) && noRepeats (rs.map fun r => (r.snib, r.sstk, r.sport)) &&
    noRepeats (rs.map fun r => (r.dnib, r.dstk, r.dport))

/-- R164: the handler list of a header is valid. `seen` are the channels named so far. -/
def handlersOk (chans : Nat) : List Word → List Nat → Bool
  | c :: a :: t, seen =>
    let ch := bits c.toNat 5 0
    c.toNat / 65536 == 0 && bits c.toNat 11 6 == 0 && ch < chans && !seen.contains ch && a.toNat % 4 == 0 &&
      handlersOk chans t (ch :: seen)
  | _, _ => true

/-- Seam table and handler list of a prepared entry. -/
def kernSeamList (e : ChainEntry) : List Word := (e.words.drop 16).take (kernSeams e)
def kernHandlerList (e : ChainEntry) : List Word := (e.words.drop (16 + kernSeams e)).take (2 * kernHandlers e)

/-- Read the header and its tables: the entry prepared with them, or none when the header is invalid. -/
def State.readKernel (s : State) (x : Chain) (e : ChainEntry) : Eng (Option ChainEntry) :=
  let rd := entryReader x e.stroke e.upto
  let at_ := taskWord e 1
  if at_ % 64 != 0 then .ok none
  else
    (s.engWords x.part 0 x.region rd at_ 8).andThen fun ws =>
      let e := { e with words := e.words ++ ws }
      if headerBroken e then .ok none
      else
        (if kernSeams e == 0 then .ok [] else s.engWords x.part 0 x.region rd (kernWord e 3) (kernSeams e)).andThen fun ss =>
          (if kernHandlers e == 0 then .ok [] else s.engWords x.part 0 x.region rd (kernWord e 4) (2 * kernHandlers e)).andThen fun hs =>
            if seamsOk (taskNibs e) (taskStrokes e) ss && handlersOk (kernChans e) hs [0] then
              .ok (some { e with words := e.words ++ ss ++ hs })
            else .ok none

/-! ## What can never be met (R30, R165, R423) -/

/-- The nib site of a logical nib (R22). -/
def State.nibSiteOf (s : State) (slab n : Nat) : Nat := bits (s.csrGet 0x62 slab n) 7 0

/-- The user nib of the slab is in service. -/
def State.inService (s : State) (u : Nat) : Bool := !bit (s.csrGet 0x62 (slabOf u) (nibOf u)) 8

/-- Scratchpad that a nib needs, in bytes. -/
def kernWindows (e : ChainEntry) : Nat := (if kernShared e then 1 else taskStrokes e) * kernWsize e * 4096

/-- The seam table can be placed on a slab with no other folio (R154). A table with no route can. -/
def State.seamsFit (_ : State) (e : ChainEntry) : Bool :=
  kernSeamList e == [] || Config.seamTableFits (taskNibs e) (taskStrokes e) (kernSeamList e)

/-- What can never be met: the limits of R30 and R165, and a seam table that no slab can carry. -/
def State.badShape (s : State) (e : ChainEntry) : Bool :=
  taskNibs e > 160 || taskAffinity e == 0 || taskStrokes e * kernRegs e * 8 > 4096 || taskStrokes e * kernChans e > 64 ||
    kernWindows e > 1572864 || !s.seamsFit e ||
    !((span 0 12).any fun b => bit (taskAffinity e) b &&
        taskNibs e ≤ ((span 0 160).filter fun n => s.inService (unitNum b n)).length)

/-! ## Room on a nib (R29, R165) -/

def fitsAt (l : List Alloc) (limit len b : Nat) : Bool :=
  b + len ≤ limit && l.all fun a => b + len ≤ a.base || a.base + a.len ≤ b

/-- The lowest base at which a run of `len` fits. -/
def lowestFit (l : List Alloc) (limit len : Nat) : Option Nat :=
  ((0 :: l.map fun a => a.base + a.len).filter (fitsAt l limit len)).foldl (fun (m : Option Nat) b => match m with
    | some c => some (min b c)
    | none => some b) none

/-- One run for each owner, lowest first. -/
def placeRuns (limit len : Nat) : List Nat → List Alloc → Option (List Alloc)
  | [], l => some l
  | k :: ks, l =>
    match lowestFit l limit len with
    | some b => placeRuns limit len ks (l ++ [{ base := b, len, owner := k }])
    | none => none

/-- Strokes resident on a unit. -/
def State.residents (s : State) (u : Nat) : Table Stroke := s.strokes.filter fun e => unitOf e.1 == u

/-- The keys that a task's strokes take on a nib: its free residency slots, lowest first. -/
def State.freeKeys (s : State) (u n : Nat) : List Nat :=
  (((span 0 (slotsOf u)).map fun i => u * 32 + i).filter fun k => (s.stroke k).isNone).take n

/-- The unit with the runs and windows of a task's strokes, when they fit. -/
def State.roomOn (s : State) (e : ChainEntry) (folio u : Nat) (keys : List Nat) : Option UnitSt :=
  let x := s.unit u
  let used := ((s.residents u).map fun t => t.2.decl.regs * 8).foldl (· + ·) 0
  if keys.length < taskStrokes e || used + taskStrokes e * kernRegs e * 8 > 4096 then none
  else
    match placeRuns 64 (kernChans e) keys x.chanRuns with
    | none => none
    | some cs =>
      match placeRuns 1572864 (kernWsize e * 4096) (if kernShared e then [sharedOwner folio] else keys) x.windows with
      | none => none
      | some ws => some { x with chanRuns := cs, windows := ws }

/-- The nib may take a stroke set of the entry: its partition, its service, its room. -/
def State.nibFits (s : State) (x : Chain) (e : ChainEntry) (u : Nat) : Bool :=
  s.unitPart u == some x.part && s.inService u && (s.roomOn e 0 u (s.freeKeys u (taskStrokes e))).isSome

/-! ## Placing a folio (R144, R154) -/

/-- General registers of a new stroke: the manual gives them no value. -/
def State.drawWords (s : State) : Nat → List Word × State
  | 0 => ([], s)
  | n + 1 =>
    let (w, s) := s.drawWord
    let (l, s) := s.drawWords n
    (w :: l, s)

/-- The handler entries of a new stroke: channel 0 at the task's priority, then the list. -/
def bindHandlers (k base region : Nat) : List Word → Table HandlerEntry → Table HandlerEntry
  | c :: a :: t, h =>
    bindHandlers k base region t (tabPut h (base + bits c.toNat 5 0)
      { stroke := k, entry := BitVec.ofNat 80 (region * 2 ^ 64 + a.toNat), prio := bits c.toNat 14 12, masked := bit c.toNat 15 })
  | _, h => h

/-- The run of channels, or the window, of an owner. -/
def baseOf (l : List Alloc) (owner : Nat) : Nat := ((l.find? (·.owner == owner)).map (·.base)).getD 0

/-- Stroke `srank` of a folio is placed on a nib whose runs are allocated: parked, its handlers bound. -/
def State.placeStroke (s : State) (x : Chain) (e : ChainEntry) (folio frank srank k : Nat) : State :=
  let u := unitOf k
  let y := s.unit u
  let owner := if kernShared e then sharedOwner folio else k
  let chbase := baseOf y.chanRuns k
  let (g, s) := s.drawWords (kernRegs e * 8)
  let (pc, s) := s.drawWord
  let decl : StrokeDecl :=
    { job := x.job, part := x.part, folio, regs := kernRegs e, chans := kernChans e, chbase, frank, srank,
      inst := BitVec.ofNat 32 (e.total - e.toPlace), wbase := baseOf (y.windows.filter (!·.dead)) owner, wsize := kernWsize e * 4096,
      shared := kernShared e, readpol := kernReadpol e, arrch := kernArrch e }
  let first : Word := word (taskPrio e * 4096)
  let s := s.modUnit u fun z =>
    { z with
      handlers := bindHandlers k chbase x.region ([first, word (kernWord e 2)] ++ kernHandlerList e) z.handlers,
      reported := z.reported.filter fun r => !(chbase ≤ r.1 && r.1 < chbase + kernChans e) }
  s.bear k { decl, regs := { g, pc := pcAt (BitVec.ofNat 80 (x.region * 2 ^ 64)) pc, aregion := BitVec.ofNat 16 x.region }, run := { state := .parked } }

def State.placeStrokes (s : State) (x : Chain) (e : ChainEntry) (folio frank : Nat) : List Nat → Nat → State
  | [], _ => s
  | k :: ks, srank => (s.placeStroke x e folio frank srank k).placeStrokes x e folio frank ks (srank + 1)

/-- R119: the full bits of the windows that an owner has been given are cleared. -/
def Memory.clearWindows (m : Memory) (u : Nat) (l : List Alloc) : Memory :=
  l.foldl (fun m a => m.setFulls (spadKey u a.base) false (a.len / 16)) m

/-- The strokes of nib rank `frank` are placed on a nib. -/
def State.placeNib (s : State) (x : Chain) (e : ChainEntry) (folio frank u : Nat) : Option (State × List Nat) :=
  let keys := s.freeKeys u (taskStrokes e)
  match s.roomOn e folio u keys with
  | none => none
  | some y =>
    let new := y.windows.drop (s.unit u).windows.length
    let s := (s.modUnit u fun _ => y).modMem (·.clearWindows u new)
    some (s.placeStrokes x e folio frank keys 0, keys)

def State.placeNibs (s : State) (x : Chain) (e : ChainEntry) (folio : Nat) : List Nat → Nat → Option (State × List (List Nat))
  | [], _ => some (s, [])
  | u :: us, frank =>
    match s.placeNib x e folio frank u with
    | none => none
    | some (s, keys) =>
      match s.placeNibs x e folio us (frank + 1) with
      | none => none
      | some (s, rest) => some (s, keys :: rest)

/-- The routes of the folios of a slab, as pairs of nib sites (R154). -/
def State.routesOn (s : State) (slab : Nat) : List (Nat × Nat) :=
  (s.eng.folios.filter (·.slab == slab)).flatMap fun f => f.seams.map fun r =>
    (s.nibSiteOf slab (nibOf (unitOf r.src)), s.nibSiteOf slab (nibOf (unitOf r.dst)))

/-- Every seam route of the kernel can be placed on the named nibs of a slab. -/
def State.seamsPlaceable (s : State) (e : ChainEntry) (slab : Nat) (nibs : List Nat) : Bool :=
  kernSeamList e == [] ||
    Config.routesFit (s.routesOn slab) (((kernSeamList e).flatMap fun w => seamRecs (taskNibs e) (taskStrokes e) w.toNat).map fun r =>
      (s.nibSiteOf slab (nibs.getD r.snib 0), s.nibSiteOf slab (nibs.getD r.dnib 0)))

/-- The seam routes of a placed folio; `keys` lists the strokes of each nib rank. -/
def folioSeams (e : ChainEntry) (keys : List (List Nat)) : List Seam :=
  ((kernSeamList e).flatMap fun w => seamRecs (taskNibs e) (taskStrokes e) w.toNat).map fun r =>
    { src := (keys.getD r.snib []).getD r.sstk 0, sport := r.sport, dst := (keys.getD r.dnib []).getD r.dstk 0, dport := r.dport }

/-- Place one instance of a task on the named nibs of a slab, and post its start words. -/
def State.placeFolio (s : State) (c : Nat) (x : Chain) (e : ChainEntry) (slab : Nat) (nibs : List Nat) : Option State :=
  let id := s.eng.nextFolio
  match s.placeNibs x e id (nibs.map (unitNum slab)) 0 with
  | none => none
  | some (s, keys) =>
    let f : Folio :=
      { id, slab, job := x.job, strokes := keys.flatten, bars := List.replicate (kernBars e) {}, seams := folioSeams e keys,
        chain := c, entry := e.num, inst := e.total - e.toPlace }
    let s := s.modEng fun g => { g with folios := g.folios ++ [f], nextFolio := id + 1 }
    some (keys.flatten.foldl (fun s k =>
      match s.stroke k with
      | some t => s.post (.engine (2 ^ 33 + x.slab)) (unitOf k * 64 + t.decl.chbase) (word (taskWord e 6))
      | none => s) s)

/-! ## Dispatch (R169) -/

/-- An entry whose header has been read and that still has instances to place. -/
def ChainEntry.waiting (e : ChainEntry) : Bool := !e.finished && e.words.length > 8 && e.toPlace > 0

/-- The level at which a chain competes: its head's PRIO, raised by waiting. -/
def Chain.level (x : Chain) : Nat :=
  match x.entries.find? (·.waiting) with
  | some e => min 7 (taskPrio e + x.age)
  | none => 0

/-- Some slab of the entry's affinity has room for a whole folio. -/
def State.placeable (s : State) (x : Chain) (e : ChainEntry) : Bool :=
  (span 0 12).any fun b => bit (taskAffinity e) b &&
    taskNibs e ≤ ((span 0 160).filter fun n => s.nibFits x e (unitNum b n)).length

/-- A chain of a higher level has a head that can be placed. -/
def State.outranked (s : State) (c : Nat) (x : Chain) : Bool :=
  s.eng.chains.any fun y => y.1 != c && y.2.kind == 0 && y.2.level > x.level && !y.2.stopped &&
    (y.2.entries.find? (·.waiting)).any (s.placeable y.2)

def ascending : List Nat → Bool
  | a :: b :: t => a < b && ascending (b :: t)
  | _ => true

/-- The head waits for its dependence, completes at once, or becomes ready to place. -/
def State.prepareTask (s : State) (c : Nat) (x : Chain) (e : ChainEntry) : State :=
  if s.jobKilled x.job then s.finishEntry c x e 2
  else
    let met : Eng Bool := if taskWord e 3 == 0 then .ok true
      else (s.jobWord x (taskWord e 3)).andThen fun v => .ok (decide (v ≥ taskWord e 4))
    match met with
    | .fault _ => s.finishEntry c x e 6
    | .absent r p => s.chainWait c r p
    | .ok false => s
    | .ok true =>
      let count : Eng Nat := if taskWord e 7 == 0 then .ok 1
        else (s.jobWord x (taskWord e 7)).andThen fun v => .ok (v % 2 ^ 32)
      match count.andThen fun n => (s.readKernel x e).andThen fun k => .ok (n, k) with
      | .fault _ => s.finishEntry c x e 6
      | .absent r p => s.chainWait c r p
      | .ok (_, none) => s.finishEntry c x e 4
      | .ok (n, some k) =>
        if s.badShape k then s.finishEntry c x e 3
        else s.setEntry c { k with total := n, toPlace := n }

/-- Place the next instance of the waiting head on the named nibs, when every resource is free. -/
def State.placeTask (s : State) (c : Nat) (x : Chain) (e : ChainEntry) (slab : Nat) (nibs : List Nat) : State :=
  if s.jobKilled x.job then s.setEntry c { e with toPlace := 0 }
  else if slab > 11 || !bit (taskAffinity e) slab || nibs.length != taskNibs e || !ascending (nibs.map (s.nibSiteOf slab)) || nibs.any (· ≥ 160) ||
      !(nibs.all fun n => s.nibFits x e (unitNum slab n)) || !s.seamsPlaceable e slab nibs || s.outranked c x then s
  else
    match s.placeFolio c x e slab nibs with
    | none => s
    | some s =>
      let s := s.setEntry c { e with toPlace := e.toPlace - 1, live := e.live + 1 }
      let s := if e.toPlace == 1 then s.modChain c fun y => { y with age := 0 } else s
      s

/-- TASK_DISPATCH: take up the head of a chain, then place one instance of it on nibs of a slab. The place taken is open. -/
def taskDispatch (c slab : Nat) (nibs : List Nat) (s : State) : State :=
  match s.chain c with
  | none => s
  | some x =>
    if x.kind != 0 || (x.stopped && !s.jobKilled x.job) || x.waiting.isSome then s
    else
      match x.entries.find? (·.waiting) with
      | some e => s.placeTask c x e slab nibs
      | none =>
        let go := fun (s : State) (x : Chain) (e : ChainEntry) =>
          let s := s.prepareTask c x e
          match s.chain c with
          | some y => match y.entries.find? (·.waiting) with
            | some e => s.placeTask c y e slab nibs
            | none => s
          | none => s
        match x.entries.find? fun e => !e.finished && e.words.length ≤ 8 with
        | some e => go s x e
        | none =>
          match s.takeHead c x with
          | .nothing => s
          | .wait s => s
          | .entry s x e => go s x e

def execTaskDispatch (c slab : Nat) (nibs : List Nat) (s : State) : Host.Outcome State Fault Refusal := .next (taskDispatch c slab nibs s)

/-- Level at which a tile-task chain is served (R226). -/
def Chain.tileLevel (x : Chain) : Nat := min 7 (x.prio + x.age)

/-- CHAIN_AGING: a chain whose dispatchable head waits rises one level, up to 7; so does a chain of tile-tasks (R226). -/
def chainAging (c : Nat) (s : State) : State :=
  match s.chain c with
  | none => s
  | some x =>
    let waits := (x.kind == 0 && x.entries.any (·.waiting) && x.level < 7) || (x.kind == 3 && !x.posted.isEmpty && x.tileLevel < 7)
    if waits then s.setChain c { x with age := x.age + 1 } else s

def execChainAging (c : Nat) (s : State) : Host.Outcome State Fault Refusal := .next (chainAging c s)

/-! ## Completion of a task (R168–R170) -/

/-- TASK_COMPLETE: every folio of the task has ended; CODE is written, and word 4 for EXITERR. -/
def taskComplete (c num : Nat) (s : State) : State :=
  match s.chain c with
  | none => s
  | some x =>
    match x.entries.find? (·.num == num) with
    | none => s
    | some e =>
      if x.kind != 0 || x.waiting.isSome || e.finished || e.words.length ≤ 8 || e.toPlace != 0 || e.live != 0 then s
      else if s.jobKilled x.job then s.finishEntry c x e 2
      else if e.killed then s.finishEntry c x e 6
      else
        match e.firstErr with
        | none => s.finishEntry c x e 1
        | some (_, st) =>
          match s.engWrite x 0 e.region (e.addr + 32) (toBytes st 8) with
          | .ok s => s.finishEntry c x e 5
          | .absent r p => s.chainWait c r p
          | .fault _ => s.finishEntry c x e 5

def execTaskComplete (c num : Nat) (s : State) : Host.Outcome State Fault Refusal := .next (taskComplete c num s)

end Sys2Proof.Machine
end

