-- ==== Sys2Proof/Machine/Contexts.lean ====
section
/-!
DEFINITION. Machine/Contexts.lean: FREEZE and THAW (R357–R359, R366), the readout chain and save areas (R360–R365), CTXOUT and CTXIN
(R367, R368).
-/
namespace Sys2Proof.Machine

/-! ## FREEZE and THAW -/

/-- R357 item 3: nothing of the stroke that a freeze waits for is left: lane-pipe runs, matrix entries, washes that have read every
member, owed copybook results, begun pipeline actions. -/
def State.owesNothing (s : State) (k : Nat) : Bool :=
  let u := s.unit (unitOf k)
  !(u.lane.queue.any (·.stroke == k)) && !(u.matrix.queue.any (·.stroke == k)) &&
    !(s.svc.washes.any fun w => w.loader == k && w.left.isEmpty) &&
    !(s.svc.book.calls.any fun c => c.stroke == k && c.index.isSome) && !(s.net.replies.any fun q => q.stroke == k && q.cp.isSome) &&
    !(s.svc.book.runs.any fun r => r.2.reader.any (·.1 == k)) &&
    !(s.svc.acts.any fun a => a.stroke == k && a.todo.isNone)

/-- Strokes of a folio that hold no region freeze at once. -/
def State.freezeIdle (s : State) (f : Folio) : State :=
  f.strokes.foldl (fun s k => if (s.stroke k).any (·.run.region.isNone) then s.freezeStroke k else s) s

def freeze (x : Ctx) (g : Args) (s : State) : Fire :=
  let a := g.av.toNat
  match (s.named a).bind fun e => s.folio e.2.decl.folio with
  | none => .trap s trFRZBAD (frzVal a 1)
  | some f =>
    if f.frozen then .value s 0
    else
      let s := s.freezeIdle f
      let req : FreezeReq := { folio := f.id, round := s.rounds.issued, stroke := x.k, serial := x.ins.serial, slot := x.n }
      .owed { s with rounds := { s.rounds with requested := true, freezes := s.rounds.freezes ++ [req] } }

def execFreeze (t : BitVec 9) (p : BitVec 2) (s : State) : Host.Outcome State Fault Refusal :=
  fire (.freeze t p) (fun x g s => freeze x g s) s

/-- Every stroke of the folio is frozen or TRAPPED and owes nothing. -/
def State.allFrozen (s : State) (f : Folio) : Bool :=
  f.strokes.all fun k => (match s.stroke k with
    | some t => t.run.frozen || t.run.state == .trapped
    | none => true) && s.owesNothing k

/-- FREEZE request `n` sends its result: the folio is frozen, or has ended meanwhile. -/
def State.freezeDone (s : State) (n : Nat) : State :=
  match s.rounds.freezes[n]? with
  | none => s
  | some q =>
    let send := fun (s : State) =>
      let s : State := { s with rounds := { s.rounds with freezes := listDrop s.rounds.freezes n } }
      s.pushReply q.stroke q.serial q.slot (some 0)
    match s.folio q.folio with
    | none => send s
    | some f =>
      let s := s.freezeIdle f
      if !s.allFrozen f then s
      else
        let s := f.strokes.foldl (fun s k => s.freezeStroke k) s
        send (s.modFolio f.id fun f => { f with frozen := true })

/-- A stroke of a thawed folio goes on, and begins a phase (R233, R359). One that waits for a page whose request has ended walks it again; one
that was streamed in needs a region. Its washes issue again (R269). -/
def State.thawStroke (s : State) (k : Nat) : State :=
  match s.stroke k with
  | none => s
  | some t =>
    let arrived := t.run.state == .pagewait && s.pageCame t
    let s := s.modRun k fun r =>
      { r with frozen := false, stable := [],
               state := if arrived || (r.state == .run && r.region.isNone) then .ready else r.state }
    -- a spilled stroke's washes issue again once it holds a region
    let s := if t.run.region.isSome || t.run.state == .trapped then s.reissueWashes k else s
    match t.run.rftAct with
    | some act => if t.run.state == .trapped then s.resolveTrap k act else s
    | none => s

def State.thawFolio (s : State) (f : Folio) : State :=
  let s := s.modFolio f.id fun f => { f with frozen := false }
  f.strokes.foldl (fun s k => s.thawStroke k) s

def thaw (g : Args) (s : State) : Fire :=
  let a := g.av.toNat
  match (s.named a).bind fun e => s.folio e.2.decl.folio with
  | none => .trap s trFRZBAD (frzVal a 1)
  | some f =>
    if !f.frozen then .trap s trFRZBAD (frzVal a 2)
    else if f.away != 0 then .trap s trFRZBAD (frzVal a 3)
    else .value (s.thawFolio f) 0

def execThaw (t : BitVec 9) (p : BitVec 2) (s : State) : Host.Outcome State Fault Refusal :=
  fire (.thaw t p) (fun _ g s => thaw g s) s

/-! ## Renaming -/

/-- What a stroke holds elsewhere than in its own state passes from key `a` to key `b`, as it leaves its unit or comes back. -/
def renamedKey (a b k : Nat) : Nat := if k == a then b else k

def Folio.rename (a b : Nat) (f : Folio) : Folio :=
  let r := renamedKey a b
  { f with
    seams := f.seams.map fun x => { x with src := r x.src, dst := r x.dst },
    bars := f.bars.map fun x =>
      { x with arrived := x.arrived.map r, settled := x.settled.map r, waiters := x.waiters.map fun w => (r w.1, w.2) } }

def UnitSt.rename (a b : Nat) (u : UnitSt) : UnitSt :=
  let r := renamedKey a b
  { u with
    handlers := u.handlers.map fun h => (h.1, { h.2 with stroke := r h.2.stroke }),
    windows := u.windows.map fun w => { w with owner := r w.owner },
    chanRuns := u.chanRuns.map fun w => { w with owner := r w.owner },
    pipe := { u.pipe with
      regions := u.pipe.regions.map fun e => (e.1, { e.2 with stroke := r e.2.stroke }),
      tokens := u.pipe.tokens.map fun e => (e.1, (r e.2.1, e.2.2)) } }

def Chain.rename (a b : Nat) (c : Chain) : Chain :=
  let r := renamedKey a b
  { c with entries := c.entries.map fun e => { e with stroke := r e.stroke }, posted := c.posted.map fun e => { e with stroke := r e.stroke } }

def NetWord.rename (a b : Nat) (w : NetWord) : NetWord :=
  match w.sender with
  | .chsend k serial slot iter => { w with sender := .chsend (renamedKey a b k) serial slot iter }
  | .stroke k => { w with sender := .stroke (renamedKey a b k) }
  | _ => w

def LinkMsg.rename (a b : Nat) (m : LinkMsg) : LinkMsg := { m with word := m.word.map (·.rename a b) }

def LinkEnd.rename (a b : Nat) (x : LinkEnd) : LinkEnd :=
  { x with queue := x.queue.map (·.rename a b), buffer := x.buffer.map fun f => (f.1, f.2.map (·.rename a b)) }

def Services.rename (a b : Nat) (v : Services) : Services :=
  let r := renamedKey a b
  { v with
    washes := v.washes.map fun w => { w with loader := r w.loader, owners := w.owners.map r },
    washDone := v.washDone.map fun w => { w with loader := r w.loader },
    acts := v.acts.map fun x => { x with stroke := r x.stroke },
    book := { v.book with
      calls := v.book.calls.map fun c => { c with stroke := r c.stroke },
      reads := v.book.reads.map fun c => { c with stroke := r c.stroke } } }

def State.rename (s : State) (a b : Nat) : State :=
  let r := renamedKey a b
  { s with
    mem := { s.mem with
      pend := s.mem.pend.map fun p => { p with writer := r p.writer },
      waits := s.mem.waits.filter (·.stroke != a),
      tlb := (s.mem.tlb.filter fun e => e.unit != a || e.leaf).map fun e => if e.unit == a then { e with unit := b, gone := true } else e },
    units := s.units.map fun e => (e.1, e.2.rename a b),
    net := { s.net with
      words := s.net.words.map (·.rename a b),
      mcasts := s.net.mcasts.map fun m => { m with stroke := r m.stroke },
      replies := s.net.replies.map fun q => { q with stroke := r q.stroke } },
    eng := { s.eng with
      folios := s.eng.folios.map (·.rename a b),
      watchers := s.eng.watchers.map fun w => { w with stroke := r w.stroke },
      chains := s.eng.chains.map fun c => (c.1, c.2.rename a b) },
    svc := s.svc.rename a b,
    plat := { s.plat with links := s.plat.links.map fun e => (e.1, e.2.rename a b) } }

/-! ## Rows (R360, R361) -/

/-- The instance stands between the iterations of a stream. -/
def Stroke.between (t : Stroke) (k : Nat) : Bool :=
  t.run.state != .trapped && t.run.state != .pagewait && t.run.inst.any fun i => betweenIterations k t i

/-- Table 14-7: the rows that the readout chain streams. -/
def rowMask (k : Nat) (t : Stroke) : Nat :=
  match t.run.inst with
  | none => 0
  | some i => if t.between k && t.decl.readpol == 0 then bits i.header.toNat 7 0 else 255

/-- Majors of the router operators (R52). -/
def isRouterOp (w : BitVec 32) : Bool := 0x70 ≤ majorOf w && majorOf w ≤ 0x74

/-- A slot restored as it stood at the start of its instance, its progress aside: start producers do not fire again. -/
def SlotSt.rewind (x : SlotSt) : SlotSt := { done := x.done, gotA := x.gotA, gotB := x.gotB, gotP := x.gotP }

/-- Whether slot `n` loses what it held, given the rows streamed. A router operator sits in the switch box that feeds its target grain (R52), whose row
its state goes with; of targets in rows of which some are streamed, no rule says which one's. One that feeds no grain goes with its own row. -/
def slotLost (mask : Nat) (ws : List (BitVec 32)) (n : Nat) (s : State) : Bool × State :=
  let w := ws.getD n 0
  let rows := if isRouterOp w then (feedsOf w).map (·.1 / 8) else []
  if rows.isEmpty then (!bit mask (n / 8), s)
  else if rows.all (bit mask) then (false, s)
  else if !rows.any (bit mask) then (true, s)
  else s.drawBool

/-- The slots from `n` on as they come back: one that has lost what it held stands as at the start of its instance (R361). -/
def rewindSlots (mask : Nat) (ws : List (BitVec 32)) : List SlotSt → Nat → State → List SlotSt × State
  | [], _, s => ([], s)
  | x :: t, n, s =>
    let (lost, s) := slotLost mask ws n s
    let (r, s) := rewindSlots mask ws t (n + 1) s
    ((if lost then x.rewind else x) :: r, s)

/-- The instance that comes back. A root counter whose row was not streamed waits for a bound that does not come again. -/
def Instance.restored (i : Instance) (mask : Nat) (s : State) : Instance × State :=
  let (l, s) := rewindSlots mask i.words i.slots 0 s
  ({ i with slots := l, bound := if bit mask 0 then i.bound else none }, s)

/-! ## Save areas (R363) -/

/-- STATE of Table 14-8a. -/
def stateCode (t : Stroke) : Nat :=
  match t.run.state with
  | .ready => 1
  | .parked => 2
  | .pagewait => 3
  | .trapped => 4
  | .run => if t.run.inst.isSome then 5 else 1

/-- Words from an offset on, eight bytes apart. -/
def wordsFrom (off : Nat) : List Word → List (Nat × Word)
  | [] => []
  | w :: t => (off, w) :: wordsFrom (off + 8) t

/-- The fixed part of an area, offsets 0 to 0x97. -/
def fixedWords (k : Nat) (t : Stroke) (pend : Nat) (win free : Bool) : List (Nat × Word) :=
  let d := t.decl
  let r := t.regs
  let i := t.run.inst
  let head := 2 ^ 56 + stateCode t * 2 ^ 48 + rowMask k t * 2 ^ 40 + (if win then 2 ^ 38 else 0) + (if free then 2 ^ 37 else 0) +
    d.chans * 2 ^ 16 + d.regs * 2 ^ 8
  let flg := match i with
    | some i => i.clear.toNat * 256 + i.raised.toNat
    | none => 0
  let ident := d.chbase + d.frank * 2 ^ 6 + d.srank * 2 ^ 14 + r.curch * 2 ^ 19 + d.job * 2 ^ 25 + d.part * 2 ^ 37
  wordsFrom 0
    [word head, word r.pc.toNat, word (r.pc.toNat / 2 ^ 64), word r.flags.toNat, word flg,
     r.trapcause, r.trapslot, r.trapval, r.resumeidx,
     phaseWord r pend, r.gentag, r.wstat, r.cpstat, r.cplast, word r.aregion.toNat,
     word ident, word d.inst.toNat, word (strokeWord k), word (d.wsize / 4096 + (if d.shared then 512 else 0))]

/-- Handle words: buffer and partner as CBINIT gave them; where SIDE, the armed wait, HEAD and TAIL lie in the other two words, no rule says. -/
def handleWords (t : Stroke) : List Nat → State → List (Nat × Word) × State
  | [], s => ([], s)
  | h :: rest, s =>
    let x := tabGet t.run.handles h {}
    let (a, s) := s.drawWord
    let (b, s) := s.drawWord
    let (l, s) := handleWords t rest s
    (wordsFrom (0x100 + 32 * h) [x.buffer, x.partner, a, b] ++ l, s)

/-- FREE: handler entries and inboxes, by relative channel. -/
def channelWords (u : UnitSt) (t : Stroke) : List (Nat × Word) :=
  (span 0 t.decl.chans).flatMap fun c =>
    let ch := t.decl.chbase + c
    let hs := match tabFind u.handlers ch with
      | some h => wordsFrom (0x300 + 16 * c) [word (c + h.prio * 4096 + (if h.masked then 32768 else 0)), word h.entry.toNat]
      | none => []
    let q := u.inbox ch
    hs ++ wordsFrom (0x700 + 128 * c) (word q.length :: q.map (·.word))

/-- The position that a binding is saved at: elements not taken yet come again (R363). -/
def Binding.rest (b : Binding) : Binding :=
  let first := fun (a : Ahead) => match a with
    | .tok _ high => !high
    | .fault .. => true
    | .marker _ => false
  let part := match b.ahead.filter isTok with
    | .tok _ high :: _ => high
    | _ => false
  { b with ahead := [], pos := b.pos - (b.ahead.filter first).length - (if part then 1 else 0), skip := b.skip || part }

def bindingWords (t : Stroke) : List (Nat × Word) :=
  t.run.binds.flatMap fun e =>
    wordsFrom (0x2B00 + 48 * e.1) (e.2.base :: (e.2.levels ++ List.replicate (4 - e.2.levels.length) 0) ++ [word e.2.rest.pos])

/-- Row records: their contents mean something to the Y12 only. -/
def rowWords (mask : Nat) : List Nat → State → List (Nat × Word) × State
  | [], s => ([], s)
  | i :: rest, s =>
    if !bit mask i then rowWords mask rest s
    else
      let (ws, s) := s.drawWords 64
      let (l, s) := rowWords mask rest s
      (wordsFrom (0x4300 + 512 * i) ws ++ l, s)

/-- The words of an area. -/
def areaWords (k : Nat) (t : Stroke) (win free : Bool) (s : State) : List (Nat × Word) × State :=
  let fixed := fixedWords k t (s.mem.pendCount k) win free
  let (hs, s) := handleWords t (span 0 16) s
  let (rows, s) := rowWords (rowMask k t) (span 0 8) s
  (fixed ++ hs ++ (if free then channelWords (s.unit (unitOf k)) t else []) ++ wordsFrom 0x2700 t.regs.g ++ bindingWords t ++ rows, s)

/-- R365: bytes written, sections counted whole. -/
def areaBytes (k : Nat) (t : Stroke) (win free : Bool) : Nat :=
  let rows := ((span 0 8).filter (bit (rowMask k t))).length
  let pages := t.decl.wsize / 4096
  256 + 512 + 64 * t.decl.regs + 48 * t.run.binds.length + 512 * rows + (if free then 144 * t.decl.chans else 0) +
    (if win then pages * 4096 + pages * 32 else 0)

/-- Full bits of granules from a key on, as bytes. -/
def fullBytes (m : Memory) (key : Nat) : Nat → List Byte
  | 0 => []
  | n + 1 =>
    BitVec.ofNat 8 ((span 0 8).foldl (fun a i => a + (if m.isFull (key + 16 * i) then 2 ^ i else 0)) 0) :: fullBytes m (key + 128) n

/-- The bytes of a window and its full bits, in pieces that lie in one page each. -/
def windowPieces (s : State) (k : Nat) (t : Stroke) : List (Nat × List Byte) :=
  let key := spadKey (unitOf k) t.decl.wbase
  let pages := t.decl.wsize / 4096
  let r := { s.readerOf k with who := noStroke }
  ((span 0 pages).map fun i => (0x6000 + 4096 * i, s.mem.engineBytes r (key + 4096 * i) 4096)) ++
    ((span 0 pages).map fun i => (0x6000 + 4096 * pages + 32 * i, fullBytes s.mem (key + 4096 * i) 32))

/-! ## CTXOUT (R364, R367) -/

/-- Write pieces at an area as an engine launched by a stroke (R250): the state, or the trap or absent page met. -/
def writePieces (x : Ctx) (base : Nat) : List (Nat × List Byte) → State → Acc Unit
  | [], s => .ok () s
  | (off, bs) :: t, s =>
    let region := x.st.region false
    let a := (base + off) % 2 ^ 64
    match s.translate x.st.decl.part (unitPriv (unitOf x.k)) region a 2 with
    | .fault c l => .bad (.trap s c (transVal a false l 2))
    | .absent => .bad (.page s region (a / 65536))
    | .poison g => .bad (.trap s trUNCORR (granuleVal g))
    | .ok p =>
      if s.inSc p then .bad (.trap s trSCRANGE (word a))
      else writePieces x base t ((s.modMem fun m => m.commitWrite p.key bs).request p.key .write bs.length bs)

/-- The folio has one stroke. -/
def Folio.single (f : Folio) : Bool := f.strokes.length + f.away + f.ended.length == 1

/-- R364: the stroke holds a registration. -/
def UnitSt.registered (u : UnitSt) (k : Nat) : Bool :=
  (u.pipe.regions.any fun e => e.2.stroke == k) || (u.pipe.tokens.any fun e => e.2.1 == k)

/-- Updates of the stroke that are on their way, AFADDs aside, which are withdrawn (R357). -/
def State.updatesOut (s : State) (k : Nat) : Bool := s.net.atoms.any fun a => a.stroke == k && !isAdd a.kind

/-- R364: what a saved stroke leaves: residency, registers and region in any case. With FREE its channels too; its window unless it is kept,
as it is while the stroke holds regions (R315). -/
def State.leaveUnit (s : State) (k id : Nat) (t : Stroke) (win free : Bool) : State :=
  let u := unitOf k
  let mine : Nat → Bool := fun ch => t.decl.chbase ≤ ch && ch < t.decl.chbase + t.decl.chans
  let s := s.rename k (savedKey id)
  let s := s.modUnit u fun x =>
    let x := if free then
        { x with handlers := x.handlers.filter (·.2.stroke != savedKey id), inboxes := x.inboxes.filter fun e => !mine e.1,
                 reported := x.reported.filter fun e => !mine e.1, chanRuns := x.chanRuns.filter (·.owner != savedKey id) }
      else x
    let x := { x with badRegs := x.badRegs.filter (· != k) }
    let held := x.pipe.regions.any fun e => e.2.stroke == savedKey id
    if (free || win) && !held then { x with windows := x.windows.filter (·.owner != savedKey id) } else x
  let s := s.modFolio t.decl.folio fun f => { f with strokes := f.strokes.filter (· != k), away := f.away + 1 }
  { s with strokes := tabDel s.strokes k }

/-- The stroke as its save area stands for it. -/
def Stroke.saved (t : Stroke) : Stroke :=
  t.modRun fun r => { r with frozen := true, region := none, lastRegion := 0, stable := [], binds := r.binds.map fun e =>
    if e.1 < 64 then (e.1, e.2.rest) else e }

def UnitSt.relative {α : Type} (t : Stroke) (l : Table α) : Table α :=
  (l.filter fun e => t.decl.chbase ≤ e.1 && e.1 < t.decl.chbase + t.decl.chans).map fun e => (e.1 - t.decl.chbase, e.2)

/-- Save a stroke: its area and window are written, then its resources are released. -/
def saveStroke (win free : Bool) (x : Ctx) (base k : Nat) (s : State) : Fire :=
  let s1 := (s.freezeStroke k).drainStroke (fun _ _ _ => true) k
  match s1.stroke k with
  | none => .hold s
  | some t =>
    let wkey := spadKey (unitOf k) t.decl.wbase
    match (if win then s.readTrap wkey t.decl.wsize else none) with
    | some f => f
    | none =>
      let (ws, s2) := areaWords k t win free s1
      let pieces := (ws.map fun w => (w.1, toBytes w.2.toNat 8)) ++ (if win then windowPieces s1 k t else [])
      match writePieces x base pieces s2 with
      | .bad (.trap _ c v) => .trap s c v
      | .bad (.page _ r p) => .page s r p
      | .bad _ => .hold s
      | .ok _ s3 =>
        let id := s3.rounds.nextSave
        let u := s3.unit (unitOf k)
        let rec1 : SavedCtx :=
          { id, home := k, free, win, rows := rowMask k t, area := ws, stroke := t.saved,
            handlers := if free then UnitSt.relative t (u.handlers.filter (·.2.stroke == k)) else [],
            inboxes := if free then UnitSt.relative t u.inboxes else [] }
        let s4 : State := { s3 with rounds := { s3.rounds with nextSave := id + 1, saved := s3.rounds.saved ++ [rec1] } }
        .value (s4.leaveUnit k id t win free) (word (areaBytes k t win free))

def ctxout (win free drop : Bool) (x : Ctx) (g : Args) (s : State) : Fire :=
  let a := g.av.toNat
  match s.named a with
  | none => .trap s trFRZBAD (frzVal a 1)
  | some (k, t) =>
    let single := (s.folioOf k).all (·.single)
    if !s.folioFrozen k && !(t.run.state == .trapped && single) then .trap s trFRZBAD (frzVal a 2)
    else if g.bv.toNat % 4096 != 0 then .trap s trMISALIGN g.bv
    else if !drop && free && (!single || t.decl.shared || (s.unit (unitOf k)).registered k) then .trap s trCTXBAD 5
    else if !drop && win && t.decl.shared then .trap s trCTXBAD 5
    else if drop then .value (s.endStroke k 0 true) 0
    else if !s.owesNothing k || s.updatesOut k then .hold s
    else saveStroke win free x g.bv.toNat k s

def execCtxout (t : BitVec 9) (p : BitVec 2) (w f : BitVec 1) (s : State) : Host.Outcome State Fault Refusal :=
  fire (.ctxout t p w f) (fun x g s => ctxout (w == 1) (f == 1) false x g s) s

def execCtxoutDrop (t : BitVec 9) (p : BitVec 2) (w f : BitVec 1) (s : State) : Host.Outcome State Fault Refusal :=
  fire (.ctxoutDrop t p w f) (fun x g s => ctxout (w == 1) (f == 1) true x g s) s

/-! ## CTXIN (R368) -/

/-- Fields that software may change between CTXOUT and CTXIN: FLAGS, TRAPVAL, AREGION, GREG. -/
def mayChange (off : Nat) : Bool := off == 0x18 || off == 0x38 || off == 0x70 || (0x2700 ≤ off && off < 0x2B00)

/-- A word of an area, read as an engine launched by the issuer (R249). -/
def areaWord (x : Ctx) (base off : Nat) (s : State) : Acc Nat :=
  let region := x.st.region false
  let a := (base + off) % 2 ^ 64
  match s.translate x.st.decl.part (unitPriv (unitOf x.k)) region a 1 with
  | .fault c l => .bad (.trap s c (transVal a false l 1))
  | .absent => .bad (.page s region (a / 65536))
  | .poison g => .bad (.trap s trUNCORR (granuleVal g))
  | .ok p =>
    match s.readTrap p.key 8 with
    | some f => .bad f
    | none => .ok (s.mem.engineGet (engineReader (slabOf (unitOf x.k)) x.k s.mem.order) p.key 8) (s.request p.key .read 8 [])

/-- The words of an area stand as CTXOUT wrote them, those that may change aside. -/
def areaMatches (x : Ctx) (base : Nat) : List (Nat × Word) → State → Acc Bool
  | [], s => .ok true s
  | (off, w) :: t, s =>
    match areaWord x base off s with
    | .bad f => .bad f
    | .ok v s => if v == w.toNat || mayChange off then areaMatches x base t s else .ok false s

/-- The saved context whose area lies at an address: of those whose words stand there the newest, but one that may still be restored before one that
may not. -/
def findSaved (x : Ctx) (base : Nat) : List SavedCtx → State → Acc (Option SavedCtx)
  | [], s => .ok none s
  | c :: t, s =>
    match areaMatches x base c.area s with
    | .bad f => .bad f
    | .ok true s => .ok (some c) s
    | .ok false s => findSaved x base t s

/-- Saved contexts in the order in which an area is held against them. -/
def State.candidatesSaved (s : State) : List SavedCtx :=
  let l := s.rounds.saved.reverse
  (l.filter (!·.used)) ++ l.filter (·.used)

/-- The words that may have changed, as they now stand. -/
def changedWords (x : Ctx) (base : Nat) : List Nat → State → Acc (List Word)
  | [], s => .ok [] s
  | off :: t, s =>
    match areaWord x base off s with
    | .bad f => .bad f
    | .ok v s => match changedWords x base t s with
      | .bad f => .bad f
      | .ok l s => .ok (word v :: l) s

/-- Bytes of a window and its full bits, read back in pieces. -/
def readPieces (x : Ctx) (base : Nat) : List Nat → State → Acc (List Nat)
  | [], s => .ok [] s
  | off :: t, s =>
    match areaWord x base off s with
    | .bad f => .bad f
    | .ok v s => match readPieces x base t s with
      | .bad f => .bad f
      | .ok l s => .ok (v :: l) s

/-- Residency slots, register words, window bytes of a unit (R29, Table 13-1). -/
def regLimit (u : Nat) : Nat := if isSampler u then 1024 else 4096
def windowLimit (u : Nat) : Nat := if isSampler u then 262144 else 1572864

/-- R368 check 2: the unit may take the stroke. -/
def State.mayPlace (s : State) (u home part : Nat) (free : Bool) : Bool :=
  slabOf u < 12 && (nibOf u < 163 || isSampler u) && (!isNib u || s.inService u) &&
    (!free || ((160 ≤ nibOf u || s.unitPart u == some part) && unitPriv u == unitPriv home))

/-- Nothing of the stroke's window is kept on its unit: it takes a new one. -/
def SavedCtx.newWindow (c : SavedCtx) (x : UnitSt) : Bool := (c.free || c.win) && !(x.windows.any (·.owner == savedKey c.id))

/-- R368 check 3: the unit as it takes the stroke, when it has a slot, registers, channels and a window for it. -/
def State.makeRoom (s : State) (u : Nat) (c : SavedCtx) : Option (Nat × UnitSt) :=
  let d := c.stroke.decl
  let x := s.unit u
  let used := ((s.residents u).map fun t => t.2.decl.regs * 8).foldl (· + ·) 0
  match s.freeKeys u 1 with
  | [] => none
  | k :: _ =>
    if used + d.regs * 8 > regLimit u || (isSampler u && d.regs > 8) then none
    else
      match (if c.free then placeRuns 64 d.chans [k] x.chanRuns else some x.chanRuns) with
      | none => none
      | some cs =>
        match (if c.newWindow x then placeRuns (windowLimit u) d.wsize [k] x.windows else some x.windows) with
        | none => none
        | some ws => some (k, { x with chanRuns := cs, windows := ws })

/-- The window comes back: its bytes, and its full bits as saved. -/
def Memory.fillWindow (m : Memory) (key pages : Nat) (vals : List Nat) : Memory :=
  let bytes := (vals.take (512 * pages)).flatMap (toBytes · 8)
  let m := m.commitWrite key bytes
  (span 0 (256 * pages)).foldl (fun m g => m.setFull (key + 16 * g) (bit (vals.getD (512 * pages + g / 64) 0) (g % 64))) m

/-- The stroke stands frozen on its unit. -/
def State.seat (s : State) (c : SavedCtx) (k : Nat) (y : UnitSt) (ws : List Word) : State :=
  let u := unitOf k
  let old := savedKey c.id
  let d := c.stroke.decl
  let chbase := if c.free then baseOf y.chanRuns k else d.chbase
  let wbase := if c.newWindow y then baseOf (y.windows.filter (!·.dead)) k else d.wbase
  let y := if c.free then
      { y with
        handlers := c.handlers.foldl (fun t h => tabPut t (chbase + h.1) { h.2 with stroke := k }) y.handlers,
        inboxes := c.inboxes.foldl (fun t h => tabPut t (chbase + h.1) h.2) y.inboxes }
    else y
  let s := (s.modUnit u fun _ => y).rename old k
  let home := (s.folio d.folio).any (·.away != 0)
  let fid := if home then d.folio else s.eng.nextFolio
  let s := if home then
      s.modFolio fid fun f => { f with strokes := f.strokes ++ [k], away := f.away - 1, frozen := true, slab := slabOf u }
    else s.modEng fun e =>
      { e with nextFolio := fid + 1, folios := e.folios ++ [{ id := fid, slab := slabOf u, job := d.job, strokes := [k], frozen := true }] }
  let (inst, s) := match c.stroke.run.inst with
    | none => (none, s)
    | some i => if c.rows == 255 then (some i, s) else let (j, s) := i.restored c.rows s; (some j, s)
  let regs := { c.stroke.regs with
    flags := BitVec.ofNat 5 (ws.getD 0 0).toNat, trapval := ws.getD 1 0, aregion := BitVec.ofNat 16 (ws.getD 2 0).toNat,
    g := ws.drop 3 }
  -- on a nib the stroke's partition is that of its nib, on a sampler core its own (R402); 256 stands for none (R400)
  let part := if isSampler u then d.part else (s.unitPart u).getD 256
  s.setStroke k { decl := { d with chbase, wbase, folio := fid, part }, regs, run := { c.stroke.run with inst } }

/-- Place a saved stroke on a unit that has room for it. A window allocated anew without WIN is empty (R119); with WIN the saved bytes come back (R368), in a
window that was kept for its regions too, with rows withdrawn since (log entry 80). -/
def restore (x : Ctx) (base : Nat) (c : SavedCtx) (u : Nat) (s : State) : Fire :=
  let d := c.stroke.decl
  if !s.mayPlace u (unitOf c.home) d.part c.free then .trap s trCTXBAD 2
  else if !c.free && c.used then .trap s trCTXBAD 3
  else
    match s.makeRoom u c with
    | none => .trap s trCTXBAD 3
    | some (k, y) =>
      match changedWords x base ([0x18, 0x38, 0x70] ++ (span 0 (8 * d.regs)).map fun i => 0x2700 + 8 * i) s with
      | .bad f => f
      | .ok ws s =>
        let pages := d.wsize / 4096
        match readPieces x base (if c.win then (span 0 (516 * pages)).map fun i => 0x6000 + 8 * i else []) s with
        | .bad f => f
        | .ok vals s =>
          let s := s.seat c k y ws
          let s := match s.stroke k with
            | some t =>
              if c.win then s.modMem (·.fillWindow (spadKey u t.decl.wbase) pages vals)
              else if c.free then s.modMem (·.clearWindows u [{ base := t.decl.wbase, len := d.wsize, owner := k }])
              else s
            | none => s
          let saved := s.rounds.saved.map fun e => if e.id == c.id then { e with used := true } else e
          .value { s with rounds := { s.rounds with saved } } (word (strokeWord k))

def ctxin (x : Ctx) (g : Args) (s : State) : Fire :=
  let base := g.av.toNat
  if base % 4096 != 0 then .trap s trCTXBAD 1
  else
    match areaWord x base 0 s with
    | .bad f => f
    | .ok _ s =>
      match findSaved x base s.candidatesSaved s with
      | .bad f => f
      | .ok none s => .trap s trCTXBAD 1
      | .ok (some c) s =>
        restore x base c (if c.free then unitNum (bits g.bv.toNat 17 14) (bits g.bv.toNat 13 6) else unitOf c.home) s

def execCtxin (t : BitVec 9) (p : BitVec 2) (s : State) : Host.Outcome State Fault Refusal :=
  fire (.ctxin t p) (fun x g s => ctxin x g s) s

end Sys2Proof.Machine
end

