-- ==== Sys2Proof/Machine/Copybook.lean ====
section
/-!
DEFINITION. Machine/Copybook.lean: copybook objects (R277–R280), the log (R281, R282, R289, R290), scribe engines and methods (R283–R288), and the copybook
instructions (R293–R300).
-/
namespace Sys2Proof.Machine

/-! ## Objects -/

def State.modBook (s : State) (f : Copybook → Copybook) : State := s.modSvc fun v => { v with book := f v.book }

def State.object (s : State) (o : Nat) : Option CbObject := tabFind s.svc.book.objects o

def State.setObject (s : State) (o : Nat) (x : CbObject) : State := s.modBook fun b => { b with objects := tabPut b.objects o x }

def CbObject.cap (o : CbObject) : Nat := 2 ^ o.caplog

/-- R279: the log is full. -/
def CbObject.full (o : CbObject) : Bool := o.next - o.trim ≥ o.cap

/-- The least APPLIED over all slabs. -/
def CbObject.minApplied (o : CbObject) : Nat :=
  match o.applied with
  | [] => 0
  | a :: l => l.foldl min a

/-- An object as a stroke of a partition may name it. -/
def State.objectFor (s : State) (x : Ctx) (o : Nat) : Option CbObject :=
  (s.object o).bind fun y => if y.part == x.st.decl.part then some y else none

/-- A call or read of an object waits (R294). -/
def State.objectWaits (s : State) (o : Nat) : Bool :=
  (s.svc.book.calls.any fun c => c.obj == o && c.index.isNone) ||
    (s.svc.book.reads.any fun r => r.obj == o && (s.inst r.stroke).any (·.serial == r.serial)) ||
    (s.svc.book.runs.any fun r => r.2.obj == o)

/-! ## CPDEF (R278, R294) -/

/-- Table 11-1: word `i` of a definition record keeps its layout. -/
def defWordOk (i : Nat) (w : Nat) : Bool :=
  if i == 0 then
    bits w 47 45 == 0 && bits w 35 29 == 0 && bits w 23 22 == 0 && bits w 15 7 == 0 && 4 ≤ bits w 44 40 && bits w 44 40 ≤ 16 &&
      bits w 39 36 ≤ 11 && bits w 28 24 ≤ 23 && 1 ≤ bits w 21 16 && bits w 21 16 ≤ 32 && 1 ≤ bits w 6 0 && bits w 6 0 ≤ 64
  else if i == 1 then w % 16 == 0
  else if i % 2 == 0 then w % 4 == 0
  else w / 512 == 0 && bits w 7 3 == 0 && bits w 2 0 ≤ 6

/-- Index of the first bad word. -/
def firstBadWord : List Word → Nat → Option Nat
  | [], _ => none
  | w :: t, i => if defWordOk i w.toNat then firstBadWord t (i + 1) else some i

def methodsOf : List Word → List CbMethod
  | e :: a :: t => { entry := e, ro := bit a.toNat 8, args := bits a.toNat 2 0 } :: methodsOf t
  | _ => []

/-- The object that a record defines. -/
def objectOf (part : Nat) (ws : List Word) : CbObject :=
  let w := (ws.getD 0 0).toNat
  { part, region := bits w 63 48, statesz := bits w 6 0, caplog := bits w 44 40, hslab := bits w 39 36, hwell := bits w 28 24,
    methods := methodsOf (ws.drop 2) }

/-- The copy of a slab becomes the given bytes, zeros beyond them. -/
def Memory.setCopy (m : Memory) (slab obj : Nat) (bs : List Byte) : Memory :=
  let lo := copyKey slab obj 0
  let hi := copyKey slab (obj + 1) 0
  { m with cells := m.cells.filter fun c => !(lo ≤ c.1 && c.1 < hi) }.setBytes lo bs

/-- The bytes of a slab's copy, as listed. -/
def Memory.copyCells (m : Memory) (slab obj : Nat) : List Host.Cell :=
  let lo := copyKey slab obj 0
  let hi := copyKey slab (obj + 1) 0
  m.cells.filter fun c => lo ≤ c.1 && c.1 < hi

/-- TRAPVAL of the first of INIT's bytes, in `n` pages from `a` on, that cannot be read (R387, R419). -/
def State.initFault (s : State) (part region a : Nat) : Nat → Option Word
  | 0 => none
  | n + 1 =>
    match s.translate part 1 region a 1 with
    | .fault _ l => some (transVal a false l 1)
    | .poison g => some (granuleVal g)
    | .ok p =>
      match s.mem.poisoned p.key (65536 - a % 65536) with
      | some g => some (granuleVal g)
      | none => s.initFault part region ((a / 65536 + 1) * 65536 % 2 ^ 64) n
    | .absent => s.initFault part region ((a / 65536 + 1) * 65536 % 2 ^ 64) n

def define (x : Ctx) (o part : Nat) (ws : List Word) (s : State) : Fire :=
  let y := objectOf part ws
  if s.logBytes y.hslab y.hwell + y.cap * 64 > bits (s.csrGet 0x42 y.hslab y.hwell) 14 8 * 65536 then .trap s trCPDEFBAD 64
  else
    let init := (ws.getD 1 0).toNat
    let read : Eng (List Byte) := if init == 0 then .ok []
      else s.engBytes part 1 y.region (engineReader (slabOf (unitOf x.k)) x.k s.mem.order) init (y.statesz * 4096)
    match read with
    | .fault c => .trap s c ((s.initFault part y.region init (y.statesz / 16 + 2)).getD (transVal init false 0 1))
    | .absent r p => .hold (s.requestPage part r p true (slabOf (unitOf x.k)))
    | .ok bs =>
      let s := s.modMem fun m => (span 0 12).foldl (fun m b => m.setCopy b o bs) m
      .value (s.setObject o y) 0

def cpdef (x : Ctx) (g : Args) (s : State) : Fire :=
  let a := g.av.toNat
  let b := g.bv.toNat
  let o := bits a 9 0
  if a / 2 ^ 24 != 0 || bits a 15 10 != 0 then .trap s trRSVOPND g.av
  else if (s.object o).isSome then .trap s trCPBUSY g.av
  else if b % 16 != 0 then .trap s trMISALIGN g.bv
  else if b + 16 > x.st.decl.wsize then .trap s trSPADWIN g.bv
  else
    let base := spadKey (unitOf x.k) (x.st.decl.wbase + b)
    match s.readTrap base 16 with
    | some f => f
    | none =>
      let n := bits (s.load x.k base 8).1 21 16
      if b + 16 * (n + 1) > x.st.decl.wsize then .trap s trSPADWIN g.bv
      else
        match s.readTrap base (16 * (n + 1)) with
        | some f => f
        | none =>
          let (ws, s) := s.windowWords x.k base (2 * (n + 1))
          match firstBadWord ws 0 with
          | some i => .trap s trCPDEFBAD (word i)
          | none => define x o (bits a 23 16) ws s

def execCpdef (t : BitVec 9) (p : BitVec 2) (s : State) : Host.Outcome State Fault Refusal :=
  fire (.cpdef t p) (fun x g s => cpdef x g s) s

def cpdefRel (g : Args) (s : State) : Fire :=
  let a := g.av.toNat
  let o := bits a 9 0
  if a / 2 ^ 24 != 0 || bits a 15 10 != 0 then .trap s trRSVOPND g.av
  else
    match s.object o with
    | none => .trap s trCPOBJ g.av
    | some y =>
      if y.part != bits a 23 16 then .trap s trCPOBJ g.av
      else if y.next - 1 > y.minApplied || s.objectWaits o then .trap s trCPBUSY g.av
      else .value (s.modBook fun b => { b with objects := tabDel b.objects o }) 0

def execCpdefRel (t : BitVec 9) (p : BitVec 2) (s : State) : Host.Outcome State Fault Refusal :=
  fire (.cpdefRel t p) (fun _ g s => cpdefRel g s) s

/-! ## What a call names and carries (R295, R296) -/

/-- The caller's place as a log entry holds it (Table 11-2). -/
def callerPlace (x : Ctx) : Nat :=
  let u := unitOf x.k
  0xFF000000 + (if isSampler u then placeWord (u * 64) else placeWord (u * 64 + x.st.decl.chbase + x.st.regs.curch))

/-- Checks of a call word: the object and the method. -/
def State.callee (s : State) (x : Ctx) (ro : Bool) (g : Args) : Acc (CbObject × CbMethod) :=
  let a := g.av.toNat
  if a / 2 ^ 15 != 0 then .bad (.trap s trRSVOPND g.av)
  else
    match s.objectFor x (bits a 9 0) with
    | none => .bad (.trap s trCPOBJ g.av)
    | some o =>
      match o.methods[bits a 14 10]? with
      | none => .bad (.trap s trCPMETH g.av)
      | some m => if m.ro != ro then .bad (.trap s trCPMETH g.av) else .ok (o, m) s

/-- The checks of a call record, and KNOWN and the argument words; `known` when KNOWN is read. -/
def State.callRecord (s : State) (x : Ctx) (known : Bool) (n : Nat) (g : Args) : Acc (Nat × List Word) :=
  let b := g.bv.toNat
  if b % 16 != 0 then .bad (.trap s trMISALIGN g.bv)
  else if b + 64 > x.st.decl.wsize then .bad (.trap s trSPADWIN g.bv)
  else
    let base := spadKey (unitOf x.k) (x.st.decl.wbase + b)
    match (if known then s.readTrap base 8 else none).or (if n == 0 then none else s.readTrap (base + 16) (8 * n)) with
    | some f => .bad f
    | none =>
      let (k, s) := if known then s.load x.k base 8 else (0, s)
      let (ws, s) := s.windowWords x.k (base + 16) n
      .ok (k, ws ++ List.replicate (6 - n) 0) s

/-! ## CPCALL (R281, R290, R295) -/

def cpcall (nw : Bool) (rch : Nat) (x : Ctx) (g : Args) (s : State) : Fire :=
  match s.callee x false g with
  | .bad f => f
  | .ok (_, m) s =>
    if nw && rch ≥ x.st.decl.chans then .trap s trCHANIDX (word rch)
    else
      match s.callRecord x false m.args g with
      | .bad f => f
      | .ok (_, args) s =>
        let a := g.av.toNat
        .sent (s.modBook fun b => { b with calls := b.calls ++
          [{ stroke := x.k, serial := x.ins.serial, slot := x.n, obj := bits a 9 0, method := bits a 14 10, nw, rch, args,
             place := word (callerPlace x) }] })

def execCpcall (t : BitVec 9) (p : BitVec 2) (n : BitVec 1) (r : BitVec 4) (s : State) : Host.Outcome State Fault Refusal :=
  fire (.cpcall t p n r) (fun x g s => cpcall (n == 1) r.toNat x g s) s

/-- Table 11-2. -/
def CbCall.entry (c : CbCall) (i : Nat) : List Word :=
  [word i, word ((if c.nw then 2 ^ 40 else 0) + c.method * 2 ^ 32 + c.place.toNat)] ++ c.args

/-- R290: a no-wait call with RCH ≠ 0 meets a full log: the stroke handles the trap itself. -/
def State.selfTrap (s : State) (c : CbCall) : State :=
  let s := s.modStroke c.stroke fun t =>
    let t := t.endInstance
    { t with regs := t.regs.setTrap trLOGFULL c.slot (word c.obj) false true,
             run := { t.run.leave .parked with inst := none } }
  s.wake c.stroke c.rch (word (0xCF * 2 ^ 56 + c.obj * 2 ^ 46 + c.slot))

def State.dropCall (s : State) (n : Nat) : State := s.modBook fun b => { b with calls := listDrop b.calls n }

/-- A call that finds no room: the waiting form waits behind those that have reached the home; the no-wait form traps. -/
def State.logFull (s : State) (n : Nat) (c : CbCall) : State :=
  if c.nw then
    if !((s.stroke c.stroke).any (·.running)) then s
    else if c.rch != 0 then (s.dropCall n).selfTrap c
    else ((s.dropCall n).modSlot c.stroke c.slot fun x => { x with mode := .ready, kept := false }).takeTrap c.stroke c.slot trLOGFULL
      (word c.obj)
  else if c.waited then s
  else s.modBook fun b => { b with calls := listDrop b.calls n ++ [{ c with waited := true }] }

/-- The call of a slot has been appended: the slot gives up its tokens, and the result is owed. -/
def State.appended (s : State) (c : CbCall) : State :=
  match (s.inst c.stroke).bind (·.instr c.slot) with
  | none => s
  | some i =>
    (s.modSlot c.stroke c.slot fun x => { (formOf i x).consume x true with mode := .owed, kept := false }).flush c.stroke

/-- R289: a call that waits for room on the object stands before call `n`. -/
def State.callBefore (s : State) (n : Nat) (c : CbCall) : Bool :=
  let w : CbCall → Bool := fun d => d.obj == c.obj && d.index.isNone && d.waited
  if c.waited then (s.svc.book.calls.take n).any w else s.svc.book.calls.any w

/-- COPYBOOK_APPEND: the home of its object appends call `n`, or it finds the log full (R290), or room has come for a call before it (R289). -/
def copybookAppend (n : Nat) (s : State) : State :=
  match s.svc.book.calls[n]? with
  | none => s
  | some c =>
    if c.index.isSome then s
    else if !((s.inst c.stroke).any (·.serial == c.serial)) then s.dropCall n
    else
      match s.object c.obj with
      | none => s
      | some o =>
        if o.full then s.logFull n c
        else if s.callBefore n c then s
        else
          let i := o.next
          let s := s.setObject c.obj { o with next := i + 1, log := tabPut o.log i (c.entry i) }
          let s := s.modBook fun b => { b with calls := listSet b.calls n { c with index := some i } }
          s.appended c

def execCopybookAppend (n : Nat) (s : State) : Host.Outcome State Fault Refusal := .next (copybookAppend n s)

/-! ## Methods (R283–R287) -/

/-- A method context of a slab's scribe engine that runs nothing. -/
def State.freeContext (s : State) (slab : Nat) : Option Nat :=
  ((span 0xE0 8).map (unitNum slab)).find? fun u => (tabFind s.svc.book.runs u).isNone

/-- The stroke that a method is in its context: it starts at its ENTRY block with its registers and FLAGS zero. -/
def methodStroke (o : CbObject) (m : Nat) : Stroke :=
  { decl := { part := o.part, regs := 2, chans := 0, wsize := o.statesz * 4096 },
    regs := { pc := BitVec.ofNat 80 (o.region * 2 ^ 64 + ((o.methods[m]?).map (·.entry.toNat)).getD 0), g := List.replicate 16 0,
              aregion := BitVec.ofNat 16 o.region },
    run := { state := .run, region := some 0 } }

def State.startMethod (s : State) (u : Nat) (o : CbObject) (r : CbRun) : State :=
  (s.setStroke (u * 32) (methodStroke o r.method)).modBook fun b => { b with runs := tabPut b.runs u r }

/-- Table 11-4: the fault code of a trap that a method meets. A decode check other than UNIT gives ILLBLOCK, the budget its own mark; a fetch of
uncorrectable data counts as a failed fetch. -/
def faultCode (trap : Nat) (val : Word) : Nat :=
  if trap == 0xFF then 2
  else if trap == trILLBLOCK then (if val == 12 then 3 else 4)
  else if trap == trMISALIGN || trap == trSPADWIN then 5
  else if (trNOREGION ≤ trap && trap ≤ 0x66) || trap == trUNCORR then 7
  else 6

/-- How a method has ended, if it has: the result and the fault code. -/
def State.methodEnd (s : State) (u : Nat) (r : CbRun) : Option (Word × Nat) :=
  match r.exit, r.fault with
  | some 0, _ => some (r.result, 0)
  | some n, _ => some (word n, 1)
  | none, some f => some (0, faultCode f (((s.stroke (u * 32)).map (·.regs.trapval)).getD 0))
  | none, none => none

/-- Results of calls that the caller's slab has applied are delivered (R287). -/
def State.deliver (s : State) (slab obj : Nat) : State :=
  match s.object obj with
  | none => s
  | some o =>
    let due : CbCall → Option (Nat × Word × Nat) := fun c =>
      match c.index with
      | some i =>
        if c.obj == obj && slabOf (unitOf c.stroke) == slab && i ≤ o.applied.getD slab 0 then
          (tabFind o.results i).map fun r => (i, r.1, r.2)
        else none
      | none => none
    let s' := s.svc.book.calls.foldl (fun s c => match due c with
      | some (i, w, code) =>
        s.modNet fun q => { q with replies := q.replies ++
          [{ stroke := c.stroke, serial := c.serial, slot := c.slot, tok := some w,
             cp := some { obj, method := c.method, ro := false, index := i, code } }] }
      | none => s) s
    s'.modBook fun b => { b with calls := b.calls.filter fun c => (due c).isNone }

/-- The method of a context has ended: a mutating one changes the copy as one action and counts as applied, and its result is delivered. -/
def State.finishMethod (s : State) (u : Nat) (r : CbRun) (w : Word) (code : Nat) : State :=
  let slab := slabOf u
  let s : State := { s.modBook (fun b => { b with runs := tabDel b.runs u }) with strokes := tabDel s.strokes (u * 32) }
  if r.ro then
    match r.reader with
    | some (k, serial, slot) =>
      s.modNet fun q => { q with replies := q.replies ++
        [{ stroke := k, serial, slot, tok := some w, cp := some { obj := r.obj, method := r.method, ro := true, index := r.index, code } }] }
    | none => s
  else
    match s.object r.obj with
    | none => s
    | some o =>
      let s := if code == 0 then s.modMem fun m => r.buffer.foldl (fun m e => m.setByte (copyKey slab r.obj e.1) e.2) m else s
      (s.setObject r.obj { o with applied := listSet o.applied slab r.index, results := tabPut o.results r.index (w, code) }).deliver
        slab r.obj

/-- Runs of an object on a slab. -/
def State.runsOf (s : State) (slab obj : Nat) : List (Nat × CbRun) :=
  s.svc.book.runs.filter fun e => slabOf e.1 == slab && e.2.obj == obj

/-- SCRIBE_APPLY: a method of the object that has ended on the slab is finished; else a fetch that waits for a page walks again; else the next
entry's method starts. -/
def scribeApply (slab obj : Nat) (s : State) : State :=
  match s.object obj with
  | none => s
  | some o =>
    if slab > 11 || o.damaged.contains slab then s
    else
      match (s.runsOf slab obj).findSome? fun e => (s.methodEnd e.1 e.2).map fun r => (e.1, e.2, r.1, r.2) with
      | some (u, r, w, code) => s.finishMethod u r w code
      | none =>
        match (s.runsOf slab obj).find? fun e => (s.stroke (e.1 * 32)).any (·.run.state == .pagewait) with
        | some e => s.modRun (e.1 * 32) fun q => { q with state := .run, waitPage := none }
        | none =>
          let i := o.applied.getD slab 0 + 1
          match tabFind o.log i, s.freeContext slab with
          | some entry, some u =>
            if !(s.runsOf slab obj).isEmpty then s
            else
              s.startMethod u o { obj, method := bits (entry.getD 1 0).toNat 36 32, ro := false, index := i, entry }
          | _, _ => s

def execScribeApply (slab obj : Nat) (s : State) : Host.Outcome State Fault Refusal := .next (scribeApply slab obj s)

/-! ## CPREAD (R286, R296) -/

def cpread (x : Ctx) (g : Args) (s : State) : Fire :=
  match s.callee x true g with
  | .bad f => f
  | .ok (o, m) s =>
    let a := g.av.toNat
    let obj := bits a 9 0
    let mine : CbRead → Bool := fun r => r.stroke == x.k && r.serial == x.ins.serial && r.slot == x.n
    let rec? : Acc CbRead := match s.svc.book.reads.find? mine with
      | some r => .ok r s
      | none =>
        match s.callRecord x true m.args g with
        | .bad f => .bad f
        | .ok (known, args) s => .ok { stroke := x.k, serial := x.ins.serial, slot := x.n, obj, known, args } s
    match rec? with
    | .bad f => f
    | .ok r s =>
      let slab := slabOf (unitOf x.k)
      let others := s.svc.book.reads.filter (!mine ·)
      let now := o.applied.getD slab 0
      match s.freeContext slab with
      | some u =>
        if now ≥ r.known && !o.damaged.contains slab && (s.runsOf slab obj).all (·.2.ro) then
          let s := s.modBook fun b => { b with reads := others }
          .owed (s.startMethod u o
            { obj, method := bits a 14 10, ro := true, index := now,
              entry := [0, word (bits a 14 10 * 2 ^ 32 + callerPlace x)] ++ r.args, reader := some (x.k, x.ins.serial, x.n) })
        else .hold (s.modBook fun b => { b with reads := others ++ [r] })
      | none => .hold (s.modBook fun b => { b with reads := others ++ [r] })

def execCpread (t : BitVec 9) (p : BitVec 2) (s : State) : Host.Outcome State Fault Refusal :=
  fire (.cpread t p) (fun x g s => cpread x g s) s

/-! ## CPWAIT, CPTRIM, CPSTAT (R289, R297–R299) -/

/-- CPWAIT. On a slab whose copy is damaged it waits (R288). -/
def cpwait (ch : Nat) (x : Ctx) (g : Args) (s : State) : Fire :=
  let obj := bits g.av.toNat 9 0
  match s.objectFor x obj with
  | none => .trap s trCPOBJ g.av
  | some o =>
    if ch ≥ x.st.decl.chans then .trap s trCHANIDX (word ch)
    else
      let slab := slabOf (unitOf x.k)
      if o.damaged.contains slab then .hold s
      else if o.applied.getD slab 0 ≥ g.bv.toNat then .value s 1
      else
        .value (s.arm { stroke := x.k, place := unitOf x.k * 64 + x.st.decl.chbase + ch, key := none, obj, slab, value := g.bv }) 0

def execCpwait (t : BitVec 9) (p : BitVec 2) (c : BitVec 5) (s : State) : Host.Outcome State Fault Refusal :=
  fire (.cpwait t p c) (fun x g s => cpwait c.toNat x g s) s

def cptrim (x : Ctx) (g : Args) (s : State) : Fire :=
  let obj := bits g.av.toNat 9 0
  match s.objectFor x obj with
  | none => .trap s trCPOBJ g.av
  | some o =>
    let n := max o.trim (min g.bv.toNat (min o.next (1 + o.minApplied)))
    let o := { o with trim := n, log := o.log.filter (n ≤ ·.1), results := o.results.filter (n ≤ ·.1) }
    .value (s.setObject obj o) (word n)

def execCptrim (t : BitVec 9) (p : BitVec 2) (s : State) : Host.Outcome State Fault Refusal :=
  fire (.cptrim t p) (fun x g s => cptrim x g s) s

/-- SEL 010 in a method: the index that it runs after. -/
def State.methodIndex (s : State) (u : Nat) : Nat :=
  match tabFind s.svc.book.runs u with
  | some r => if r.ro then r.index else r.index - 1
  | none => 0

def cpstat (sel : Nat) (x : Ctx) (g : Args) (s : State) : Fire :=
  if sel == 0 then .value s x.st.regs.cpstat
  else if sel == 1 then .value s x.st.regs.cplast
  else if isScribe (unitOf x.k) then .value s (word (s.methodIndex (unitOf x.k)))
  else
    match s.objectFor x (bits g.av.toNat 9 0) with
    | none => .trap s trCPOBJ g.av
    | some o =>
      .value s (word (match sel with
        | 2 => o.applied.getD (slabOf (unitOf x.k)) 0
        | 3 => o.next - 1
        | 4 => o.trim
        | _ => o.minApplied))

def execCpstat (t : BitVec 9) (p : BitVec 2) (e : BitVec 3) (s : State) : Host.Outcome State Fault Refusal :=
  fire (.cpstat t p e) (fun x g s => cpstat e.toNat x g s) s

/-! ## CPARG and CPRET (R300) -/

/-- The word of the running call's entry that SEL names. -/
def CbRun.arg (r : CbRun) (sel : Nat) : Word :=
  match sel with
  | 6 => r.entry.getD 0 0
  | 7 => r.entry.getD 1 0
  | n => r.entry.getD (2 + n) 0

def execCparg (t : BitVec 9) (p : BitVec 2) (e : BitVec 3) (s : State) : Host.Outcome State Fault Refusal :=
  fire (.cparg t p e) (fun x _ s => .value s (((tabFind s.svc.book.runs (unitOf x.k)).map (·.arg e.toNat)).getD 0)) s

/-- Where a slot stands in the program order of a method: instance, iteration, slot. -/
def programOrder (x : Ctx) : Nat := (x.ins.serial * 2 ^ 64 + x.me.done) * 64 + x.n

def cpret (x : Ctx) (g : Args) (s : State) : Fire :=
  let n := programOrder x
  .value (s.modRunOf (unitOf x.k) fun r => if n ≥ r.retAt then { r with result := g.av, retAt := n } else r) 0

def execCpret (t : BitVec 9) (p : BitVec 2) (s : State) : Host.Outcome State Fault Refusal :=
  fire (.cpret t p) (fun x g s => cpret x g s) s

/-! ## Damaged copies (R288) -/

/-- The slab's scribe stops for the object: a mutating method is given up, read-only ones wait. -/
def State.damageCopy (s : State) (slab obj : Nat) : State :=
  match s.object obj with
  | none => s
  | some o =>
    let s := s.setObject obj { o with damaged := if o.damaged.contains slab then o.damaged else o.damaged ++ [slab] }
    (s.runsOf slab obj).foldl (fun s e =>
      if e.2.ro then s.modRun (e.1 * 32) fun q => { q with frozen := true }
      else { s.modBook (fun b => { b with runs := tabDel b.runs e.1 }) with strokes := tabDel s.strokes (e.1 * 32) }) s

/-- COPY_REBUILT: the copy becomes that of another slab that has applied as much or more, and the slab has then applied what that one has. -/
def copyRebuilt (slab obj : Nat) (s : State) : State :=
  match s.object obj with
  | none => s
  | some o =>
    if !o.damaged.contains slab then s
    else
      match (span 0 12).find? fun b => !o.damaged.contains b && o.applied.getD b 0 ≥ o.applied.getD slab 0 with
      | none => s
      | some b =>
        let now := o.applied.getD b 0
        let cells := s.mem.copyCells b obj
        let s := s.modMem fun m => cells.foldl (fun m c => m.setByte (c.1 - copyKey b obj 0 + copyKey slab obj 0) c.2) (m.setCopy slab obj [])
        let s := s.setObject obj { o with applied := listSet o.applied slab now, damaged := o.damaged.filter (· != slab) }
        let s := (s.runsOf slab obj).foldl (fun s e =>
          s.startMethod e.1 o { obj, method := e.2.method, ro := true, index := now, entry := e.2.entry, reader := e.2.reader }) s
        s.deliver slab obj

def execCopyRebuilt (slab obj : Nat) (s : State) : Host.Outcome State Fault Refusal := .next (copyRebuilt slab obj s)

end Sys2Proof.Machine
end

