-- ==== Sys2Proof/Machine/Float.lean ====
section
/-!
DEFINITION. Machine/Float.lean: the floating-point instructions (R77–R81, R98–R103).
-/
namespace Sys2Proof.Machine

/-- An FP32 operand under FI (R71). -/
def fpIn (fi : BitVec 1) (v : Word) : Num := operand .f32 (fi == 1) v.toNat

/-- Deliver an FP32 or packed result: zero-extended, flags unless SF (R98, R99). -/
def fpOut (sf : BitVec 1) (x : Ctx) (s : State) (r : Flagged Nat) : Fire := .flagged s x.k sf (word r.1, r.2)

def execFadd (t v : BitVec 9) (p : BitVec 2) (sp imm o : BitVec 1) (r : BitVec 2) (s : State) :
    Host.Outcome State Fault Refusal :=
  fire (.fadd t v p sp imm o r) (fun x g s => fpOut sp x s (fpSum .f32 (.ofBits r.toNat) (o == 1) [] [fpIn imm g.av, fpIn imm g.bv])) s

def execFsub (t v : BitVec 9) (p : BitVec 2) (sp imm o : BitVec 1) (r : BitVec 2) (s : State) :
    Host.Outcome State Fault Refusal :=
  fire (.fsub t v p sp imm o r) (fun x g s => fpOut sp x s (fpSum .f32 (.ofBits r.toNat) (o == 1) [] [fpIn imm g.av, (fpIn imm g.bv).negate])) s

def execFmul (t v : BitVec 9) (p : BitVec 2) (sp imm o : BitVec 1) (r : BitVec 2) (s : State) :
    Host.Outcome State Fault Refusal :=
  fire (.fmul t v p sp imm o r) (fun x g s => fpOut sp x s (fpMul .f32 (.ofBits r.toNat) (o == 1) (fpIn imm g.av) (fpIn imm g.bv))) s

def execFfma (t v : BitVec 9) (sp imm o : BitVec 1) (r : BitVec 2) (s : State) : Host.Outcome State Fault Refusal :=
  fire (.ffma t v sp imm o r) (fun x g s =>
    fpOut sp x s (fpSum .f32 (.ofBits r.toNat) (o == 1) [(fpIn imm g.av, fpIn imm g.bv)] [fpIn imm g.cv])) s

def execRcp (t v : BitVec 9) (p : BitVec 2) (sp imm o : BitVec 1) (r : BitVec 2) (s : State) :
    Host.Outcome State Fault Refusal :=
  fire (.rcp t v p sp imm o r) (fun x g s => fpOut sp x s (fpFunction 0 r.toNat (imm == 1) (o == 1) g.av.toNat)) s

def execRsq (t v : BitVec 9) (p : BitVec 2) (sp imm o : BitVec 1) (r : BitVec 2) (s : State) :
    Host.Outcome State Fault Refusal :=
  fire (.rsq t v p sp imm o r) (fun x g s => fpOut sp x s (fpFunction 1 r.toNat (imm == 1) (o == 1) g.av.toNat)) s

def execExp2 (t v : BitVec 9) (p : BitVec 2) (sp imm o : BitVec 1) (r : BitVec 2) (s : State) :
    Host.Outcome State Fault Refusal :=
  fire (.exp2 t v p sp imm o r) (fun x g s => fpOut sp x s (fpFunction 2 r.toNat (imm == 1) (o == 1) g.av.toNat)) s

def execLog2 (t v : BitVec 9) (p : BitVec 2) (sp imm o : BitVec 1) (r : BitVec 2) (s : State) :
    Host.Outcome State Fault Refusal :=
  fire (.log2 t v p sp imm o r) (fun x g s => fpOut sp x s (fpFunction 3 r.toNat (imm == 1) (o == 1) g.av.toNat)) s

def execTanh (t v : BitVec 9) (p : BitVec 2) (sp imm o : BitVec 1) (r : BitVec 2) (s : State) :
    Host.Outcome State Fault Refusal :=
  fire (.tanh t v p sp imm o r) (fun x g s => fpOut sp x s (fpFunction 4 r.toNat (imm == 1) (o == 1) g.av.toNat)) s

def execFmin (t v : BitVec 9) (p : BitVec 2) (sp imm o q : BitVec 1) (s : State) : Host.Outcome State Fault Refusal :=
  fire (.fmin t v p sp imm o q) (fun x g s =>
    fpOut sp x s (fpMinMax false (q == 1) (imm == 1) (o == 1) g.av.toNat g.bv.toNat)) s

def execFmax (t v : BitVec 9) (p : BitVec 2) (sp imm o q : BitVec 1) (s : State) : Host.Outcome State Fault Refusal :=
  fire (.fmax t v p sp imm o q) (fun x g s =>
    fpOut sp x s (fpMinMax true (q == 1) (imm == 1) (o == 1) g.av.toNat g.bv.toNat)) s

/-- FNEG: bit 31 inverted, bits 63:32 zero. -/
def execFneg (t v : BitVec 9) (p : BitVec 2) (s : State) : Host.Outcome State Fault Refusal :=
  fire (.fneg t v p) (fun _ g s => .value s (word (g.av.toNat % 2 ^ 32 ^^^ 2 ^ 31))) s

/-- FABS: bit 31 cleared, bits 63:32 zero. -/
def execFabs (t v : BitVec 9) (p : BitVec 2) (s : State) : Host.Outcome State Fault Refusal :=
  fire (.fabs t v p) (fun _ g s => .value s (word (g.av.toNat % 2 ^ 31))) s

def execFcmp (t v : BitVec 9) (p : BitVec 2) (sp imm : BitVec 1) (c : BitVec 2) (s : State) : Host.Outcome State Fault Refusal :=
  fire (.fcmp t v p sp imm c) (fun x g s =>
    let r := fpCompare c.toNat (fpIn imm g.av) (fpIn imm g.bv)
    .flagged s x.k sp (if r.1 then 1 else 0, r.2)) s

def execFclass (t v : BitVec 9) (p c : BitVec 2) (s : State) : Host.Outcome State Fault Refusal :=
  fire (.fclass t v p c) (fun _ g s => .value s (word (fpClass c.toNat g.av.toNat))) s

/-! ## Packed forms (R103) -/

/-- The four elements of a token as values of FP16 (1) or BF16 (2). -/
def lanesOf (f : BitVec 4) (fi : BitVec 1) (v : Word) : List Num :=
  (halves v.toNat).map (operand (if f == 1 then .f16 else .bf16) (fi == 1))

def elemFmt (f : BitVec 4) : Fmt := if f == 1 then .f16 else .bf16

def execPadd (t : BitVec 9) (f : BitVec 4) (p : BitVec 2) (sp imm o : BitVec 1) (r : BitVec 2) (s : State) :
    Host.Outcome State Fault Refusal :=
  fire (.padd t f p sp imm o r) (fun x g s =>
    .flagged s x.k sp (packed (List.zipWith (fun a b => fpSum (elemFmt f) (.ofBits r.toNat) (o == 1) [] [a, b])
      (lanesOf f imm g.av) (lanesOf f imm g.bv)))) s

def execPmul (t : BitVec 9) (f : BitVec 4) (p : BitVec 2) (sp imm o : BitVec 1) (r : BitVec 2) (s : State) :
    Host.Outcome State Fault Refusal :=
  fire (.pmul t f p sp imm o r) (fun x g s =>
    .flagged s x.k sp (packed (List.zipWith (fun a b => fpMul (elemFmt f) (.ofBits r.toNat) (o == 1) a b)
      (lanesOf f imm g.av) (lanesOf f imm g.bv)))) s

def execPfma (t : BitVec 9) (f : BitVec 4) (sp imm o : BitVec 1) (r : BitVec 2) (s : State) :
    Host.Outcome State Fault Refusal :=
  fire (.pfma t f sp imm o r) (fun x g s =>
    .flagged s x.k sp (packed (List.zipWith (fun ab c => fpSum (elemFmt f) (.ofBits r.toNat) (o == 1) [ab] [c])
      (List.zip (lanesOf f imm g.av) (lanesOf f imm g.bv)) (lanesOf f imm g.cv)))) s

/-- PDOT (R75): one exact sum of four products and an FP32 addend. -/
def execPdot (t : BitVec 9) (f : BitVec 4) (sp imm o : BitVec 1) (r : BitVec 2) (s : State) :
    Host.Outcome State Fault Refusal :=
  fire (.pdot t f sp imm o r) (fun x g s =>
    fpOut sp x s (fpSum .f32 (.ofBits r.toNat) (o == 1) (List.zip (lanesOf f imm g.av) (lanesOf f imm g.bv)) [fpIn imm g.cv])) s

/-! ## Conversions, random tokens and flags (R77–R81) -/

def execCvt (t : BitVec 9) (x y : BitVec 4) (p : BitVec 2) (sp imm o : BitVec 1) (r : BitVec 2) (s : State) :
    Host.Outcome State Fault Refusal :=
  fire (.cvt t x y p sp imm o r) (fun c g s =>
    .flagged s c.k sp (fpConvert ((Fmt.ofCode x.toNat).getD .f32) ((Fmt.ofCode y.toNat).getD .f32) (.ofBits r.toNat)
      (imm == 1) (o == 1) g.av.toNat)) s

def execSrnd (t : BitVec 9) (y : BitVec 4) (p : BitVec 2) (sp imm o : BitVec 1) (s : State) :
    Host.Outcome State Fault Refusal :=
  fire (.srnd t y p sp imm o) (fun c g s =>
    .flagged s c.k sp (fpStochastic ((Fmt.ofCode y.toNat).getD .f16) (imm == 1) (o == 1) g.av.toNat g.bv.toNat)) s

/-- RNGN: the key and counter as at instance start; `fired` counts the tokens the node has emitted. -/
def execRngn (t : BitVec 9) (p : BitVec 2) (c k : BitVec 7) (s : State) : Host.Outcome State Fault Refusal :=
  fire (.rngn t p c k) (fun x _ s =>
    .value s (randomToken (x.ins.start.g.getD k.toNat 0).toNat (x.ins.start.g.getD c.toNat 0).toNat x.me.fired)) s

def execRdflg (t : BitVec 9) (p : BitVec 2) (m : BitVec 14) (s : State) : Host.Outcome State Fault Refusal :=
  fire (.rdflg t p m) (fun x _ s => .value s (word (x.ins.start.flags.toNat &&& m.toNat))) s

def execClrflg (t : BitVec 9) (p : BitVec 2) (m : BitVec 14) (s : State) : Host.Outcome State Fault Refusal :=
  fire (.clrflg t p m) (fun x _ s =>
    .value (s.modInst x.k fun i => { i with clear := i.clear ||| BitVec.ofNat 5 m.toNat })
      (word (x.ins.start.flags.toNat &&& m.toNat))) s

end Sys2Proof.Machine
end

