-- ==== Sys2Proof/Machine/Hosts.lean ====
section
/-!
DEFINITION. Machine/Hosts.lean: what arrives from the host and from peer modules (R407–R413), gateway budgets and bandwidth buckets (R404–R406).
-/
namespace Sys2Proof.Machine

/-! ## CXL.mem and CXL.cache (R253, R408, R409) -/

/-- `n` bytes at a physical address lie in a tier of device memory. -/
def inTier (tier pa n : Nat) : Bool := (tier == 0 && pa + n ≤ tierOne) || (tier == 1 && pa + n ≤ tierTwo)

/-- R408: the key of `n` bytes of a host physical address: decoder 0 maps tier one, decoder 1 tier two. -/
def State.hostAt (s : State) (hpa n : Nat) : Option Nat :=
  let at_ := fun (tier base : Nat) => if base ≤ hpa && inTier tier (hpa - base) n then some (physKey tier (hpa - base)) else none
  (at_ 0 s.plat.hdm0).or (at_ 1 s.plat.hdm1)

/-- The host programs the base of an HDM decoder. -/
def setHdm (decoder base : Nat) (s : State) : State :=
  s.modPlat fun p => if decoder == 0 then { p with hdm0 := base } else if decoder == 1 then { p with hdm1 := base } else p

/-- HOST_MEM_WRITE: a CXL.mem write of bytes from `off` on in a 64-byte line of the host's addresses is committed when it completes. -/
def execHostMemWrite (line off : Nat) (data : List Byte) (s : State) : Host.Outcome State Fault Refusal :=
  .next (match s.hostAt (64 * line + off) data.length with
    | some key => s.modMem fun m => m.commitWrite key data
    | none => s)

/-- HOST_MEM_READ: a CXL.mem read returns the committed value. -/
def execHostMemRead (line off n : Nat) (s : State) : Host.Outcome State Fault Refusal :=
  .next (match s.hostAt (64 * line + off) n with
    | some key => s.modPlat fun p => { p with hostData := s.mem.committedBytes key n }
    | none => s)

/-- HOST_SNOOP: the host writes its own memory, and no well keeps the bytes it held of it. -/
def execHostSnoop (hpa : Nat) (data : List Byte) (s : State) : Host.Outcome State Fault Refusal :=
  .next (if hpa + data.length ≤ 2 ^ 57 then (s.modMem fun m => m.commitWrite (physKey 2 hpa) data) else s)

/-! ## Doorbells (R410) -/

/-- The doorbell pair of a job, 4096 that of PART 0: staged address, last result, refused. -/
def State.doorbell (s : State) (job : Nat) : Word × Word × Bool := tabGet s.eng.doorbells job (0, 0, false)

def State.setDoorbell (s : State) (job : Nat) (d : Word × Word × Bool) : State :=
  if job ≤ 4096 then s.modEng fun e => { e with doorbells := tabPut e.doorbells job d } else s

def execDoorbellAddress (job : Nat) (val : Word) (s : State) : Host.Outcome State Fault Refusal :=
  .next (s.setDoorbell job (val, (s.doorbell job).2))

/-- DOORBELL_APPEND: the CHAPP of R183 with the staged address, in the job's region, checked at S; a chain word that CHAPP would turn away is
refused, and so is a staged address that is no multiple of 64. -/
def doorbellAppend (job : Nat) (val : Word) (s : State) : State :=
  let (a, last, _) := s.doorbell job
  match (chainOf val.toNat job).bind fun c => (s.chain c).map fun y => (c, y) with
  | none => s.setDoorbell job (a, last, true)
  | some (c, y) =>
    if y.job != job || a.toNat % 64 != 0 then s.setDoorbell job (a, last, true)
    else (s.append c y a.toNat y.region 1 noStroke).setDoorbell job (a, word (y.appended + 1), false)

def execDoorbellAppend (job : Nat) (val : Word) (s : State) : Host.Outcome State Fault Refusal := .next (doorbellAppend job val s)

def State.toHost (s : State) (w : Word) : State := s.modPlat fun p => { p with hostData := toBytes w.toNat 8 }

def execDoorbellResultRead (job : Nat) (s : State) : Host.Outcome State Fault Refusal := .next (s.toHost (s.doorbell job).2.1)

def execDoorbellStatusRead (job : Nat) (s : State) : Host.Outcome State Fault Refusal :=
  .next (s.toHost (if (s.doorbell job).2.2 then 1 else 0))

/-- UCIE_LINK_TRAINING: links train with four, two or one modules. -/
def execUcieLinkTraining (mods : Nat) (s : State) : Host.Outcome State Fault Refusal :=
  .next (if mods == 1 || mods == 2 || mods == 4 then s.modPlat fun p => { p with ucie := mods } else s)

/-! ## Peers (R412, R413) -/

/-- IPART and MEMOK of a configured peer. -/
def State.peer (s : State) (e : Nat) : Option (Nat × Bool) :=
  if s.peerOk e then let w := s.csrGet 0x4A 0 (2 * e + 1); some (bits w 7 0, bit w 8) else none

/-- PEER_WORD_ARRIVAL: a word from a peer for a place of this module goes to a nib of IPART or through a gateway, or is discarded. -/
def peerWordArrival (peer : Nat) (place w : Word) (s : State) : State :=
  let p := 0xFF000000 + place.toNat % 2 ^ 24
  match s.peer peer with
  | none => s
  | some (ipart, _) =>
    if place.toNat / 2 ^ 32 != 0 then s
    else
      match s.reach ipart p with
      | none => s
      | some gate => s.sendWord (.engine (2 ^ 20 + peer)) s.rounds.issued gate p w

def execPeerWordArrival (peer : Nat) (place word : Word) (s : State) : Host.Outcome State Fault Refusal :=
  .next (peerWordArrival peer place word s)

/-- A peer's request to the owner of `bytes` bytes: it goes to the well, or the reply names what its issuer traps with; `sc` asks for a range of the
SC ring (R247, R413; log entry 79). -/
def State.peerAtom (s : State) (peer tier pa bytes : Nat) (sc : Option Bool) (kind : AtomKind) : State :=
  let r : AtomReq := { stroke := peerStroke peer, serial := 0, slot := 0, node := 0, key := physKey tier pa, addr := word pa, kind }
  if !inTier tier pa bytes || pa % bytes != 0 then s.peerRefuses r trBADPA (word pa)
  else
    match s.owner tier pa with
    | none => s.peerRefuses r (if sc == some true then trSCRANGE else trATOMOWN) (word pa)
    | some o =>
      if sc == some true && !o.sc then s.peerRefuses r trSCRANGE (word pa)
      else s.sendAtom { r with node := o.well, sc := sc.getD o.sc }

/-- PEER_MEMORY_ACCESS: an access of device memory from a peer is served under MEMOK, or refused; the reply goes back by a port. `n` is a number of bytes, or
the size field of an atomic (Table 9-4); a write stores the first `n` bytes of its data. What waits at an owner goes to the well that owns the range;
outside every range it is refused with ATOMOWN. -/
def peerMemoryAccess (peer : Nat) (a : PeerAccess) (tier pa n : Nat) (data : List Byte) (s : State) : State :=
  let key := physKey tier pa
  let reply := fun (s : State) (code : Nat) (l : List Byte) => s.sendPeer peer (word pa) { msg := .reply code l }
  match s.peer peer with
  | some (_, true) =>
    match a with
    | .read =>
      if !inTier tier pa n then reply s trBADPA [] else if (s.mem.poisoned key n).isSome then reply s trUNCORR []
      else reply s 0 (s.mem.committedBytes key n)
    | .write =>
      if !inTier tier pa n then reply s trBADPA [] else if (s.owner tier pa).any (·.sc) then reply s trSCRANGE []
      else if (s.mem.partPoisoned key n).isSome then reply s trUNCORR []
      else reply (s.modMem fun m => m.commitWrite key (data.take n)) 0 []
    | .atomic op b c => if op > 7 || n > 3 then reply s trBADPA [] else s.peerAtom peer tier pa (atomBytes n) none (.scalar op n b c)
    | .afadd i b => s.peerAtom peer tier pa 4 none (.afadd (i % 2 ^ 32) b false)
    | .afinit rel base => s.peerAtom peer tier pa 4 (some false) (.afinit rel base)
    | .scRead => if n == 0 || n > 8 then reply s trBADPA [] else s.peerAtom peer tier pa n (some true) (.scLoad n 15 none false true)
    | .scWrite =>
      if n == 0 || n > 8 then reply s trBADPA [] else s.peerAtom peer tier pa n (some true) (.scStore n (ofBytes (data.take n)) none)
  | _ => reply s trBADPA []

def execPeerMemoryAccess (peer : Nat) (access : PeerAccess) (tier pa n : Nat) (data : List Byte) (s : State) : Host.Outcome State Fault Refusal :=
  .next (peerMemoryAccess peer access tier pa n data s)

/-! ## Periods (R404–R406) -/

/-- GATEWAY_REFILL. -/
def execGatewayRefill (s : State) : Host.Outcome State Fault Refusal :=
  .next (s.modPlat fun p => { p with spent := [] })

/-- Ports of a partition on a slab, lowest number first: its nibs, and the sampler cores on which it has strokes (R402). -/
def State.portsOf (s : State) (slab p : Nat) : List Nat :=
  let nibs := ((span 0 160).map (unitNum slab)).filter fun u => s.unitPart u == some p
  let cores := ((span 0xF0 2).map (unitNum slab)).filter fun u => s.strokes.any fun e => unitOf e.1 == u && e.2.decl.part == p
  nibs ++ cores.map (coreBucket · p)

/-- Buckets that a partition shares on a slab: those of its ports, and one for the engine entries that run there (R405). A task is no engine entry. -/
def State.bucketsOf (s : State) (slab p : Nat) : List Nat :=
  s.portsOf slab p ++
    (if s.eng.chains.any fun c => c.2.kind != 0 && c.2.slab == slab && c.2.part == p && !c.2.entries.isEmpty then [engineBucket slab p] else [])

/-- R406: a partition is active when one of its ports sent or held a waiting beat in the period that ends; its engine traffic counts whether or not an
entry still runs. -/
def State.active (s : State) (slab p : Nat) : Bool := (engineBucket slab p :: s.portsOf slab p).any fun b => tabGet s.plat.beats b 0 > 0

/-- The tokens of a list of buckets that share `a`. -/
def shareOut (a k : Nat) (l : List Nat) (t : Table Nat) : Table Nat :=
  (l.zip (span 0 l.length)).foldl (fun t e => tabPut t e.1 (min 1024 (a / k + (if e.2 < a % k then 1 else 0)))) t

/-- BANDWIDTH_REFILL. Tokens left are discarded, those of a bucket that no partition shares any more among them. -/
def bandwidthRefill (slab : Nat) (s : State) : State :=
  let all := (span 1 255).filter fun p => !(s.bucketsOf slab p).isEmpty || s.active slab p
  let act := all.filter (s.active slab)
  let w := fun p => bits (s.csrGet 0x48 slab p) 7 0
  let total := act.foldl (fun n p => n + w p) 0
  let b := bits (s.csrGet 0x49 slab 0) 31 0
  let fill := fun (t : Table Nat) (p : Nat) =>
    let l := s.bucketsOf slab p
    let a := if !act.contains p then 0 else if total == 0 then b / act.length else b * w p / total
    shareOut a l.length l t
  s.modPlat fun q => { q with buckets := all.foldl fill (q.buckets.filter fun e => bucketSlab e.1 != slab), beats := q.beats.filter fun e => bucketSlab e.1 != slab }

def execBandwidthRefill (slab : Nat) (s : State) : Host.Outcome State Fault Refusal :=
  .next (if slab < 12 then bandwidthRefill slab s else s)

end Sys2Proof.Machine
end

