-- ==== Sys2Proof/Machine/Integer.lean ====
section
/-!
DEFINITION. Machine/Integer.lean: integer and address arithmetic (R92–R97).
-/
namespace Sys2Proof.Machine

/-- intOp of R92 for an operation on the two views. -/
def intOp2 (w : BitVec 2) (u : BitVec 1) (f : Int → Int → Int) (g : Args) (s : State) : Fire :=
  let n := intWidth w
  .value s (intExtend n u (f (intView n u g.av) (intView n u g.bv)))

/-- intOp of R92 for an operation that may raise a flag. -/
def intOpF (w : BitVec 2) (u sf : BitVec 1) (f : Nat → Int → Int → Int × Flags) (x : Ctx) (g : Args) (s : State) : Fire :=
  let n := intWidth w
  let r := f n (intView n u g.av) (intView n u g.bv)
  .flagged s x.k sf (intExtend n u r.1, r.2)

/-- Bitwise instructions, where the view changes only the extension of the result. -/
def intOpB (w : BitVec 2) (u : BitVec 1) (f : Word → Word → Word) (g : Args) (s : State) : Fire :=
  let n := intWidth w
  .value s (intExtend n u (intBits f n g.av g.bv))

/-- Shifts of R93 by an amount taken from a word. -/
def shiftLeft (n : Nat) (a b : Word) : Int := (a.toNat * 2 ^ shiftAmount b n : Nat)
def shiftRight (n : Nat) (a b : Word) : Int := (a.toNat % 2 ^ n / 2 ^ shiftAmount b n : Nat)
def shiftArith (n : Nat) (a b : Word) : Int := toSigned a.toNat n / ((2 ^ shiftAmount b n : Nat) : Int)

def intShift (w : BitVec 2) (u : BitVec 1) (f : Nat → Word → Word → Int) (a b : Word) (s : State) : Fire :=
  .value s (intExtend (intWidth w) u (f (intWidth w) a b))

def execAdd (t v : BitVec 9) (p w : BitVec 2) (u : BitVec 1) (s : State) : Host.Outcome State Fault Refusal :=
  fire (.add t v p w u) (fun _ g s => intOp2 w u (· + ·) g s) s

def execSub (t v : BitVec 9) (p w : BitVec 2) (u : BitVec 1) (s : State) : Host.Outcome State Fault Refusal :=
  fire (.sub t v p w u) (fun _ g s => intOp2 w u (· - ·) g s) s

def execMul (t v : BitVec 9) (p w : BitVec 2) (u : BitVec 1) (s : State) : Host.Outcome State Fault Refusal :=
  fire (.mul t v p w u) (fun _ g s => intOp2 w u (· * ·) g s) s

/-- MULH: the high half of the double-width product. -/
def execMulh (t v : BitVec 9) (p w : BitVec 2) (u : BitVec 1) (s : State) : Host.Outcome State Fault Refusal :=
  fire (.mulh t v p w u) (fun _ g s => intOp2 w u (fun a b => a * b / ((2 ^ intWidth w : Nat) : Int)) g s) s

def execNeg (t v : BitVec 9) (p w : BitVec 2) (u : BitVec 1) (s : State) : Host.Outcome State Fault Refusal :=
  fire (.neg t v p w u) (fun _ g s => intOp2 w u (fun a _ => -a) g s) s

def execAnd (t v : BitVec 9) (p w : BitVec 2) (u : BitVec 1) (s : State) : Host.Outcome State Fault Refusal :=
  fire (.and t v p w u) (fun _ g s => intOpB w u (· &&& ·) g s) s

def execOr (t v : BitVec 9) (p w : BitVec 2) (u : BitVec 1) (s : State) : Host.Outcome State Fault Refusal :=
  fire (.or t v p w u) (fun _ g s => intOpB w u (· ||| ·) g s) s

def execXor (t v : BitVec 9) (p w : BitVec 2) (u : BitVec 1) (s : State) : Host.Outcome State Fault Refusal :=
  fire (.xor t v p w u) (fun _ g s => intOpB w u (· ^^^ ·) g s) s

def execAndn (t v : BitVec 9) (p w : BitVec 2) (u : BitVec 1) (s : State) : Host.Outcome State Fault Refusal :=
  fire (.andn t v p w u) (fun _ g s => intOpB w u (fun a b => a &&& ~~~b) g s) s

def execNot (t v : BitVec 9) (p w : BitVec 2) (u : BitVec 1) (s : State) : Host.Outcome State Fault Refusal :=
  fire (.not t v p w u) (fun _ g s => intOpB w u (fun a _ => ~~~a) g s) s

def execShl (t v : BitVec 9) (p w : BitVec 2) (u : BitVec 1) (s : State) : Host.Outcome State Fault Refusal :=
  fire (.shl t v p w u) (fun _ g s => intShift w u shiftLeft g.av g.bv s) s

def execShr (t v : BitVec 9) (p w : BitVec 2) (u : BitVec 1) (s : State) : Host.Outcome State Fault Refusal :=
  fire (.shr t v p w u) (fun _ g s => intShift w u shiftRight g.av g.bv s) s

def execAsr (t v : BitVec 9) (p w : BitVec 2) (u : BitVec 1) (s : State) : Host.Outcome State Fault Refusal :=
  fire (.asr t v p w u) (fun _ g s => intShift w u shiftArith g.av g.bv s) s

def execClz (t v : BitVec 9) (p w : BitVec 2) (u : BitVec 1) (s : State) : Host.Outcome State Fault Refusal :=
  fire (.clz t v p w u) (fun _ g s => .value s (intExtend (intWidth w) u (leadingZeros (intWidth w) g.av : Nat))) s

def execPopc (t v : BitVec 9) (p w : BitVec 2) (u : BitVec 1) (s : State) : Host.Outcome State Fault Refusal :=
  fire (.popc t v p w u) (fun _ g s => .value s (intExtend (intWidth w) u (onesIn g.av.toNat (intWidth w) : Nat))) s

def execMin (t v : BitVec 9) (p w : BitVec 2) (u : BitVec 1) (s : State) : Host.Outcome State Fault Refusal :=
  fire (.min t v p w u) (fun _ g s => intOp2 w u min g s) s

def execMax (t v : BitVec 9) (p w : BitVec 2) (u : BitVec 1) (s : State) : Host.Outcome State Fault Refusal :=
  fire (.max t v p w u) (fun _ g s => intOp2 w u max g s) s

def execDiv (t v : BitVec 9) (p w : BitVec 2) (u sf : BitVec 1) (s : State) : Host.Outcome State Fault Refusal :=
  fire (.div t v p w u sf) (fun x g s => intOpF w u sf (fun n a b => intDiv n u a b) x g s) s

def execRem (t v : BitVec 9) (p w : BitVec 2) (u sf : BitVec 1) (s : State) : Host.Outcome State Fault Refusal :=
  fire (.rem t v p w u sf) (fun x g s => intOpF w u sf (fun n a b => intRem n u a b) x g s) s

def execAdds (t v : BitVec 9) (p w : BitVec 2) (u sf : BitVec 1) (s : State) : Host.Outcome State Fault Refusal :=
  fire (.adds t v p w u sf) (fun x g s => intOpF w u sf (fun n a b => intSat n u (a + b)) x g s) s

def execSubs (t v : BitVec 9) (p w : BitVec 2) (u sf : BitVec 1) (s : State) : Host.Outcome State Fault Refusal :=
  fire (.subs t v p w u sf) (fun x g s => intOpF w u sf (fun n a b => intSat n u (a - b)) x g s) s

/-- CMP: 0 or 1, never extended. -/
def execCmp (t v : BitVec 9) (p w : BitVec 2) (u : BitVec 1) (f : BitVec 2) (s : State) : Host.Outcome State Fault Refusal :=
  fire (.cmp t v p w u f) (fun _ g s =>
    .value s (if intCond f (intView (intWidth w) u g.av) (intView (intWidth w) u g.bv) then 1 else 0)) s

def execBfx (t v : BitVec 9) (p : BitVec 2) (u : BitVec 1) (s : State) : Host.Outcome State Fault Refusal :=
  fire (.bfx t v p u) (fun _ g s => .value s (bitField u g.av g.bv)) s

def execBfi (t v : BitVec 9) (s : State) : Host.Outcome State Fault Refusal :=
  fire (.bfi t v) (fun _ g s => .value s (bitInsert g.av g.bv g.cv)) s

def execLea (t v : BitVec 9) (p : BitVec 2) (x : BitVec 1) (k : BitVec 3) (s : State) : Host.Outcome State Fault Refusal :=
  fire (.lea t v p x k) (fun _ g s => .value s (leaAddr x k g.av g.bv)) s

/-! ## Immediate forms (R95) -/

def execAddi (t : BitVec 9) (p : BitVec 2) (imm : BitVec 14) (s : State) : Host.Outcome State Fault Refusal :=
  fire (.addi t p imm) (fun _ g s => .value s (g.av + sext imm.toNat 14)) s

def execAndi (t : BitVec 9) (p : BitVec 2) (imm : BitVec 14) (s : State) : Host.Outcome State Fault Refusal :=
  fire (.andi t p imm) (fun _ g s => .value s (g.av &&& sext imm.toNat 14)) s

def execOri (t : BitVec 9) (p : BitVec 2) (imm : BitVec 14) (s : State) : Host.Outcome State Fault Refusal :=
  fire (.ori t p imm) (fun _ g s => .value s (g.av ||| sext imm.toNat 14)) s

def execXori (t : BitVec 9) (p : BitVec 2) (imm : BitVec 14) (s : State) : Host.Outcome State Fault Refusal :=
  fire (.xori t p imm) (fun _ g s => .value s (g.av ^^^ sext imm.toNat 14)) s

def execShli (t : BitVec 9) (p : BitVec 2) (u : BitVec 1) (w : BitVec 2) (n : BitVec 6) (s : State) :
    Host.Outcome State Fault Refusal :=
  fire (.shli t p u w n) (fun _ g s => intShift w u shiftLeft g.av (word n.toNat) s) s

def execShri (t : BitVec 9) (p : BitVec 2) (u : BitVec 1) (w : BitVec 2) (n : BitVec 6) (s : State) :
    Host.Outcome State Fault Refusal :=
  fire (.shri t p u w n) (fun _ g s => intShift w u shiftRight g.av (word n.toNat) s) s

def execAsri (t : BitVec 9) (p : BitVec 2) (u : BitVec 1) (w : BitVec 2) (n : BitVec 6) (s : State) :
    Host.Outcome State Fault Refusal :=
  fire (.asri t p u w n) (fun _ g s => intShift w u shiftArith g.av (word n.toNat) s) s

end Sys2Proof.Machine
end

