-- ==== Sys2Proof/Machine/Pipeline.lean ====
section
/-!
DEFINITION. Machine/Pipeline.lean: the layer pipeline: the record and its actions (R302–R309, R313), squashes (R310–R312), registration (R314, R315), SQCHK, KVWR
and TAGRD (R316–R321).
-/
namespace Sys2Proof.Machine

/-! ## The record (Table 12-2) -/

/-- `n` bytes of a record, as committed at its owner. -/
def State.recGet (s : State) (rec off n : Nat) : Nat := s.mem.get (rec + off) n

/-- A committed write of record bytes (R307). -/
def State.recPut (s : State) (rec off n v : Nat) : State := s.modMem fun m => m.commitWrite (rec + off) (toBytes v n)

def State.nextLseq (s : State) (rec : Nat) : Nat := s.recGet rec 0x008 4
def State.members (s : State) (rec : Nat) : Nat := bits (s.recGet rec 0x008 8) 40 32
def State.lowPos (s : State) (rec : Nat) : Nat := s.recGet rec 0x010 4
def State.endPos (s : State) (rec : Nat) : Nat := s.recGet rec 0x018 4

/-- A ring slot. -/
structure RingSlot where
  pos : Nat
  lseq : Nat
  valid : Bool
  live : Nat
  value : Nat
  deriving DecidableEq, Repr

def State.ring (s : State) (rec r : Nat) : RingSlot :=
  let a := 0x1000 + 16 * (r % 256)
  let w0 := s.recGet rec a 8
  let w1 := s.recGet rec (a + 8) 8
  { pos := bits w0 31 0, lseq := bits w0 63 32, valid := bit w1 63, live := bits w1 47 32, value := bits w1 31 0 }

def State.setRing (s : State) (rec r : Nat) (x : RingSlot) : State :=
  let a := 0x1000 + 16 * (r % 256)
  (s.recPut rec a 8 (x.lseq * 2 ^ 32 + x.pos)).recPut rec (a + 8) 8
    ((if x.valid then 2 ^ 63 else 0) + x.live % 2 ^ 16 * 2 ^ 32 + x.value)

/-- lowpos(). -/
def State.lowestLive (s : State) (rec : Nat) : Nat :=
  let live := ((span 0 256).map (s.ring rec)).filter (·.live > 0)
  match live with
  | [] => s.endPos rec
  | x :: t => t.foldl (fun a y => min a y.pos) x.pos

def State.setLow (s : State) (rec : Nat) : State := s.recPut rec 0x010 4 (s.lowestLive rec)

/-- R306: where the record of an instruction lies. -/
def checkRecord (x : Ctx) (a : Word) (s : State) : Acc Nat :=
  if a.toNat % 0x2000 != 0 then .bad (.trap s trMISALIGN a)
  else
    match s.locateVa x.k x.stale false a.toNat 3 with
    | (.mem p, s) =>
      if p.fmt != 15 then .bad (.trap s trSIZEFMT (word (p.fmt + 3 * 16)))
      else
        match s.ownerNode p with
        | (none, s) => .bad (.trap s trATOMOWN a)
        | (some _, s) =>
          match s.readTrap p.key 0x2000 with
          | some f => .bad f
          | none => .ok p.key s
    | (l, s) => .bad ((failLoc s l).getD (.hold s))

/-- R307: the owner has begun an action on the record and not ended it. -/
def State.recordBusy (s : State) (rec : Nat) : Bool := s.svc.acts.any fun a => a.record == rec && a.todo.isNone

/-- R307: the action is one that action `b` waits for: of the same stroke, and earlier in its program order on the same record, or of a lower slot of the
iteration on any record. -/
def PipeAct.precedes (a b : PipeAct) : Bool :=
  a.stroke == b.stroke &&
    (if a.serial == b.serial then (if a.iter == b.iter then a.slot < b.slot else a.iter < b.iter && a.record == b.record)
     else a.serial < b.serial && a.record == b.record)

/-- R307: a pipeline slot of the instance that comes before slot `n` of iteration `it` has had its action applied, or has resolved without one: the slot has acted, or
its reply is on its way and its action stands in the list no more. -/
def State.actsBefore (s : State) (k : Nat) (i : Instance) (n it : Nat) : Bool :=
  (span 0 i.slots.length).all fun j => j == n || (match i.instr j, i.slots[j]? with
    | some w, some y =>
      !isPipe w || (if j < n then y.done > it else y.done ≥ it) ||
        (y.kept && y.done + 1 ≥ (if j < n then it + 1 else it) && !(s.svc.acts.any fun a => a.stroke == k && a.serial == i.serial && a.slot == j))
    | _, _ => true)

/-- An action may be sent, and begun at its owner, now: its record is free, and what comes before it has been applied. -/
def State.mayAct (s : State) (a : PipeAct) : Bool :=
  !s.recordBusy a.record && !(s.svc.acts.any (·.precedes a)) &&
    (match s.inst a.stroke with
     | some i => i.serial != a.serial || s.actsBefore a.stroke i a.slot a.iter
     | none => true)

/-! ## Launching (R308, R309) -/

/-- launchable(q): the trap it raises. -/
def State.notLaunchable (s : State) (rec q : Nat) : Option (Nat × Word) :=
  let f := s.ring rec q
  if q == 0xFFFFFFFF || q ≥ s.lowPos rec + 256 then some (trPIPEWIN, word q)
  else if s.nextLseq rec == 0xFFFFFFFF then some (trPIPESTATE, word q)
  else if f.pos == q && f.live == 0xFFFF then some (trPIPESTATE, word q)
  else none

/-- R323: the module that a place word of a record names, 0xFF for this one. In a record of a peer, MODULE 0xFF is that peer and the number by which it knows this
module is this one; a word for any other module goes by the peer. -/
def recordModule (rec w : Nat) : Nat :=
  let m := bits w 31 24
  if rec / 2 ^ 57 == 3 then (if m == bits (Config.selfNumber (bits rec 56 49)).toNat 5 0 then 0xFF else bits rec 56 49) else m

/-- The place word as this module's network takes it. -/
def recordPlace (rec w : Nat) : Nat := w % 2 ^ 24 + recordModule rec w * 2 ^ 24

/-- The token word of an action is posted to STAGE0; the action ends when the word is in the inbox. A STAGE0 that names no place loses it. -/
def State.postToken (s : State) (a : PipeAct) (stage0 : Nat) (w : Word) : State :=
  if bits stage0 17 14 > 11 || !placeNibOk (bits stage0 13 6) then
    (s.modSvc fun v => { v with acts := v.acts.filter (·.id != a.id) }).pushReply a.stroke a.serial a.slot (some a.result)
  else s.sendWord (.action a.id) s.rounds.issued none (recordPlace a.record stage0) w

/-- launch(q, v), for the action that stands in the list of begun actions. -/
def State.launchToken (s : State) (a : PipeAct) : State :=
  let r := a.record
  let (q, v) := a.launch
  let n := s.nextLseq r
  let s := s.recPut r 0x008 4 (n + 1)
  let f := s.ring r q
  let s := s.setRing r q { pos := q, lseq := n, valid := true, live := if f.pos == q then f.live + 1 else 1, value := v }
  let s := s.recPut r 0x018 4 (q + 1)
  let s := s.recPut r 0x030 8 (s.recGet r 0x030 8 + 1)
  let s := s.setLow r
  s.postToken a (s.recGet r 0 8) (word (n * 2 ^ 32 + q))

/-- The members of a record, as place words. -/
def State.memberWords (s : State) (rec : Nat) : List Word :=
  (span 0 (min 256 (s.members rec))).map fun m => word (s.recGet rec (0x800 + 8 * m) 8)

/-- The end of a squash, once every member has absorbed it: the positions above q lose their current tokens; then the relaunch. -/
def State.squashed (s : State) (a : PipeAct) (q : Nat) : State :=
  let last := s.endPos a.record
  let s := (span 0 256).foldl (fun s i =>
    let x := s.ring a.record i
    if q < x.pos && x.pos < last && x.pos % 256 == i then s.setRing a.record i { x with valid := false } else s) s
  (s.recPut a.record 0x028 8 (s.recGet a.record 0x028 8 + 1)).launchToken a

/-- What the owner finds as it begins an action. -/
inductive Judged where
  | trap (code : Nat) (val : Word)
  /-- nothing to launch: the result -/
  | done (w : Nat)
  /-- launch of a value at a position, with the code of the result, after a squash or not -/
  | launches (q v code : Nat) (squash : Bool)

def State.judgeLaunch (s : State) (rec q v code : Nat) (squash : Bool) : Judged :=
  match s.notLaunchable rec q with
  | some (c, w) => .trap c w
  | none => .launches q v code squash

/-- The owner's part of a GUESS or a LAUNCH, up to the squash and the launch. -/
def State.judge (s : State) (rec : Nat) : PipeOp → Judged
  | .launch q v => if q < s.endPos rec then .trap trPIPESTATE (word q) else s.judgeLaunch rec q v 1 false
  | .guess p l b =>
    let e := s.ring rec p
    let f := s.ring rec (p + 1)
    let cur := f.valid && f.pos == p + 1
    if !(e.valid && e.pos == p && e.lseq == l) then .done 0
    else if cur && f.value == b then .done (f.lseq * 2 ^ 32 + 2)
    else s.judgeLaunch rec (p + 1) b (if cur then 3 else 1) cur

/-- A fired action of the stroke, not yet begun. -/
def newAct (x : Ctx) (rec : Nat) (op : PipeOp) (s : State) : PipeAct :=
  { id := s.net.nextId, stroke := x.k, serial := x.ins.serial, slot := x.n, record := rec, result := 0, squash := none, members := [],
    launch := (0, 0), iter := x.me.done, todo := some op }

def State.addAct (s : State) (a : PipeAct) : State :=
  (s.modNet fun t => { t with nextId := t.nextId + 1 }).modSvc fun t => { t with acts := t.acts ++ [a] }

def State.dropAct (s : State) (id : Nat) : State := s.modSvc fun v => { v with acts := v.acts.filter (·.id != id) }

/-- An action of the slot on the record may be applied now. -/
def State.mayActOn (s : State) (x : Ctx) (rec : Nat) : Bool := s.mayAct (newAct x rec (.launch 0 0) s)

/-- An action that launches, as the owner begins it. -/
def PipeAct.begun (a : PipeAct) (s : State) (q v code : Nat) (squash : Bool) : PipeAct :=
  let n := s.nextLseq a.record
  let members := if squash then s.memberWords a.record else []
  { a with result := word (n * 2 ^ 32 + code), squash := if squash then some (q, n, s.lowPos a.record) else none, members,
           launch := (q, v), todo := none, toSend := members.filter fun w => recordModule a.record w.toNat != 0xFF }

/-- A begun action, which stands in the list, goes on: it launches, or waits for the members of its squash. -/
def State.runAct (s : State) (a : PipeAct) : State :=
  match a.squash with
  | none => s.launchToken a
  | some (q, _, _) => if a.members.isEmpty then s.squashed a q else s

/-- A GUESS or a LAUNCH on a record: the owner begins it now, or it waits until it may be sent and begun. -/
def pipeAction (x : Ctx) (rec : Nat) (op : PipeOp) (s : State) : Fire :=
  let a := newAct x rec op s
  if !s.mayAct a then .sent (s.addAct a)
  else
    match s.judge rec op with
    | .trap c v => .trap s c v
    | .done w => .owed (s.pushReply x.k x.ins.serial x.n (some (word w)))
    | .launches q v code squash => let a := a.begun s q v code squash; .owed ((s.addAct a).runAct a)

def launch (x : Ctx) (g : Args) (s : State) : Fire :=
  match checkRecord x g.av s with
  | .bad f => f
  | .ok rec s => pipeAction x rec (.launch (bits g.bv.toNat 63 32) (bits g.bv.toNat 31 0)) s

def execLaunch (t : BitVec 9) (p : BitVec 2) (s : State) : Host.Outcome State Fault Refusal :=
  fire (.launch t p) (fun x g s => launch x g s) s

def guess (x : Ctx) (g : Args) (s : State) : Fire :=
  let b := g.bv.toNat
  let tag := x.ins.start.gentag.toNat
  let p := bits tag 31 0
  let l := bits tag 63 32
  if b / 2 ^ 32 != 0 then .trap s trRSVOPND g.bv
  else if l == 0 then .trap s trPIPESTATE (word p)
  else
    match checkRecord x g.av s with
    | .bad f => f
    | .ok rec s => pipeAction x rec (.guess p l b) s

/-- A stroke that is frozen or streamed out sends nothing until it resumes (R322). -/
def State.actRests (s : State) (a : PipeAct) : Bool := isSaved a.stroke || (s.stroke a.stroke).any (·.run.frozen)

/-- The instance that fired an action still runs. -/
def State.actLives (s : State) (a : PipeAct) : Bool := (s.inst a.stroke).any (·.serial == a.serial)

/-- A waiting action that may be sent and begun is begun. Its trap is that of its slot, which still holds its tokens; once the instance has committed nothing
is left to trap, or to take the result. -/
def State.beginAct (s : State) (a : PipeAct) : State :=
  match a.todo with
  | none => s
  | some op =>
    if s.actRests a || !s.mayAct a then s
    else
      match s.judge a.record op with
      | .trap c v =>
        let s := s.dropAct a.id
        if s.actLives a then (s.unsend a.stroke a.slot).takeTrap a.stroke a.slot c v else s
      | .done w => (s.dropAct a.id).pushReply a.stroke a.serial a.slot (some (word w))
      | .launches q v code squash =>
        let b := a.begun s q v code squash
        (s.modSvc fun t => { t with acts := t.acts.map fun c => if c.id == a.id then b else c }).runAct b

/-- A delivery of a squash leaves for a member on a peer module (R323). -/
def State.sendSquash (s : State) (a : PipeAct) : State :=
  match a.squash, a.toSend with
  | some (q, t, low), w :: rest =>
    (s.sendPeer (recordModule a.record w.toNat) w { msg := .squash a.id (a.record % 2 ^ 57) q t low w }).modSvc fun v =>
      { v with acts := v.acts.map fun c => if c.id == a.id then { c with toSend := rest } else c }
  | _, _ => s

/-- What the owners of records do as soon as they can: they begin waiting actions in the order of the list, and send squashes on. -/
def State.pumpActs (s : State) : State := s.svc.acts.foldl (fun s a => (s.beginAct a).sendSquash a) s

def execGuess (t : BitVec 9) (p : BitVec 2) (s : State) : Host.Outcome State Fault Refusal :=
  fire (.guess t p) (fun x g s => guess x g s) s

/-! ## Squashes (R310, R311) -/

/-- The slot of a record on a unit. -/
def UnitSt.slotOf (u : UnitSt) (rec : Nat) : Option (Nat × PipeSlot) := u.pipe.slots.find? (·.2.record == rec)

/-- floor(k, p). -/
def PipeSlot.floor (k : PipeSlot) (p : Nat) : Nat :=
  match tabFind k.kill (p % 256) with
  | some (q, f) => if q == p then f else 0
  | none => 0

/-- The kill table after a squash: of positions that share an entry the last one stands, and its floor is that of the squash when the one
before it was squashed too. -/
def PipeSlot.raise (k : PipeSlot) (q t low : Nat) : PipeSlot :=
  let first := max q low
  { k with kill := (span first (low + 256 - first)).foldl (fun kill p =>
      tabPut kill (p % 256) (p, if p ≥ q + 256 then t else max (k.floor p) t)) k.kill }

/-- A row: its key and its granules. -/
def PipeRegion.rowKey (r : PipeRegion) (u j : Nat) : Nat := spadKey u (r.offset + j * 16 * (r.rgran + 1))

/-- The header word of a row. -/
def State.rowHeader (s : State) (key : Nat) : Nat := s.mem.get key 8

/-- A row that the squash condemns is withdrawn: header zero, full bits clear, data unchanged. -/
def State.withdrawRow (s : State) (u : Nat) (r : PipeRegion) (q t j : Nat) : State :=
  let key := r.rowKey u j
  let h := s.rowHeader key
  if h != 0 && bits h 31 0 ≥ q && bits h 63 32 < t then
    s.modMem fun m => (m.localWrite u key (List.replicate 16 0)).setFulls key false (r.rgran + 1)
  else s

/-- absorb(record, q, s, low) at a unit. -/
def State.absorb (s : State) (u rec q t low : Nat) : State :=
  match (s.unit u).slotOf rec with
  | none => s
  | some (i, k) =>
    let s := s.modUnit u fun x => { x with pipe := { x.pipe with slots := tabPut x.pipe.slots i (k.raise q t low) } }
    let rows := (s.unit u).pipe.regions.filter (·.2.record == rec)
    rows.foldl (fun s e => (span 0 e.2.nrows).foldl (fun s j => s.withdrawRow u e.2 q t j) s) s

/-- SQUASH_ABSORB: the nib of a member absorbs the squash of begun action `n`. Of a member on a peer module to which it has been sent, the answer has come
(R323). -/
def squashAbsorb (n member : Nat) (s : State) : State :=
  match s.svc.acts[n]? with
  | none => s
  | some a =>
    match a.squash, a.members[member]? with
    | some (q, t, low), some w =>
      if a.toSend.contains w then s else
      let s := if recordModule a.record w.toNat == 0xFF then s.absorb (placeOfWord w.toNat / 64) a.record q t low else s
      let a := { a with members := listDrop a.members member }
      let s := s.modSvc fun v => { v with acts := listSet v.acts n a }
      if a.members.isEmpty then s.squashed a q else s
    | _, _ => s

def execSquashAbsorb (n member : Nat) (s : State) : Host.Outcome State Fault Refusal := .next (squashAbsorb n member s)

/-- A peer module's squash comes to a member on this one: its nib absorbs it, and the answer leaves. -/
def peerSquash (peer act record q t low : Nat) (member : Word) (s : State) : State :=
  let u := placeOfWord member.toNat / 64
  let s := s.sendPeer peer member { msg := .absorbed act member }
  if isNib u then s.absorb u (physKey 3 (peer % 256 * 2 ^ 49 + record % 2 ^ 49)) q t low else s

/-- A peer's answer: the member of begun action `act` has absorbed. -/
def peerAbsorbed (act : Nat) (member : Word) (s : State) : State :=
  match findIdx (fun a => a.id == act) s.svc.acts 0 with
  | none => s
  | some n =>
    match (s.svc.acts[n]?).bind fun a => findIdx (· == member) a.members 0 with
    | some m => squashAbsorb n m s
    | none => s

/-! ## Retires (R313) -/

def State.retire (s : State) (rec p : Nat) : State :=
  let x := s.ring rec p
  let s := if x.pos == p && x.live > 0 then s.setRing rec p { x with live := x.live - 1 } else s.recPut rec 0x020 1 1
  s.setLow rec

/-! ## SQREG (R314, R315) -/

/-- The lowest numbers below 8 that a table does not use. -/
def freeOf {α : Type} (t : Table α) : List Nat := (span 0 8).filter fun i => (tabFind t i).isNone

/-- The place word by which an owner names a nib: MODULE 0xFF in this module, on a peer the number by which that peer knows this module. -/
def memberPlace (rec u : Nat) : Nat :=
  (if rec / 2 ^ 57 == 3 then bits (Config.selfNumber (bits rec 56 49)).toNat 5 0 else 0xFF) * 2 ^ 24 + placeWord (u * 64)

/-- The nib is a member of the record after the action; none when the record has 256 members already. -/
def State.addMember (s : State) (rec u : Nat) : Option State :=
  let w := memberPlace rec u
  if (s.memberWords rec).any fun v => bits v.toNat 31 24 == bits w 31 24 && bits v.toNat 17 6 == bits w 17 6 then some s
  else
    let n := s.members rec
    if n ≥ 256 then none
    else
      let s := s.recPut rec (0x800 + 8 * n) 8 w
      some (s.recPut rec 0x008 8 (s.recGet rec 0x008 8 + 2 ^ 32))

/-- Slots without a registration are freed. -/
def PipeUnit.tidy (p : PipeUnit) : PipeUnit := p.release (fun _ => false) (fun _ => false)

/-- The slot check, the owner's action, and what the mode does with the slot; the result goes back. -/
def register (x : Ctx) (rec : Nat) (op : Nat → PipeUnit → PipeUnit) (result : Nat → Nat) (s : State) : Fire :=
  let u := unitOf x.k
  match ((s.unit u).slotOf rec).map (·.1) <|> (freeOf (s.unit u).pipe.slots).head? with
  | none => .trap s trPIPEFULL 1
  | some i =>
    if !s.mayActOn x rec then .hold s
    else
      match s.addMember rec u with
      | none => .trap s trPIPEFULL 3
      | some s =>
        let s := s.modUnit u fun y =>
          let p := y.pipe
          let p := { p with slots := if (tabFind p.slots i).isSome then p.slots else tabPut p.slots i { record := rec } }
          { y with pipe := (op i p).tidy }
        .owed (s.pushReply x.k x.ins.serial x.n (some (word (result i))))

def sqregChan (x : Ctx) (g : Args) (s : State) : Fire :=
  match checkRecord x g.av s with
  | .bad f => f
  | .ok rec s =>
    let b := g.bv.toNat
    if b == 0 then .trap s trRSVOPND g.bv
    else if b / 2 ^ x.st.decl.chans != 0 then .trap s trCHANIDX g.bv
    else
      let chans := (span 0 x.st.decl.chans).filter (bit b ·)
      register x rec (fun _ p => { p with tokens := chans.foldl (fun t c => tabPut t (x.st.decl.chbase + c) (x.k, rec)) p.tokens }) id s

def execSqregChan (t : BitVec 9) (p : BitVec 2) (s : State) : Host.Outcome State Fault Refusal :=
  fire (.sqregChan t p) (fun x g s => sqregChan x g s) s

/-- Bytes that a region covers. -/
def PipeRegion.bytes (r : PipeRegion) : Nat := r.nrows * 16 * (r.rgran + 1)

def sqregRows (x : Ctx) (g : Args) (s : State) : Fire :=
  match checkRecord x g.av s with
  | .bad f => f
  | .ok rec s =>
    let b := g.bv.toNat
    let nreg := bits b 41 40 + 1
    let rgran := bits b 37 32
    let nrows := bits b 31 24 + 1
    let off := bits b 20 0
    let size := nrows * (rgran + 1) * 16
    let u := unitOf x.k
    let base := x.st.decl.wbase + off
    if b / 2 ^ 42 != 0 || bits b 39 38 != 0 || bits b 23 21 != 0 || rgran == 0 then .trap s trRSVOPND g.bv
    else if off % 16 != 0 then .trap s trMISALIGN (word off)
    else if off + nreg * size > x.st.decl.wsize then .trap s trSPADWIN (word off)
    else if (s.unit u).pipe.regions.any fun e => base < e.2.offset + e.2.bytes && e.2.offset < base + nreg * size then
      .trap s trPIPEREG (word off)
    else
      let free := freeOf (s.unit u).pipe.regions
      if free.length < nreg then .trap s trPIPEFULL 2
      else
        let mine := free.take nreg
        register x rec (fun _ p =>
          { p with regions := (mine.zip (span 0 nreg)).foldl (fun t e =>
              tabPut t e.1 { record := rec, stroke := x.k, offset := base + e.2 * size, rgran, nrows }) p.regions })
          (fun _ => mine.headD 0) s

def execSqregRows (t : BitVec 9) (p : BitVec 2) (s : State) : Host.Outcome State Fault Refusal :=
  fire (.sqregRows t p) (fun x g s => sqregRows x g s) s

/-- The stroke holds a registration of the record on its unit. -/
def UnitSt.holds (u : UnitSt) (k rec : Nat) : Bool :=
  (u.pipe.regions.any fun e => e.2.stroke == k && e.2.record == rec) || (u.pipe.tokens.any fun e => e.2 == (k, rec))

def sqregRel (x : Ctx) (g : Args) (s : State) : Fire :=
  match checkRecord x g.av s with
  | .bad f => f
  | .ok rec s =>
    if !(s.unit (unitOf x.k)).holds x.k rec then .value s 0
    else
      register x rec (fun _ p => p.release (fun r => r.stroke == x.k && r.record == rec) (· == (x.k, rec))) (fun _ => 0) s

def execSqregRel (t : BitVec 9) (p : BitVec 2) (s : State) : Host.Outcome State Fault Refusal :=
  fire (.sqregRel t p) (fun x g s => sqregRel x g s) s

/-! ## SQCHK (R316) -/

def isKvwr : Instr → Bool
  | .kvwr _ _ => true
  | _ => false

/-- Every slot of a class that is earlier in program order has acted. -/
def Ctx.earlierDone (x : Ctx) (cls : Instr → Bool) : Bool := x.classOk cls && x.classPast cls

def sqchk (ret slot : Nat) (x : Ctx) (g : Args) (s : State) : Fire :=
  let u := s.unit (unitOf x.k)
  match tabFind u.pipe.slots slot with
  | none => .trap s trPIPEREG (word slot)
  | some k =>
    if !u.holds x.k k.record then .trap s trPIPEREG (word slot)
    else
      let p := bits g.av.toNat 31 0
      let l := bits g.av.toNat 63 32
      let alive := l != 0 && l ≥ k.floor p
      let w : Word := if alive then 1 else 0
      if ret == 2 || (ret == 1 && !alive) then
        if !x.earlierDone isPipe || !x.earlierDone isKvwr || !s.mayActOn x k.record then .hold s
        else .owed ((s.retire k.record p).pushReply x.k x.ins.serial x.n (some w))
      else .value s w

def execSqchk (t : BitVec 9) (p : BitVec 2) (r : BitVec 2) (s' : BitVec 3) (s : State) : Host.Outcome State Fault Refusal :=
  fire (.sqchk t p r s') (fun x g s => if r == 3 then .trap s trRSVOPND g.av else sqchk r.toNat s'.toNat x g s) s

/-! ## KVWR and TAGRD (R317–R321) -/

/-- The destination of a KVWR: the unit and the offset in its scratchpad. -/
def State.rowAt (s : State) (x : Ctx) (a : Nat) : Loc :=
  let off := bits a 20 0
  if nibMalformed a then .trap trNIBADDR (word a)
  else if nibSelf a then
    if off ≥ x.st.decl.wsize then .trap trKVROW (word a) else .spad (unitOf x.k) (x.st.decl.wbase + off)
  else if !s.nibInPart a x.st.decl.part then .trap trNIBADDR (word a)
  else .spad (nibUnit a) off

/-- The region of a unit whose rows contain an offset. -/
def UnitSt.regionAt (u : UnitSt) (off : Nat) : Option PipeRegion :=
  (u.pipe.regions.find? fun e => e.2.offset ≤ off && off < e.2.offset + e.2.bytes).map (·.2)

/-- The write itself, unless the kill table or a newer row forbids it: the result and the state. -/
def writeRow (x : Ctx) (d off : Nat) (r : PipeRegion) (p l : Nat) (bs : List Byte) (s : State) : Fire :=
  let key := spadKey d off
  let own := d == unitOf x.k
  let h := s.rowHeader key
  let floor := (((s.unit d).slotOf r.record).map (·.2.floor p)).getD 0
  if l < floor || (h != 0 && (bits h 31 0 > p || (bits h 31 0 == p && bits h 63 32 > l))) then replyFrom own x s 0
  else
    let row := toBytes (l * 2 ^ 32 + p) 8 ++ toBytes 0 8 ++ bs
    -- a setting write to another nib carries what the stroke has stored before it (R121)
    if (if own then s.heldFrom x.k x.st.bnd key row.length else !(x.pastDone && x.st.outsStored)) then .hold s
    else
      let s := if own then s.modMem fun m => m.localWrite d key row else (s.spadBeats x.k d row.length 2).commitOwn x.k (some d) key row
      replyFrom own x (s.setting x.k (.spad d off) row.length) 1

def kvwr (x : Ctx) (g : Args) (s : State) : Fire :=
  let tag := x.ins.start.gentag.toNat
  let p := bits tag 31 0
  let l := bits tag 63 32
  let b := g.bv.toNat
  if l == 0 then .trap s trPIPESTATE (word p)
  else
    match s.rowAt x g.av.toNat with
    | .trap c v => .trap s c v
    | .spad d off =>
      match (s.unit d).regionAt off with
      | none => .trap s trKVROW g.av
      | some r =>
        if off != r.offset + p % r.nrows * 16 * (r.rgran + 1) then .trap s trKVROW g.av
        else
          let n := 16 * r.rgran
          if b % 16 != 0 then .trap s trMISALIGN g.bv
          else if b + n > x.st.decl.wsize then .trap s trSPADWIN g.bv
          else
            let src := spadKey (unitOf x.k) (x.st.decl.wbase + b)
            match s.readTrap src n with
            | some f => f
            | none =>
              let (bs, s) := s.loadBytes x.k src n
              writeRow x d off r p l bs s
    | _ => .hold s

def execKvwr (t : BitVec 9) (p : BitVec 2) (s : State) : Host.Outcome State Fault Refusal :=
  fire (.kvwr t p) (fun x g s => kvwr x g s) s

def execTagrd (t : BitVec 9) (p : BitVec 2) (s : State) : Host.Outcome State Fault Refusal :=
  fire (.tagrd t p) (fun x _ s => .value s x.ins.start.gentag) s

end Sys2Proof.Machine
end

