-- ==== Sys2Proof/Machine/Sha.lean ====
section
/-!
DEFINITION. Machine/Sha.lean: the SHA-256 digest that R427 and R428 name (FIPS 180-4; log entry 54).
-/
namespace Sys2Proof.Machine

/-! ## The constants, from the roots of the first primes -/

/-- The largest number that continues `r` with `n` more binary digits and whose `e`-th power is at most `x`. -/
def rootFrom (e x : Nat) : Nat → Nat → Nat
  | 0, r => r
  | n + 1, r => rootFrom e x n (if (r + 2 ^ n) ^ e ≤ x then r + 2 ^ n else r)

/-- The first 32 binary places of the fraction of the `e`-th root of `p`. -/
def rootFraction (e p : Nat) : BitVec 32 := BitVec.ofNat 32 (rootFrom e (p * 2 ^ (32 * e)) 40 0)

/-- The first 64 primes: the primes up to 311. -/
def shaPrimes : List Nat := ((List.range 310).map (· + 2)).filter fun n => (List.range 16).all fun d => d + 2 ≥ n || n % (d + 2) != 0

/-- The constants of the rounds, of cube roots. -/
def shaRoundConstants : List (BitVec 32) := shaPrimes.map (rootFraction 3)

/-- The value that a digest starts from, of square roots. -/
def shaStart : List (BitVec 32) := (shaPrimes.take 8).map (rootFraction 2)

/-! ## The message -/

/-- The padded message: a one bit, zeros, and the length in bits as eight bytes, most significant first. -/
def shaPad (m : List Byte) : List Byte :=
  m ++ [0x80] ++ List.replicate ((119 - m.length % 64) % 64) 0 ++ (toBytes (8 * m.length) 8).reverse

/-- The big-endian words of bytes, `n` of them. -/
def shaWords : Nat → List Byte → List (BitVec 32)
  | 0, _ => []
  | n + 1, l => BitVec.ofNat 32 (ofBytes (l.take 4).reverse) :: shaWords n (l.drop 4)

/-! ## The functions on words -/

/-- The sum modulo 2 of a word turned right by each of some amounts. -/
def shaTurns (x : BitVec 32) (l : List Nat) : BitVec 32 := l.foldl (fun a n => a ^^^ x.rotateRight n) 0

/-- Each bit of `y` where `x` has a one, of `z` elsewhere. -/
def shaChoose (x y z : BitVec 32) : BitVec 32 := (x &&& y) ||| (~~~x &&& z)

/-- Each bit as most of the three have it. -/
def shaMost (x y z : BitVec 32) : BitVec 32 := (x &&& (y ||| z)) ||| (y &&& z)

/-- The message schedule, newest word first: `n` more words, each of those 2, 7, 15 and 16 places before it. -/
def shaSchedule : Nat → List (BitVec 32) → List (BitVec 32)
  | 0, w => w
  | n + 1, w =>
    let back (i : Nat) : BitVec 32 := w.getD (i - 1) 0
    let old := shaTurns (back 15) [7, 18] ^^^ (back 15 >>> 3)
    let new := shaTurns (back 2) [17, 19] ^^^ (back 2 >>> 10)
    shaSchedule n ((old + new + back 7 + back 16) :: w)

/-- The two halves of the working variables, a to d and e to h, each its newest first. -/
structure ShaVars where
  left : List (BitVec 32)
  right : List (BitVec 32)

/-- One round: each half takes in a new word and gives up its oldest. -/
def ShaVars.round (v : ShaVars) (constant word : BitVec 32) : ShaVars :=
  let l (i : Nat) := v.left.getD i 0
  let r (i : Nat) := v.right.getD i 0
  let t := constant + word + r 3 + shaChoose (r 0) (r 1) (r 2) + shaTurns (r 0) [6, 11, 25]
  { left := (t + shaMost (l 0) (l 1) (l 2) + shaTurns (l 0) [2, 13, 22]) :: v.left.take 3, right := (l 3 + t) :: v.right.take 3 }

/-- A block's 64 bytes are taken into a digest. -/
def shaBlock (d : List (BitVec 32)) (block : List Byte) : List (BitVec 32) :=
  let words := (shaSchedule 48 (shaWords 16 block).reverse).reverse
  let v := (List.zip shaRoundConstants words).foldl (fun v x => v.round x.1 x.2) (ShaVars.mk (d.take 4) (d.drop 4))
  List.zipWith (· + ·) d (v.left ++ v.right)

/-- The blocks of a padded message in turn, `n` of them. -/
def shaBlocks : Nat → List Byte → List (BitVec 32) → List (BitVec 32)
  | 0, _, d => d
  | n + 1, l, d => shaBlocks n (l.drop 64) (shaBlock d (l.take 64))

/-- The digest of a message, 32 bytes. -/
def sha256 (m : List Byte) : List Byte :=
  let p := shaPad m
  (shaBlocks (p.length / 64) p shaStart).flatMap fun w => (toBytes w.toNat 4).reverse

end Sys2Proof.Machine
end

