-- ==== Sys2Proof/Machine/Reliability.lean ====
section
/-!
DEFINITION. Machine/Reliability.lean: errors and their reports (R418–R421), links and spares (R411, R418, R422), the slew limiter, gated routers and the clock (R17,
R425, R426), reset and attestation (R427, R428).
-/
namespace Sys2Proof.Machine

/-! ## Errors (R418–R420) -/

/-- R420: the report goes to channel 1 of the slab's management nib. -/
def State.reportError (s : State) (ue : Bool) (kind slab unit : Nat) : State :=
  s.post (.engine (unitNum slab unit)) (placeNum slab 162 1) (errorReport ue kind slab unit)

/-- CORRECTABLE_ERROR: the data is corrected; the error is counted, and every 256th is reported. -/
def correctableError (kind slab unit : Nat) (s : State) : State :=
  if kind > 10 || slab > 11 then s
  else
    let n := (bits (s.csrGet 0x60 slab kind) 31 0 + 1) % 2 ^ 32
    let s := s.csrPut 0x60 slab kind n
    if n % 256 == 0 then s.reportError false kind slab unit else s

def execCorrectableError (kind slab unit : Nat) (s : State) : Host.Outcome State Fault Refusal :=
  .next (correctableError kind slab unit s)

/-- `n` bytes around a key, which share one code word, hold an uncorrectable error. -/
def State.poisonAt (s : State) (key n : Nat) : State := s.modMem fun m => m.poisonFrom (key / n * n) (n / 4)

/-! ## Config-store errors (R421) -/

/-- CONFIG_STORE_ERROR: the image of a block is lost: regions that run it freeze with their tokens in place, until it is loaded again. -/
def configStoreError (unit addr : Nat) (s : State) : State :=
  if !((s.unit unit).images.any (·.addr == addr)) then s
  else
    let s := s.modUnit unit fun u => { u with badImages := if u.badImages.contains addr then u.badImages else u.badImages ++ [addr] }
    s.strokes.foldl (fun s e =>
      if unitOf e.1 == unit then s.modInst e.1 fun i => if i.addr == addr then { i with reloading := true } else i else s) s

/-- R420: ERRADDR holds the location of an uncorrectable error, and the error is reported. -/
def State.reportUncorrectable (s : State) (kind slab unit loc : Nat) : State :=
  (s.csrPut 0x61 slab 0 (loc % 2 ^ 57)).reportError true kind slab unit

/-- CONFIG_STORE_ERROR of an image that the unit holds: it freezes what runs it, and is reported as an uncorrectable error of KIND 6. -/
def execConfigStoreError (unit addr : Nat) (s : State) : Host.Outcome State Fault Refusal :=
  .next (if (s.unit unit).images.any (·.addr == addr) then
    (configStoreError unit addr s).reportUncorrectable 6 (slabOf unit) (nibOf unit) addr else s)

/-- A stroke of the unit stands on the block: it runs it, or its PC has come to it. -/
def Stroke.onBlock (t : Stroke) (addr : Nat) : Bool :=
  match t.run.inst with
  | some i => i.addr == addr && i.reloading
  | none => t.run.state == .run && t.regs.pc.toNat == addr

/-- A stroke goes on when the block is as it was, and traps with CFGLOST when it has changed. -/
def State.afterReload (s : State) (k : Nat) (same : Bool) : State :=
  let s := s.modInst k fun i => { i with reloading := false }
  if same then s else s.takeTrap k 64 trILLBLOCK 0x0D

/-- CONFIG_IMAGE_RELOADED: the image is decoded again from memory, and the signatures are compared. A fetch that faults is the trap of the strokes that
stand on the block; one that meets an absent page waits. -/
def configImageReloaded (unit addr : Nat) (s : State) : State :=
  if !(s.unit unit).badImages.contains addr then s
  else
    let old := (s.unit unit).images.find? (·.addr == addr)
    let s := s.modUnit unit fun u =>
      { u with images := u.images.filter (·.addr != addr), badImages := u.badImages.filter (· != addr) }
    let mine := (s.strokes.filter fun e => unitOf e.1 == unit && e.2.onBlock addr).map (·.1)
    match mine with
    | [] => s
    | k :: _ =>
      match s.image k addr with
      | (.error (.absent r p), s) =>
        let s := s.modUnit unit fun u => { u with images := u.images ++ old.toList, badImages := u.badImages ++ [addr] }
        s.requestPage (((s.stroke k).map (·.decl.part)).getD 0) r p false (slabOf unit)
      | (.error (.fault c v), s) => mine.foldl (fun s k => (s.modInst k fun i => { i with reloading := false }).takeTrap k 64 c v) s
      | (.error (.ok _), s) => s
      | (.ok new, s) =>
        mine.foldl (fun s k =>
            let lost := (s.inst k).map (fun i => Config.imageSignature (i.header :: i.words)) <|> old.map (·.sig)
            s.afterReload k (lost.all (· == new.sig))) s

def execConfigImageReloaded (unit addr : Nat) (s : State) : Host.Outcome State Fault Refusal :=
  .next (configImageReloaded unit addr s)

/-- Where an uncorrectable error of a kind strikes: `loc` is a physical address with the tier above it, an offset in the unit's store, a residency
slot, a block address or an offset in the copybook area. -/
def State.strike (s : State) (kind slab unit loc : Nat) : State :=
  let u := unitNum slab unit
  match kind with
  | 0 => s.poisonAt (physKey 0 (loc % 2 ^ 57)) 64
  | 1 => s.poisonAt (physKey 1 (loc % 2 ^ 57)) 64
  | 2 => s.poisonAt (physKey (loc / 2 ^ 57 % 4) (loc % 2 ^ 57)) 16
  | 3 => s.poisonAt (spadKey u (loc % 2 ^ 21)) 16
  | 4 =>
    let k := u * 32 + loc % 32
    s.modUnit u fun x => { x with badRegs := if x.badRegs.contains k then x.badRegs else x.badRegs ++ [k] }
  | 5 => s.poisonAt (if loc < 2 ^ 18 then accKey u loc else tileKey u (loc % 2 ^ 15)) 4
  | 6 => configStoreError u loc s
  | 7 => s.poisonAt (candKey u (loc % 2 ^ 23)) 8
  | 10 => s.damageCopy slab (loc / 2 ^ 18 % 1024)
  | _ => s

/-- UNCORRECTABLE_ERROR: ERRADDR holds the location, the error is reported, and its consumer will meet it. -/
def uncorrectableError (kind slab unit loc : Nat) (s : State) : State :=
  if kind > 10 || slab > 11 then s
  else (s.strike kind slab unit loc).reportUncorrectable kind slab unit loc

def execUncorrectableError (kind slab unit loc : Nat) (s : State) : Host.Outcome State Fault Refusal :=
  .next (uncorrectableError kind slab unit loc s)

/-! ## Links (R411, R418, R422) -/

/-- A flit has come in by the link end at a key, with its number and whether its CRC holds. One that holds and whose turn it is is taken; a failure
is corrected by replay, and the sixteenth in a row is an uncorrectable error of the link (R418). -/
def State.flit (s : State) (key kind slab port seq : Nat) (ok : Bool) : State × Bool :=
  let x := s.link key
  if !ok then
    let s := s.setLink key { x with bad := x.bad + 1 }
    (if x.bad + 1 == 16 then s.reportUncorrectable kind slab port port else correctableError kind slab port s, false)
  else if seq == x.next then (s.setLink key { x with next := (x.next + 1) % 4096, bad := 0 }, true)
  else (s, false)

/-- Key of a slab's die-link port among the links. -/
def dieKey (slab port : Nat) : Nat := slab * 4 + port

/-- DIE_LINK_FLIT at a link's end, a slab and a port of it that faces another slab. -/
def execDieLinkFlit (link : Nat × Nat) (seq : Nat) (crcOk : Bool) (s : State) : Host.Outcome State Fault Refusal :=
  .next (if (neighbour link.1 link.2).isSome then (s.flit (dieKey link.1 link.2) 8 link.1 link.2 seq crcOk).1 else s)

/-- The flits of a replay buffer up to the one that an acknowledgement names, which have arrived, and those sent after it. -/
def ackFlits (ack : Nat) (l : List (Nat × List LinkMsg)) : List (Nat × List LinkMsg) × List (Nat × List LinkMsg) :=
  match findIdx (fun e => e.1 == ack) l 0 with
  | some i => (l.take (i + 1), l.drop (i + 1))
  | none => ([], l)

/-- Channel words of flits that have arrived: their senders are told (R145). -/
def State.wordsCame (s : State) (l : List (Nat × List LinkMsg)) : State :=
  ((l.flatMap (·.2)).filterMap (·.word)).foldl (·.delivered ·) s

/-- What a message from a peer brings about. The answer to an access of this module has been taken with the access (log entry 78). -/
def peerMessage (peer : Nat) (m : PeerMsg) (s : State) : State :=
  match m with
  | .word place w => peerWordArrival peer place w s
  | .access a tier pa n data => peerMemoryAccess peer a tier pa n data s
  | .reply .. => s
  | .squash act record q t low member => peerSquash peer act record q t low member s
  | .absorbed act member => peerAbsorbed act member s

/-- WYDAL_FLIT: the messages of a flit that is taken come next, in order; its acknowledgement frees the replay buffer of what has
arrived. -/
def wydalFlit (port : Nat) (f : Flit) (crc : BitVec 64) (s : State) : State :=
  if port ≥ wydalPorts then s
  else
    let key := wydalKey port
    let (s, taken) := s.flit key 9 (wydalSlab port) port f.seq.toNat (crc == Config.crc64 f)
    if !taken then s
    else
      let x := s.link key
      let b := ackFlits f.ack.toNat x.buffer
      let s := (s.setLink key { x with buffer := b.2, credits := f.credits, kind := f.kind }).modPlat fun p =>
        { p with peerVia := tabPut p.peerVia f.peer port }
      let s := s.wordsCame b.1
      { s with agenda := f.msgs.map (Pick.message f.peer) ++ s.agenda }

def execWydalFlit (port : Nat) (flit : Flit) (crc : BitVec 64) (s : State) : Host.Outcome State Fault Refusal :=
  .next (wydalFlit port flit crc s)

/-- The link ends that a link joins in this module, and its spare lanes. -/
def linkKeys : LinkId → List Nat × Nat
  | .die n => match dieLinkEnds n with
    | some (a, b) => ([dieKey a.1 a.2, dieKey b.1 b.2], 4)
    | none => ([], 0)
  | .wydal port => (if port < wydalPorts then [wydalKey port] else [], 1)

/-- LINK_LANE_RETRAIN: a spare lane is brought in at both ends, while there is one; flits are held meanwhile. -/
def execLinkLaneRetrain (link : LinkId) (s : State) : Host.Outcome State Fault Refusal :=
  let r := linkKeys link
  .next (if r.1.all fun key => (s.link key).lanes < r.2 then
    r.1.foldl (fun s key => let x := s.link key; s.setLink key { x with bad := 0, lanes := x.lanes + 1 }) s
  else s)

/-- LANE_SPARE_REMAP: at an idle lane pipe the nib's spare lane takes over. -/
def execLaneSpareRemap (unit lane : Nat) (s : State) : Host.Outcome State Fault Refusal :=
  .next (if isNib unit && lane < 16 && (s.unit unit).lane.queue.isEmpty && (s.unit unit).lane.spareFor.isNone then
    s.modUnit unit fun u => { u with lane := { u.lane with spareFor := some lane } } else s)

/-- WELL_ROW_REMAP: a well's spare row takes over; the lines it held are at their homes or read again, so no byte changes. -/
def execWellRowRemap (slab well row : Nat) (s : State) : Host.Outcome State Fault Refusal :=
  .next (if slab < 12 && well < 24 && (tabFind s.plat.wellRows (slab * 32 + well)).isNone then
    s.modPlat fun p => { p with wellRows := tabPut p.wellRows (slab * 32 + well) row } else s)

/-! ## Power (R17, R425, R426) -/

/-- The units of a slab whose engines the limiter counts. -/
def State.slewUnits (s : State) (slab : Nat) : List Nat := (s.units.map (·.1)).filter fun u => slabOf u == slab && isNib u

/-- An engine's next step of its ramp: up to its full rate while it has entries, down over three steps when its queue has emptied. -/
def rampStep (busy : Bool) : Option Nat → Option Nat
  | none => none
  | some n =>
    if n ≤ 3 then (if busy then some (min 3 (n + 1)) else some 4)
    else if busy then some 3 else if n ≥ 6 then none else some (n + 1)

/-- A release after a step: GRANT of its engines are admitted, unless an idle engine takes the step alone. -/
def SlewRelease.next (r : SlewRelease) (grant : Nat → Nat) (alone : Bool) : SlewRelease :=
  { r with step := r.step + 1, wait := if alone then r.wait else r.wait.drop (grant r.step) }

/-- SLEW_STEP: admitted engines go one step along their ramps. An engine that had been idle is admitted alone; in a step with none, GRANT of the engines
of each folio that wait since its release are (log entry 81). Idle engines count the step. -/
def slewStep (slab : Nat) (s : State) : State :=
  let lone := tabGet s.plat.slewLone slab []
  let grant := fun step => bits (s.csrGet 0x64 slab (min step 7)) 3 0
  let busy := fun u => !(s.unit u).matrix.queue.isEmpty
  let ramp := s.plat.ramp.filterMap fun e =>
    if slabOf e.1 == slab then (rampStep (busy e.1) (some e.2)).map fun n => (e.1, n) else some e
  let here := s.plat.slewing.filter (·.slab == slab)
  let admitted := if lone.isEmpty then here.flatMap fun r => r.wait.take (grant r.step) else lone.take 1
  s.modPlat fun p =>
    { p with slewing := (p.slewing.map fun r => if r.slab == slab then r.next grant (!lone.isEmpty) else r).filter (!·.wait.isEmpty),
             slewLone := tabPut p.slewLone slab (lone.drop 1),
             ramp := admitted.foldl (fun t u => tabPut t u 1) ramp,
             idle := (s.slewUnits slab).foldl (fun t u => if busy u then tabDel t u else tabPut t u (tabGet t u 0 + 1)) p.idle }

def execSlewStep (slab : Nat) (s : State) : Host.Outcome State Fault Refusal := .next (if slab < 12 then slewStep slab s else s)

/-- ROUTER_POWER_GATE: an idle router of a site is gated, unless IDLE is 0. -/
def execRouterPowerGate (slab site : Nat) (s : State) : Host.Outcome State Fault Refusal :=
  .next (if slab < 12 && site < sites && bits (s.csrGet 0x65 slab 0) 15 0 != 0 then
    s.modPlat fun p => { p with gated := tabPut p.gated (slab * 256 + site) true } else s)

def execRouterWake (slab site : Nat) (s : State) : Host.Outcome State Fault Refusal :=
  .next (if slab < 12 && site < sites then s.modPlat fun p => { p with gated := tabDel p.gated (slab * 256 + site) } else s)

/-- CLOCK_CHANGE: the governor sets the clock of the whole module, up to 2,250 MHz. -/
def execClockChange (mhz : Nat) (s : State) : Host.Outcome State Fault Refusal :=
  .next (if 0 < mhz && mhz ≤ 2250 then s.modPlat fun p => { p with clock := mhz } else s)

/-! ## Reset and attestation (R427, R428) -/

/-- Registers that the firmware loads at bring-up: ROLETAB, REGBASE, the owner ranges. -/
def bootRegister (code : Nat) : Bool := code == 0x62 || code == 0x50 || code == 0x41

/-- A first runtime stroke: it stands on a supervisor nib with one handler entry, on its channel 0, and is a candidate. It is a folio of its own, as every
stroke is of one (R144), and AREGION is the region of its entry block (Table 5-4). -/
def bootStroke (s : State) (b : BootStroke) : State :=
  let k := b.unit * 32 + b.slot
  if unitPriv b.unit != 1 || slabOf b.unit > 11 || b.slot ≥ 32 || (s.stroke k).isSome || b.chans == 0 || b.chbase + b.chans > 64 ||
      b.wbase + b.wsize > 1572864 then s
  else
    let t : Stroke :=
      { decl := { folio := s.eng.nextFolio, regs := b.regs, chans := b.chans, chbase := b.chbase, wbase := b.wbase, wsize := b.wsize },
        regs := { pc := b.pc, g := List.replicate (8 * b.regs) 0, aregion := BitVec.ofNat 16 (b.pc.toNat / 2 ^ 64) }, run := { state := .ready } }
    let f : Folio := { id := s.eng.nextFolio, slab := slabOf b.unit, job := 0, strokes := [k] }
    ((s.bear k t).modEng fun g => { g with folios := g.folios ++ [f], nextFolio := f.id + 1 }).modUnit b.unit fun u =>
      { u with handlers := tabPut u.handlers b.chbase { stroke := k, entry := b.pc, prio := b.prio % 8, masked := false },
               chanRuns := u.chanRuns ++ [{ base := b.chbase, len := b.chans, owner := k }],
               windows := if b.wsize == 0 then u.windows else u.windows ++ [{ base := b.wbase, len := b.wsize, owner := k }] }

/-- R427: the firmware maps the slabs, loads REGBASE and the owner ranges, and places the first runtime strokes. -/
def bringUp (b : Boot) (s : State) : State :=
  let s := b.regs.foldl (fun s r => if bootRegister r.1 then s.csrEvent r.1 r.2.1 r.2.2.1 r.2.2.2 else s) s
  b.strokes.foldl bootStroke s

/-- MODULE_RESET: every register takes its reset value, and FWSTAT tells whether the firmware image passed its check. Without a boot list it failed, and
the module stays in reset; else the firmware brings the module up before READY is set. Free values go on where they stood. -/
def execModuleReset (boot : Option Boot) (version : BitVec 32) (s : State) : Host.Outcome State Fault Refusal :=
  let r : State := { State.reset with fresh := s.fresh, inReset := boot.isNone }
  let r := match boot with
    | some b => bringUp b r
    | none => r
  .next (r.csrPut 0x66 0 0 ((if boot.isSome then 2 ^ 63 else 2 ^ 62) + version.toNat))

/-- Key slots that hold a key, as 32 bytes. -/
def State.keyMask (s : State) : List Byte :=
  toBytes ((span 1 255).foldl (fun a i => if bit (s.csrGet 0x4C 0 i) 63 then a + 2 ^ i else a) 0) 32

/-- ROLETAB as the bytes whose digest is reported: slab by slab, eight bytes an entry, the lowest first: the model's choice (log entry 82). -/
def State.roleBytes (s : State) : List Byte :=
  (span 0 12).flatMap fun b => (span 0 168).flatMap fun n => toBytes (s.csrGet 0x62 b n) 8

/-- The items of R428 in the order it lists them: the digest of the image, that of ROLETAB, the mask of key slots and the nonce. -/
def State.reportItems (s : State) (nonce : List Byte) : List Byte :=
  sha256 Config.firmware ++ sha256 s.roleBytes ++ s.keyMask ++ nonce

/-- ATTEST_NONCE: the report is the items and the signature over them. -/
def execAttestNonce (nonce : List Byte) (s : State) : Host.Outcome State Fault Refusal :=
  .next (if nonce.length == 32 then
    let items := s.reportItems nonce
    s.modPlat fun p => { p with nonce := nonce, report := items ++ Config.signature items } else s)

/-- The host reads bytes of the mailbox: the report from BAR0 offset 0x30_0040 on. -/
def mailboxRead (off n : Nat) (s : State) : State :=
  if off < 0x300040 then s else s.modPlat fun p => { p with hostData := (p.report.drop (off - 0x300040)).take n }

end Sys2Proof.Machine
end

