-- ==== Sys2Proof/Machine/Router.lean ====
section
/-!
DEFINITION. Machine/Router.lean: the loop generator and the router operators (R46, R88–R91).
-/
namespace Sys2Proof.Machine

/-- A true control token: not null and not zero. -/
def isTrue (t : Token) : Bool := match t with
  | some w => w != 0
  | none => false

/-- The marker of R88: every iteration when dense, only on a last index when sparse. -/
def marker (sparse : BitVec 1) (last : Bool) : Option Token :=
  if sparse == 0 then some (some (if last then 1 else 0)) else if last then some (some 1) else none

/-- The root counter pauses while a round edge of its region is still to be passed (R160). -/
def State.pausesRoot (s : State) (x : Ctx) : Bool := s.edgeOf x.k x.st < s.rounds.issued

/-- The root counter may emit its next index. -/
def State.rootReady (s : State) (x : Ctx) : Bool :=
  x.me.mode != .owed && x.me.out1.isNone && x.me.out2.isNone && !s.pausesRoot x &&
    (match x.ins.bound with
     | none => x.me.portA.isSome
     | some b => x.ins.emitted < max b 1)

/-- The root counter (R88): it takes its bound once and emits one index per firing. -/
def rootCounter (t v : BitVec 9) (sparse : BitVec 1) (x : Ctx) (s : State) : State :=
  if !s.rootReady x then s
  else
    let b := match x.ins.bound with
      | some b => b
      | none => (x.me.portA.join.getD 0).toNat
    let c := x.ins.emitted
    let last := b == 0 || c == b - 1
    let idx : Token := if b == 0 then none else some (word c)
    let r2 := marker sparse last
    match (s.routeTrap x.k t (some idx)).or (s.routeTrap x.k v r2) with
    | some (code, val) => s.takeTrap x.k x.n code val
    | none =>
      let s := s.modInst x.k fun i => { i with bound := some b, emitted := c + 1 }
      let s := s.modSlot x.k x.n fun y => { y with portA := none, done := y.done + 1, fired := y.fired + 1, count := c + 1 }
      s.emit x.k x.n t v (some idx) r2

/-- A nested counter (R88). -/
def nestedCounter (adv sparse : BitVec 1) (x : Ctx) (g : Args) (s : State) : Fire :=
  let b := g.av.toNat
  let c := x.me.count
  let go := adv == 0 || isTrue g.b
  let last := go && (b == 0 || c + 1 ≥ b)
  let s := if go then s.modSlot x.k x.n fun y => { y with count := if last then 0 else c + 1 } else s
  .send s (some (if b == 0 then none else some (word c))) (marker sparse last)

def execCtr (t v : BitVec 9) (a sp : BitVec 1) (s : State) : Host.Outcome State Fault Refusal :=
  match s.ctx with
  | some x =>
    if x.n == 0 && x.ins.stream then .next (rootCounter t v sp x s)
    else fire (.ctr t v a sp) (fun x g s => nestedCounter a sp x g s) s
  | none => .next s

def execSteer (t v : BitVec 9) (s : State) : Host.Outcome State Fault Refusal :=
  fire (.steer t v) (fun _ g s => match g.c with
    | none => .result s none
    | some c => if c != 0 then .send s (some g.a) none else .send s none (some g.a)) s

/-- MERGE: only the selected port is awaited and taken. -/
def execMerge (t v : BitVec 9) (s : State) : Host.Outcome State Fault Refusal :=
  fire (.merge t v) (fun _ g s => match g.c with
    | none => .result s none
    | some c => .result s (if c != 0 then g.a else g.b)) s

/-- CARRY discards the one feedback token that follows a true C. -/
def dropFeedback (x : Ctx) (s : State) : State :=
  if x.me.drop && x.me.portB.isSome then
    (s.modSlot x.k x.n fun y => { y with portB := none, drop := false }).flush x.k
  else s

def execCarry (t v : BitVec 9) (s : State) : Host.Outcome State Fault Refusal :=
  let s := match s.ctx with
    | some x => dropFeedback x s
    | none => s
  fire (.carry t v) (fun x g s =>
    let src := if x.me.fresh then g.a else g.b
    let last := isTrue g.c
    .result (s.modSlot x.k x.n fun y => { y with fresh := last, drop := y.drop || last }) src) s

def execInvar (t v : BitVec 9) (s : State) : Host.Outcome State Fault Refusal :=
  fire (.invar t v) (fun x g s =>
    let held : Token := match x.me.keep with
      | some h => h
      | none => g.a
    .result (s.modSlot x.k x.n fun y => { y with keep := if isTrue g.c then none else some held }) held) s

/-- RRMERGE: A and B strictly in turn; a null takes its turn. -/
def execRrmerge (t v : BitVec 9) (b : BitVec 1) (s : State) : Host.Outcome State Fault Refusal :=
  fire (.rrmerge t v b) (fun x g s =>
    let takesA := (b == 1) == x.me.turned
    .result (s.modSlot x.k x.n fun y => { y with turned := !y.turned }) (if takesA then g.a else g.b)) s

end Sys2Proof.Machine
end

