-- ==== Sys2Proof/Machine/Sampler.lean ====
section
/-!
DEFINITION. Machine/Sampler.lean: sequence contexts (R329–R331), candidates, random registers, penalties and the count journal, grammar state and drawing
(R333–R341), and draft trees (R342).
-/
namespace Sys2Proof.Machine

/-! ## Contexts (R329, R330) -/

/-- The area of a context that a stroke's partition owns: its key. -/
def State.contextOf (s : State) (x : Ctx) (c : Nat) : Option Nat :=
  let u := unitOf x.k
  let w := s.csrGet 0x44 (slabOf u) ((nibOf u - 0xF0) * 256 + c)
  if bit w 63 && bits w 7 0 == x.st.decl.part then some (candKey u (c * 32768)) else none

/-- The area that a context word names. -/
def State.context (s : State) (x : Ctx) (w : Word) : Option Nat := if w.toNat / 256 != 0 then none else s.contextOf x w.toNat

/-- A word of a context area. -/
def State.ctxGet (s : State) (c off : Nat) : Nat := s.mem.get (c + off) 8

def State.ctxPut (s : State) (c off v : Nat) : State := s.modMem fun m => m.commitWrite (c + off) (toBytes v 8)

/-- A word with one of its fields replaced. -/
def setField (w hi lo v : Nat) : Nat := w - bits w hi lo * 2 ^ lo + v % 2 ^ (hi + 1 - lo) * 2 ^ lo

/-- R418 KIND 7: UNCORR of a word of candidate memory. What TRAPVAL holds for it no rule says. -/
def State.ctxTrap (s : State) : Fire := let (w, s) := s.drawWord; .trap s trUNCORR w

/-- One of the words at the offsets holds an uncorrectable error. -/
def State.ctxBad (s : State) (c : Nat) (offs : List Nat) : Bool := offs.any fun o => (s.mem.poisoned (c + o) 8).isSome

/-- An action on the context that a context word names. -/
def onContext (x : Ctx) (w : Word) (op : Nat → State → Fire) (s : State) : Fire :=
  match s.context x w with
  | none => .trap s trSMPCTX w
  | some c => op c s

/-- Offsets of the words of an array. -/
def wordsAt (base n : Nat) : List Nat := (span 0 n).map fun i => base + 8 * i

def State.jcount (s : State) (c : Nat) : Nat := min 256 (bits (s.ctxGet c 0) 24 16)
def State.ccount (s : State) (c : Nat) : Nat := min 64 (bits (s.ctxGet c 0) 6 0)

/-! ## CANDLD and CANDST (R333) -/

def atContext (x : Ctx) (w : Word) (op : Nat → State → Fire) (s : State) : Fire :=
  let a := w.toNat
  if a / 2 ^ 24 != 0 || bit a 15 then .trap s trSMPCTX w
  else
    match s.contextOf x (bits a 23 16) with
    | none => .trap s trSMPCTX w
    | some c => if a % 8 != 0 then .trap s trMISALIGN w else op (c + bits a 14 0) s

def execCandld (t : BitVec 9) (p : BitVec 2) (s : State) : Host.Outcome State Fault Refusal :=
  fire (.candld t p) (fun x g s => atContext x g.av (fun key s =>
    if s.ctxBad key [0] then s.ctxTrap else .value s (word (s.ctxGet key 0))) s) s

def execCandst (t : BitVec 9) (p : BitVec 2) (s : State) : Host.Outcome State Fault Refusal :=
  fire (.candst t p) (fun x g s => atContext x g.av (fun key s =>
    if s.ctxBad key [0] then s.ctxTrap else .value (s.ctxPut key 0 g.bv.toNat) 0) s) s

/-! ## TOPK (R334) -/

/-- A logit in the list of candidates: index and FP32 code. -/
structure Logit where
  index : Nat
  code : Nat
  deriving DecidableEq, Repr

/-- The key that orders a logit: −∞ for a NaN. -/
def Logit.key (l : Logit) : Num := let v := fp32 l.code; if v.isNan then .inf true else v

/-- A logit joins an ordered list of at most `n`: larger keys first, equal keys in order of arrival. -/
def insertLogit (n : Nat) (l : Logit) : List Logit → List Logit
  | [] => if n == 0 then [] else [l]
  | x :: t => if n == 0 then [] else if cmpNum l.key x.key > 0 then (l :: x :: t).take n else x :: insertLogit (n - 1) l t

/-- The raw element at an address, as an LD of its space reads it. -/
def topkElem (x : Ctx) (sp a : Nat) (bf : Bool) (s : State) : Acc Nat :=
  let n := if bf then 2 else 4
  match s.locate x.k x.stale sp a n 1 with
  | (.mem p, s) =>
    if p.fmt != 15 && p.fmt != (if bf then Fmt.code .bf16 else Fmt.code .f32) then
      .bad (.trap s trSIZEFMT (word (p.fmt + (if bf then 16 else 32))))
    else s.readLoc x.k p.key n
  | (.spad u off, s) => s.readLoc x.k (spadKey u off) n
  | (l, s) => .bad ((failLoc s l).getD (.hold s))

/-- Elements `i`, `i + 1`, …, `n` of them: the best so far, and whether a signalling NaN was met. -/
def topkRead (x : Ctx) (sp a : Nat) (bf : Bool) (k i : Nat) : Nat → List Logit → Bool → State → Acc (List Logit × Bool)
  | 0, best, nv, s => .ok (best, nv) s
  | n + 1, best, nv, s =>
    match topkElem x sp ((a + i * (if bf then 2 else 4)) % 2 ^ 64) bf s with
    | .bad f => .bad f
    | .ok v s =>
      let code := if bf then widen .bf16 v else v
      topkRead x sp a bf k (i + 1) n (insertLogit k { index := i, code } best) (nv || (fp32 code).isSig) s

/-- The code of a candidate's value: a NaN becomes the default one. -/
def quiet (code : Nat) : Nat := if (fp32 code).isNan then Fmt.nan .f32 else code

def topk (sp : Nat) (x : Ctx) (g : Args) (s : State) : Fire :=
  let b := g.bv.toNat
  let n := bits b 18 0
  let bf := bit b 28
  let a := g.av.toNat
  if b / 2 ^ 40 != 0 || bits b 31 29 != 0 || bits b 27 26 != 0 || bit b 19 || n == 0 || n > 262144 then .trap s trTOPKARG g.bv
  else
    match s.contextOf x (bits b 39 32) with
    | none => .trap s trSMPCTX g.bv
    | some c =>
      let sz := if bf then 2 else 4
      match s.locate x.k x.stale sp a sz 1 with
      | (l, s) =>
        match failLoc s l with
        | some f => f
        | none =>
          match s.locate x.k x.stale sp ((a + (n - 1) * sz) % 2 ^ 64) sz 1 with
          | (l, s) =>
            match failLoc s l with
            | some f => f
            | none =>
              match topkRead x sp a bf (bits b 25 20 + 1) 0 n [] false s with
              | .bad f => f
              | .ok (best, nv) s =>
                let m := best.length
                if s.ctxBad c [0] || (s.mem.partPoisoned (c + 0x200) (8 * m)).isSome then s.ctxTrap
                else
                  let bytes := best.flatMap fun l => toBytes (l.index * 2 ^ 32 + quiet l.code) 8
                  let s := s.modMem fun t => t.commitWrite (c + 0x200) bytes
                  let s := s.ctxPut c 0 (setField (s.ctxGet c 0) 6 0 m)
                  let s := if nv then s.raise x.k flagNV else s
                  .owed (s.pushReply x.k x.ins.serial x.n (some (word m)))

def execTopk (t : BitVec 9) (p : BitVec 2) (sp : BitVec 2) (s : State) : Host.Outcome State Fault Refusal :=
  fire (.topk t p sp) (fun x g s => topk sp.toNat x g s) s

/-! ## Random registers (R335) -/

def execRngseed (t : BitVec 9) (p : BitVec 2) (n : BitVec 2) (s : State) : Host.Outcome State Fault Refusal :=
  fire (.rngseed t p n) (fun x g s => onContext x g.av (fun c s =>
    let q := c + 0x100 + 32 * n.toNat
    if (s.mem.partPoisoned q 16).isSome || s.ctxBad q [16] then s.ctxTrap
    else
      let h := setField (s.ctxGet q 16) 0 0 0
      -- the seed and the counter fill their granule, whose error ends (R419)
      .value ((s.modMem fun m => m.commitWrite q (toBytes g.bv.toNat 8 ++ List.replicate 8 0)).ctxPut q 16 h) 0) s) s

def execRngnext (t : BitVec 9) (p : BitVec 2) (n : BitVec 2) (s : State) : Host.Outcome State Fault Refusal :=
  fire (.rngnext t p n) (fun x g s => onContext x g.av (fun c s =>
    let q := c + 0x100 + 32 * n.toNat
    if s.ctxBad q [0, 8, 16] then s.ctxTrap
    else
      let z := fmix ((s.ctxGet q 8 + s.ctxGet q 0) % 2 ^ 64)
      let h := s.ctxGet q 16
      if bit h 0 then .value ((s.ctxPut q 16 (setField h 0 0 0)).ctxPut q 8 (s.ctxGet q 8 + 1)) (word (z / 2 ^ 32))
      else .value (s.ctxPut q 16 (setField h 0 0 1)) (word (z % 2 ^ 32))) s) s

/-! ## The count table and the journal (R330, R336, R337) -/

/-- Offsets of the count entries that a probe for a token reads, the last of them where it stops. -/
def State.probeFrom (s : State) (c tok h : Nat) : Nat → List Nat
  | 0 => []
  | n + 1 =>
    let off := 0x4000 + 8 * (h % 2048)
    let w := s.ctxGet c off
    if !bit w 31 || bits w 17 0 == tok then [off] else off :: s.probeFrom c tok (h + 1) n

def State.probe (s : State) (c tok : Nat) : List Nat := s.probeFrom c tok tok 2048

/-- The entry where a probe stops. -/
def State.probed (s : State) (c tok : Nat) : Nat := (s.probe c tok).getLastD 0x4000

/-- A table entry is used for the token. -/
def usedFor (w tok : Nat) : Bool := bit w 31 && bits w 17 0 == tok

/-- count(t). -/
def State.countOf (s : State) (c tok : Nat) : Nat :=
  let w := s.ctxGet c (s.probed c tok)
  if usedFor w tok then bits w 63 32 else 0

/-- The journal's entries. -/
def State.journal (s : State) (c : Nat) : List Nat := (wordsAt 0x800 (s.jcount c)).map (s.ctxGet c)

/-- An entry's node is in a mask. -/
def inMask (m e : Nat) : Bool := bit m (bits e 35 32)

def jrnl (x : Ctx) (g : Args) (s : State) : Fire :=
  onContext x g.av (fun c s =>
    let b := g.bv.toNat
    if b / 2 ^ 36 != 0 || bits b 31 18 != 0 then .trap s trRSVOPND g.bv
    else if s.ctxBad c [0] then s.ctxTrap
    else
      let n := bits (s.ctxGet c 0) 24 16
      if n ≥ 256 then .trap s trJRNLFULL g.av
      else if s.ctxBad c [0x800 + 8 * n] then s.ctxTrap
      else .value ((s.ctxPut c (0x800 + 8 * n) b).ctxPut c 0 (setField (s.ctxGet c 0) 24 16 (n + 1))) (word n)) s

def execJrnl (t : BitVec 9) (p : BitVec 2) (s : State) : Host.Outcome State Fault Refusal :=
  fire (.jrnl t p) (fun x g s => jrnl x g s) s

/-- `remove E`: the entries that stay move down, those freed at the top are zero, and JCOUNT falls by |E|. A JCOUNT above 256 (R333) counts entries that the
journal does not have: they are in no E and stay counted (log entry 68). -/
def State.keepEntries (s : State) (c : Nat) (keep : List Nat) : State :=
  let n := s.jcount c
  if n ≤ keep.length then s
  else
    let bytes := keep.flatMap (toBytes · 8) ++ List.replicate (8 * (n - keep.length)) 0
    let w := s.ctxGet c 0
    (s.modMem fun m => m.commitWrite (c + 0x800) bytes).ctxPut c 0 (setField w 24 16 (bits w 24 16 + keep.length - n))

/-- One occurrence of a token is counted in the table. -/
def State.countToken (s : State) (c tok : Nat) : State :=
  let off := s.probed c tok
  let w := s.ctxGet c off
  let w := if bit w 31 then w else setField (setField (setField w 31 31 1) 17 0 tok) 63 32 0
  s.ctxPut c off (setField w 63 32 (min (bits w 63 32 + 1) (2 ^ 32 - 1)))

/-- The checks common to JCOMMIT and JDROP, and the entries in and out of the mask. -/
def onJournal (x : Ctx) (g : Args) (op : Nat → List Nat → List Nat → State → Fire) (s : State) : Fire :=
  onContext x g.av (fun c s =>
    let m := g.bv.toNat
    if m / 2 ^ 16 != 0 then .trap s trRSVOPND g.bv
    else if s.ctxBad c (0 :: wordsAt 0x800 (s.jcount c)) then s.ctxTrap
    else op c ((s.journal c).filter (inMask m)) ((s.journal c).filter (!inMask m ·)) s) s

def jcommit (c : Nat) (e keep : List Nat) (s : State) : Fire :=
  let toks := distinct (e.map (bits · 17 0))
  let new := (toks.filter fun t => !usedFor (s.ctxGet c (s.probed c t)) t).length
  let free := ((wordsAt 0x4000 2048).filter fun o => !bit (s.ctxGet c o) 31).length
  if s.ctxBad c (toks.flatMap (s.probe c)) then s.ctxTrap
  else if new > free then .trap s trCNTFULL (word new)
  else .value ((e.foldl (fun s w => s.countToken c (bits w 17 0)) s).keepEntries c keep) (word e.length)

def execJcommit (t : BitVec 9) (p : BitVec 2) (s : State) : Host.Outcome State Fault Refusal :=
  fire (.jcommit t p) (fun x g s => onJournal x g jcommit s) s

def execJdrop (t : BitVec 9) (p : BitVec 2) (s : State) : Host.Outcome State Fault Refusal :=
  fire (.jdrop t p) (fun x g s => onJournal x g (fun c e keep s => .value (s.keepEntries c keep) (word e.length)) s) s

/-! ## PEN (R338) -/

def Num.isFinite : Num → Bool
  | .nan _ => false
  | .inf _ => false
  | _ => true

/-- A penalty parameter that is finite and positive. -/
def Num.positive : Num → Bool
  | .fin neg _ _ => !neg
  | _ => false

/-- The value of a candidate that occurs `n > 0` times, penalised, with its flags. -/
def penalise (rep pres freq : Option Num) (n v : Nat) : Flagged Nat :=
  match fp32 v with
  | .nan sg => (Fmt.nan .f32, flagIf sg flagNV)
  | .inf _ => (v, 0)
  | y =>
    let (v, f1) : Flagged Nat := match rep, y with
      | some r, .fin neg _ _ => roundNum .f32 .rne false (if neg then (mulNum y r).1 else divNum y r)
      | _, _ => (v, 0)
    if pres.isNone && freq.isNone then (v, f1)
    else
      let terms := (pres.map Num.negate).toList
      let prods := (freq.map fun q => (q.negate, Num.fin false n 1)).toList
      let (w, f2) := fpSum .f32 .rne false prods (fp32 v :: terms)
      (w, f1 ||| f2)

/-- c(t) along a path. -/
def State.pathCount (s : State) (c m tok : Nat) : Nat :=
  min (s.countOf c tok + ((s.journal c).filter fun e => inMask m e && bits e 17 0 == tok).length) (2 ^ 32 - 1)

/-- PEN. Where PRES and FREQ are both enabled and not finite, PRES is named: the model's choice (log entry 74). -/
def pen (sf rep pres freq : Bool) (x : Ctx) (g : Args) (s : State) : Fire :=
  onContext x g.av (fun c s =>
    let m := g.bv.toNat
    if m / 2 ^ 16 != 0 then .trap s trRSVOPND g.bv
    else
      let cands := wordsAt 0x200 (s.ccount c)
      let toks := cands.map fun o => s.ctxGet c o / 2 ^ 32
      if s.ctxBad c ([0, 0x10, 0x18] ++ cands ++ wordsAt 0x800 (s.jcount c)) || s.ctxBad c (toks.flatMap (s.probe c)) then s.ctxTrap
      else
        let r := fp32 (bits (s.ctxGet c 0x10) 31 0)
        let pr := fp32 (bits (s.ctxGet c 0x10) 63 32)
        let fr := fp32 (bits (s.ctxGet c 0x18) 31 0)
        if rep && !r.positive then .trap s trSMPARG 2
        else if pres && !pr.isFinite then .trap s trSMPARG 2
        else if freq && !fr.isFinite then .trap s trSMPARG 3
        else
          let opt := fun (b : Bool) (n : Num) => if b then some n else none
          let out := cands.map fun o =>
            let w := s.ctxGet c o
            let n := s.pathCount c m (w / 2 ^ 32)
            if n == 0 then (o, w, (0 : Flags), false)
            else
              let (v, fl) := penalise (opt rep r) (opt pres pr) (opt freq fr) n (w % 2 ^ 32)
              (o, setField w 31 0 v, fl, true)
          let flags := out.foldl (fun a e => a ||| e.2.2.1) 0
          let s := out.foldl (fun s e => s.ctxPut c e.1 e.2.1) s
          .value (if sf then s else s.raise x.k flags) (word (out.filter (·.2.2.2)).length)) s

def execPen (t : BitVec 9) (p : BitVec 2) (sp r q f : BitVec 1) (s : State) : Host.Outcome State Fault Refusal :=
  fire (.pen t p sp r q f) (fun x g s => pen (sp == 1) (r == 1) (q == 1) (f == 1) x g s) s

/-! ## Grammar state (R339, R340) -/

/-- The bits of a bitmap for a list of tokens, each read as a raw LD.b1. -/
def readBits (x : Ctx) (areg : Bool) (b : Nat) : List Nat → State → Acc (List Bool)
  | [], s => .ok [] s
  | t :: ts, s =>
    match s.locateVa x.k x.stale areg ((b + t / 8) % 2 ^ 64) 1 with
    | (.mem p, s) =>
      if p.fmt != 15 then .bad (.trap s trSIZEFMT (word p.fmt))
      else
        match s.readLoc x.k p.key 1 with
        | .bad f => .bad f
        | .ok v s =>
          match readBits x areg b ts s with
          | .bad f => .bad f
          | .ok l s => .ok (bit v (t % 8) :: l) s
    | (l, s) => .bad ((failLoc s l).getD (.hold s))

def gmask (areg : Bool) (x : Ctx) (g : Args) (s : State) : Fire :=
  onContext x g.av (fun c s =>
    if g.bv.toNat % 8 != 0 then .trap s trMISALIGN g.bv
    else
      let cands := wordsAt 0x200 (s.ccount c)
      if s.ctxBad c (0 :: cands) then s.ctxTrap
      else
        match readBits x areg g.bv.toNat (cands.map fun o => bits (s.ctxGet c o) 49 32) s with
        | .bad f => f
        | .ok l s =>
          let hit := (cands.zip l).filter (!·.2)
          let s := hit.foldl (fun s e => s.ctxPut c e.1 (setField (s.ctxGet c e.1) 31 0 0xFF800000)) s
          .owed (s.pushReply x.k x.ins.serial x.n (some (word hit.length)))) s

def execGmask (t : BitVec 9) (p : BitVec 2) (sp : BitVec 2) (s : State) : Host.Outcome State Fault Refusal :=
  fire (.gmask t p sp) (fun x g s => gmask (sp == 3) x g s) s

/-- A grammar block that may be copied, as the copy holds it; none when it breaks Table 13-3. -/
def grammarBlock (ws : List Nat) : Option (List Nat) :=
  let w := ws.headD 0
  let d := bits w 36 32
  if w / 2 ^ 37 != 0 || d > 28 then none
  else
    some (w :: ((ws.drop 1).zip (span 0 7)).map fun e =>
      let keep := 16 * (d - 4 * e.2)
      if keep ≥ 64 then e.1 else e.1 % 2 ^ keep)

/-- Copy a grammar block from one offset to another. -/
def copyGrammar (c src dst : Nat) (result : Nat → Word) (s : State) : Fire :=
  if s.ctxBad c (wordsAt src 8) then s.ctxTrap
  else
    match grammarBlock ((wordsAt src 8).map (s.ctxGet c)) with
    | none => .trap s trGRAMBAD (word src)
    | some l => .value (s.modMem fun m => m.commitWrite (c + dst) (l.flatMap (toBytes · 8))) (result (l.headD 0))

def onNode (x : Ctx) (g : Args) (op : Nat → Nat → State → Fire) (s : State) : Fire :=
  onContext x g.av (fun c s =>
    let n := g.bv.toNat
    if n / 16 != 0 then .trap s trRSVOPND g.bv else op c (0x400 + 64 * n) s) s

def execGsnap (t : BitVec 9) (p : BitVec 2) (s : State) : Host.Outcome State Fault Refusal :=
  fire (.gsnap t p) (fun x g s => onNode x g (fun c off s => copyGrammar c 0x40 off (fun _ => 0) s) s) s

def execGrest (t : BitVec 9) (p : BitVec 2) (s : State) : Host.Outcome State Fault Refusal :=
  fire (.grest t p) (fun x g s => onNode x g (fun c off s => copyGrammar c off 0x40 (fun w => zext w 32) s) s) s

/-! ## DRAW (R341) -/

/-- The largest of a list of values. -/
def maxNum : List Num → Num → Num
  | [], m => m
  | x :: t, m => maxNum t (if cmpNum x m > 0 then x else m)

/-- The weight of a candidate: an FP32 code and the flags of its two roundings. -/
def drawWeight (scale m v : Num) : Flagged Nat :=
  if v.isNan then (0, 0)
  else if m == .inf false then (if v == .inf false then 0x3F800000 else 0, 0)
  else
    let (d, _) := sumNum .rne [v, m.negate]
    let (a, f1) := roundNum .f32 .rne false (mulNum d scale).1
    let (u, f2) := fpFunction 2 0 false false a
    (u, f1 ||| f2)

/-- The first index whose running sum exceeds r / 2^32 of the whole. -/
def pickIndex (r : Nat) (total : Int × Nat) : List (Int × Nat) → Int × Nat → Nat → Nat
  | [], _, j => j - 1
  | u :: t, acc, j =>
    let acc := addFrac acc u
    if (r : Int) * total.1 * acc.2 < (2 ^ 32 : Nat) * acc.1 * total.2 then j else pickIndex r total t acc (j + 1)

def draw (sf greedy : Bool) (x : Ctx) (g : Args) (s : State) : Fire :=
  onContext x g.av (fun c s =>
    let b := g.bv.toNat
    if b / 2 ^ 32 != 0 then .trap s trRSVOPND g.bv
    else
      let cands := wordsAt 0x200 (s.ccount c)
      if s.ctxBad c (0 :: cands) || (!greedy && s.ctxBad c [8]) then s.ctxTrap
      else
        let vals := cands.map fun o => fp32 (s.ctxGet c o % 2 ^ 32)
        let f := vals.filter (!·.isNan)
        let nv := flagIf (vals.any Num.isSig) flagNV
        let done := fun (fl : Flags) (w : Nat) => Fire.value (if sf then s else s.raise x.k fl) (word w)
        let out := fun (j : Nat) => s.ctxGet c (0x200 + 8 * j) / 2 ^ 32 + j * 2 ^ 32
        if f.all (· == .inf true) then done nv (2 ^ 63)
        else
          let m := maxNum f (.inf true)
          if greedy then done nv (out ((findIdx (fun v => !v.isNan && cmpNum v m == 0) vals 0).getD 0))
          else
            let scale := fp32 (s.ctxGet c 8 % 2 ^ 32)
            if !scale.positive then .trap s trSMPARG 1
            else
              let us := vals.map (drawWeight scale m)
              let fr := us.map fun u => (fp32 u.1).frac
              let total := fr.foldl addFrac (0, 1)
              done (us.foldl (fun a u => a ||| u.2) nv) (out (pickIndex b total fr (0, 1) 0))) s

def execDraw (t : BitVec 9) (p : BitVec 2) (sp gr : BitVec 1) (s : State) : Host.Outcome State Fault Refusal :=
  fire (.draw t p sp gr) (fun x g s => draw (sp == 1) (gr == 1) x g s) s

/-! ## Draft trees (R342) -/

/-- Rows and depths of nodes `i`, `i + 1`, … , `n` of them, given those before; or the first node whose parent is not below it. -/
def treeRows (a : Nat) (i : Nat) : Nat → List (Nat × Nat) → Except Nat (List (Nat × Nat))
  | 0, acc => .ok acc
  | n + 1, acc =>
    let p := bits a (4 * i + 3) (4 * i)
    if p ≥ i then .error i
    else
      let q := acc.getD p (0, 0)
      treeRows a (i + 1) n (acc ++ [(q.1 + 2 ^ i, q.2 + 1)])

/-- The checks of R342, then a result from the rows and depths. -/
def onTree (g : Args) (op : List (Nat × Nat) → Nat) (s : State) : Fire :=
  let n := bits g.bv.toNat 4 0
  if n == 0 || n > 16 || bits g.bv.toNat 31 5 != 0 then .trap s trRSVOPND g.bv
  else
    match treeRows g.av.toNat 1 (n - 1) [(1, 0)] with
    | .error i => .trap s trTREEORD (word i)
    | .ok l => .value s (word (op l))

def execTmask (t : BitVec 9) (p : BitVec 2) (gr : BitVec 2) (s : State) : Host.Outcome State Fault Refusal :=
  fire (.tmask t p gr) (fun _ g s => onTree g (fun l =>
    let row := fun i => (l.getD i (0, 0)).1
    let b := 4 * gr.toNat
    row b + row (b + 1) * 2 ^ 16 + row (b + 2) * 2 ^ 32 + row (b + 3) * 2 ^ 48) s) s

/-- TDEPTH with POS: the position of a node. -/
def nodePos (base : Nat) (l : List (Nat × Nat)) (i : Nat) : Nat :=
  match l[i]? with
  | some e => (base + e.2) % 2 ^ 32
  | none => 0

def execTdepth (t : BitVec 9) (p : BitVec 2) (x : BitVec 1) (gr : BitVec 3) (s : State) : Host.Outcome State Fault Refusal :=
  fire (.tdepth t p x gr) (fun _ g s => onTree g (fun l =>
    if x == 1 then
      let base := bits g.bv.toNat 63 32
      nodePos base l (2 * gr.toNat) + nodePos base l (2 * gr.toNat + 1) * 2 ^ 32
    else (span 0 16).foldl (fun acc i => acc + (l.getD i (0, 0)).2 * 2 ^ (4 * i)) 0) s) s

end Sys2Proof.Machine
end

