-- ==== Sys2Proof/Machine/Tiles.lean ====
section
/-!
DEFINITION. Machine/Tiles.lean: tile-tasks: their dispatch, stealing, aging and execution (R224–R226).
-/
namespace Sys2Proof.Machine

/-! ## The entry (Table 8-8) -/

def tileOfmt (e : ChainEntry) : Nat := bits (entryWord e 1) 31 28
def tileAfmt (e : ChainEntry) : Nat := bits (entryWord e 1) 27 24
def tileBfmt (e : ChainEntry) : Nat := bits (entryWord e 1) 23 20
def tileSteps (e : ChainEntry) : Nat := bits (entryWord e 1) 19 13 + 1
def tilePublish (e : ChainEntry) : Bool := bit (entryWord e 1) 10
def tileShadow (e : ChainEntry) : Bool := bit (entryWord e 1) 9
def tileRegion (e : ChainEntry) : Nat := bits (entryWord e 1) 47 32
def tileDpitch (e : ChainEntry) : Nat := bits (entryWord e 6) 62 42
def tileBpitch (e : ChainEntry) : Nat := bits (entryWord e 6) 41 21
def tileApitch (e : ChainEntry) : Nat := bits (entryWord e 6) 20 0

def tileBad (e : ChainEntry) : Bool :=
  bits (entryWord e 1) 55 53 != 0 || bits (entryWord e 1) 8 0 != 0 || bit (entryWord e 6) 63 || !pairOk (tileAfmt e) (tileBfmt e) ||
    !ofmtOk (tileOfmt e) || entryWord e 2 % 16 != 0 || entryWord e 3 % 16 != 0 || entryWord e 4 % 16 != 0 || tileApitch e % 16 != 0 ||
    tileBpitch e % 16 != 0 || tileDpitch e % 16 != 0 || tileDpitch e < rowBytes (tileOfmt e) || (tilePublish e && !tileShadow e) ||
    bits (entryWord e 7) 62 18 != 0

/-! ## Local queues (R226) -/

/-- User nibs of a slab that may run a tile-task of a partition. -/
def State.tileNibs (s : State) (slab part : Nat) : List Nat :=
  ((span 0 160).map (unitNum slab)).filter fun u => s.unitPart u == some part && s.inService u

/-- The nib that the dispatcher chooses; none when every eligible local queue is full. A task that has started counts as one of the entries of its queue
until it completes (log entry 64). -/
def State.tileChoice (s : State) (slab part : Nat) : Option Nat :=
  let all := s.tileNibs slab part
  let q := fun u => (s.unit u).matrix
  let idle := all.filter fun u => (q u).queue.isEmpty && (q u).tiles.isEmpty
  let last := tabGet s.eng.tileLast slab 0
  match (idle.find? fun u => nibOf u > last).or idle.head? with
  | some u => some u
  | none =>
    (all.filter fun u => (q u).tiles.length < 4).foldl (fun (m : Option Nat) u => match m with
      | some v => if (q u).tiles.length < (q v).tiles.length then some u else some v
      | none => some u) none

/-- TILE_DISPATCH: the head entry of a tile-task chain goes to a local queue. -/
def tileDispatch (c : Nat) (s : State) : State :=
  match s.chain c with
  | none => s
  | some x =>
    if x.kind != 3 || (s.eng.chains.any fun y =>
        y.1 != c && y.2.kind == 3 && y.2.slab == x.slab && y.2.tileLevel > x.tileLevel && !y.2.posted.isEmpty && !y.2.halted &&
          y.2.waiting.isNone && (s.tileChoice y.2.slab y.2.part).isSome) then s
    else
      match s.tileChoice x.slab x.part with
      | none => s
      | some u =>
        match s.takeHead c x with
        | .nothing => s
        | .wait s => s
        | .entry s x e =>
          let cancelled := s.finishEntry c x e 2
          if s.jobKilled x.job && !cancelled.chainWaits c then cancelled
          else
            -- an entry that is cancelled while its own page is not present waits in the local queue
            let s := if s.jobKilled x.job then cancelled else s.modChain c fun y => { y with age := 0 }
            let s := s.modEng fun g => { g with tileLast := tabPut g.tileLast x.slab (nibOf u) }
            s.modMatrix u fun m => { m with tiles := m.tiles ++ [(c, e.num, e.addr)] }

def execTileDispatch (c : Nat) (s : State) : Host.Outcome State Fault Refusal := .next (tileDispatch c s)

/-- TILE_STEAL: an idle engine takes the oldest entry of the longest local queue of another eligible nib. -/
def tileSteal (u : Nat) (s : State) : State :=
  let x := (s.unit u).matrix
  match s.unitPart u with
  | none => s
  | some part =>
    if !x.queue.isEmpty || !x.tiles.isEmpty || x.tileRunning || !(s.tileNibs (slabOf u) part).contains u then s
    else
      let q := fun v => (s.unit v).matrix.tiles.length - (if (s.unit v).matrix.tileRunning then 1 else 0)
      let best := ((s.tileNibs (slabOf u) part).filter fun v => v != u && q v > 0).foldl (fun (m : Option Nat) v => match m with
        | some w => if q v > q w then some v else some w
        | none => some v) none
      match best with
      | none => s
      | some v =>
        let i := if (s.unit v).matrix.tileRunning then 1 else 0
        match (s.unit v).matrix.tiles[i]? with
        | none => s
        | some t =>
          (s.modMatrix v fun m => { m with tiles := listDrop m.tiles i, tileAged := false }).modMatrix u fun m =>
            { m with tiles := [t], tileAged := false }

def execTileSteal (u : Nat) (s : State) : Host.Outcome State Fault Refusal := .next (tileSteal u s)

/-- TILE_TASK_AGED: the head of a local queue has waited 16,384 cycles. -/
def execTileTaskAged (u : Nat) (s : State) : Host.Outcome State Fault Refusal :=
  .next (s.modMatrix u fun m => if m.tiles.isEmpty then m else { m with tileAged := true })

/-! ## Execution (R225) -/

/-- What an engine reads for a line: its bytes as a value. -/
def State.tileLine (s : State) (c : EngCtx) (base pitch fmt m j : Nat) : Eng (List Num) :=
  let w := operandNibbles fmt
  (s.engBytes c.part c.priv c.region c.rd (base + m * pitch + j * 16 * w) (16 * w)).andThen fun bs =>
    let v := ofBytes bs
    .ok ((span 0 32).map fun k => operandNum fmt (codeAt w v k))

/-- The 64 lines of an operand in step `j`, from line `m` on. -/
def State.tileLines (s : State) (c : EngCtx) (base pitch fmt j m : Nat) : Nat → Eng (List (List Num))
  | 0 => .ok []
  | n + 1 =>
    (s.tileLine c base pitch fmt m j).andThen fun l =>
      (s.tileLines c base pitch fmt j (m + 1) n).andThen fun r => .ok (l :: r)

/-- Steps `j`, `j + 1`, …, `n` of them, on the task accumulator. -/
def State.tileCompute (s : State) (c : EngCtx) (e : ChainEntry) (j : Nat) : Nat → List Nat → Flags → Eng (List Nat × Flags)
  | 0, t, f => .ok (t, f)
  | n + 1, t, f =>
    (s.tileLines c (entryWord e 2) (tileApitch e) (tileAfmt e) j 0 64).andThen fun as =>
      (s.tileLines c (entryWord e 3) (tileBpitch e) (tileBfmt e) j 0 64).andThen fun bs =>
        let r := stepTile (tileAfmt e == 5) t as bs
        s.tileCompute c e (j + 1) n (r.map (·.1)) (f ||| flagsOf r)

/-- Bytes at an address and onwards, by granules. -/
def splitRow (a : Nat) : Nat → List Byte → List (Nat × List Byte)
  | 0, _ => []
  | n + 1, bs => if bs.isEmpty then [] else (a, bs.take 16) :: splitRow (a + 16) n (bs.drop 16)

/-- The granules of the result, row by row. -/
def tileGranules (e : ChainEntry) (rows : List (List Byte)) : List (Nat × List Byte) :=
  rows.zipIdx.flatMap fun r => splitRow (entryWord e 4 + r.2 * tileDpitch e) 16 r.1

/-- How far the writes of a tile-task have come: done, a fault, or the page met and what is left. -/
inductive TileWrote where
  | done (s : State)
  | fault (s : State)
  | wait (s : State) (region page : Nat) (left : List (Nat × List Byte))

def tileWrite (c : EngCtx) (shadow : Bool) : List (Nat × List Byte) → State → TileWrote
  | [], s => .done s
  | (a, bs) :: t, s =>
    match s.writeAt c 1 a shadow with
    | .fault _ => .fault s
    | .absent r p => .wait s r p ((a, bs) :: t)
    | .ok d => tileWrite c shadow t (s.putAt d bs)

/-- The outcome of a tile-task: its code, its flags, or a wait, with what it has computed and still has to write. -/
inductive TileRan where
  | code (s : State) (n : Nat) (f : Flags)
  | wait (s : State) (region page : Nat) (left : Option (List (Nat × List Byte) × Flags))
  | later (s : State)

/-- The result is written, then published: a page that is not present makes the engine wait with what is left. -/
def tileStore (c : EngCtx) (e : ChainEntry) (f : Flags) (l : List (Nat × List Byte)) (s : State) : TileRan :=
  match tileWrite c (tileShadow e) l s with
  | .fault s => .code s 6 f
  | .wait s r p left => .wait s r p (some (left, f))
  | .done s' =>
    if tilePublish e then
      match s'.publishRange c (entryWord e 4) (63 * tileDpitch e + rowBytes (tileOfmt e)) with
      | .ok (some s) => .code s 1 f
      | .ok none => .later s
      | .absent r p => .wait s' r p (some ([], f))
      | .fault _ => .code s' 6 f
    else .code s' 1 f

/-- A tile-task runs, or goes on from what it has computed: it reads its operands whole, computes, and then writes. -/
def tileRun (x : Chain) (e : ChainEntry) (started : Option (List (Nat × List Byte) × Flags)) (s : State) : TileRan :=
  let c : EngCtx := { engCtx x e with region := tileRegion e }
  match started with
  | some (l, f) => tileStore c e f l s
  | none =>
    if tileBad e then .code s 7 0
    else
      match s.tileCompute c e 0 (tileSteps e) zeroTile 0 with
      | .fault _ => .code s 6 0
      | .absent r p => .wait s r p none
      | .ok (t, f) =>
        let out := t.map (drainCode (tileOfmt e) (Round.ofBits (bits (entryWord e 1) 12 11)))
        tileStore c e (f ||| flagsOf out) (tileGranules e ((rowsOf 64 64 (out.map (·.1))).map (drainBytes (tileOfmt e)))) s

/-- FLAGS of the entry, then CODE. -/
def State.finishTile (s : State) (c : Nat) (x : Chain) (e : ChainEntry) (code : Nat) (f : Flags) : State :=
  let s := match s.engWrite x e.priv e.region (e.addr + 14) [BitVec.ofNat 8 f.toNat] with
    | .ok s => s
    | _ => s
  s.finishEntry c x e code

/-- TILE_TASK: the engine runs the head of its local queue: when its matrix queue is empty, or after the entry that is executing when the
head has aged. -/
def tileTask (u : Nat) (s : State) : State :=
  let q := (s.unit u).matrix
  match q.tiles with
  | [] => s
  | (c, num, _) :: rest =>
    if !(q.queue.isEmpty || q.tileRunning || (q.tileAged && !(q.queue.any (·.executed)))) then s
    else
      let drop := fun (s : State) =>
        s.modMatrix u fun m => { m with tiles := rest, tileAged := false, tileRunning := false, tileRows := none }
      match s.chain c with
      | none => drop s
      | some x =>
        match x.entries.find? (·.num == num) with
        | none => drop s
        | some e =>
          if x.waiting.isSome then s
          else if s.jobKilled x.job && !q.tileRunning then
            let s := s.finishEntry c x e 2
            if s.chainWaits c then s else drop s
          else if (s.finishEntry c x e 1).chainWaits c then s.finishEntry c x e 1
          else
            match tileRun x e q.tileRows s with
            | .later s => s
            | .wait s r p left => (s.modMatrix u fun m => { m with tileRunning := true, tileRows := left }).chainWait c r p
            | .code s n f => (drop s).finishTile c x e n f

def execTileTask (u : Nat) (s : State) : Host.Outcome State Fault Refusal := .next (tileTask u s)

end Sys2Proof.Machine
end

