-- ==== Sys2Proof/Machine/Wash.lean ====
section
/-!
DEFINITION. Machine/Wash.lean: wash groups and wash loads (R255–R276).
-/
namespace Sys2Proof.Machine

/-! ## WGRP (R256, R257) -/

/-- A member word is well formed and names a nib of the partition. -/
def State.memberOk (s : State) (part w : Nat) : Bool :=
  w / 2 ^ 32 == 0 && bits w 31 24 == 0xFF && bits w 23 18 == 0 && bits w 17 14 ≤ 11 && bits w 13 6 ≤ 167 &&
    s.unitPart (unitNum (bits w 17 14) (bits w 13 6)) == some part

/-- A wash of the group is outstanding. -/
def State.washing (s : State) (g : Nat) : Bool := s.svc.washes.any (·.group == g)

/-- The group and partition of a group word. -/
def groupWord (a : Nat) : Option (Nat × Nat) :=
  if a / 2 ^ 24 != 0 || bits a 15 8 != 0 then none else some (bits a 7 0, bits a 23 16)

/-- Index of the first bad word of a member record. -/
def State.recordBad (s : State) (part w0 present : Nat) (ms : List Word) : Option Nat :=
  let n := bits w0 6 0
  if w0 / 128 != 0 || n == 0 || n > 64 then some 0
  else if present / 2 ^ n != 0 then some 1
  else findIdx (fun w => !s.memberOk part w.toNat) ms 2

def wgrpDef (x : Ctx) (g : Args) (s : State) : Fire :=
  match groupWord g.av.toNat with
  | none => .trap s trWGRPBAD 64
  | some (grp, part) =>
    let b := g.bv.toNat
    let base := spadKey (unitOf x.k) (x.st.decl.wbase + b)
    if b % 8 != 0 then .trap s trMISALIGN g.bv
    else if b + 16 > x.st.decl.wsize then .trap s trSPADWIN g.bv
    else
      match s.readTrap base 16 with
      | some f => f
      | none =>
        let (w0, s) := s.load x.k base 8
        let n := bits w0 6 0
        if b + 8 * (n + 2) > x.st.decl.wsize then .trap s trSPADWIN g.bv
        else
          match s.readTrap base (8 * (n + 2)) with
          | some f => f
          | none =>
            let (present, s) := s.load x.k (base + 8) 8
            let (ms, s) := s.windowWords x.k (base + 16) n
            match s.recordBad part w0 present ms with
            | some i => .trap s trWGRPBAD (word i)
            | none =>
              if s.washing grp then .trap s trWASHBUSY (word grp)
              else
                let d : WashGroup := { part, members := ms, present := word present, marks := List.replicate n 0 }
                .value (s.modSvc fun v => { v with groups := tabPut v.groups grp d }) 0

def execWgrpDef (t : BitVec 9) (p : BitVec 2) (s : State) : Host.Outcome State Fault Refusal :=
  fire (.wgrpDef t p) (fun x g s => wgrpDef x g s) s

/-- The defined group that a group word names under its own partition. -/
def State.ownGroup (s : State) (a : Nat) : Except Nat (Nat × WashGroup) :=
  match groupWord a with
  | none => .error 64
  | some (grp, part) =>
    match tabFind s.svc.groups grp with
    | some d => if d.part == part then .ok (grp, d) else .error 65
    | none => .error 65

def wgrpPresent (g : Args) (s : State) : Fire :=
  match s.ownGroup g.av.toNat with
  | .error c => .trap s trWGRPBAD (word c)
  | .ok (grp, d) =>
    if g.bv.toNat / 2 ^ d.members.length != 0 then .trap s trWGRPBAD 1
    else .value (s.modSvc fun v => { v with groups := tabPut v.groups grp { d with present := g.bv } }) 0

def execWgrpPresent (t : BitVec 9) (p : BitVec 2) (s : State) : Host.Outcome State Fault Refusal :=
  fire (.wgrpPresent t p) (fun _ g s => wgrpPresent g s) s

def wgrpRel (g : Args) (s : State) : Fire :=
  match s.ownGroup g.av.toNat with
  | .error c => .trap s trWGRPBAD (word c)
  | .ok (grp, _) =>
    if s.washing grp then .trap s trWASHBUSY (word grp)
    else .value (s.modSvc fun v => { v with groups := tabDel v.groups grp }) 0

def execWgrpRel (t : BitVec 9) (p : BitVec 2) (s : State) : Host.Outcome State Fault Refusal :=
  fire (.wgrpRel t p) (fun _ g s => wgrpRel g s) s

/-! ## Nodes and the tree (R259–R264) -/

/-- A lane of a leaf or node: its bits, its poison cause (0 none) and the member that it names. -/
structure WashLane where
  val : Nat
  cause : Nat := 0
  member : Nat := 0
  deriving DecidableEq, Repr

/-- R260, R261: two operands that carry no poison. -/
def washCombine (op ty : Nat) (l r : Nat) : Flagged Nat :=
  if ty == 2 then
    let x := toSigned l 32
    let y := toSigned r 32
    match op with
    | 0 => let (v, c) := satS (x + y) 32; (ofInt v 32, flagIf c flagClamp)
    | 1 => (if x < y then r else l, 0)
    | _ => (if y < x then r else l, 0)
  else
    match op with
    | 0 => fpSum .f32 .rne false [] [decodeNum .f32 l, decodeNum .f32 r]
    | 1 => fpMinMax true false false false l r
    | _ => fpMinMax false false false false l r

/-- R264: poison passes up, the left operand's first, and raises no flag. -/
def washNode (op ty : Nat) (l r : WashLane) : WashLane × Flags :=
  if l.cause != 0 then (l, 0)
  else if r.cause != 0 then (r, 0)
  else let (v, f) := washCombine op ty l.val r.val; ({ val := v }, f)

/-- One level from the one below: an empty operand passes the other. -/
def washLevel (op ty : Nat) : List (Option (List WashLane)) → List (Option (List WashLane)) × Flags
  | a :: b :: t =>
    let (rest, f) := washLevel op ty t
    match a, b with
    | none, y => (y :: rest, f)
    | x, none => (x :: rest, f)
    | some x, some y =>
      let n := List.zipWith (washNode op ty) x y
      (some (n.map (·.1)) :: rest, n.foldl (fun acc q => acc ||| q.2) f)
  | l => (l, 0)

def washTree (op ty : Nat) : Nat → List (Option (List WashLane)) → Option (List WashLane) × Flags
  | 0, l => ((l.head?).getD none, 0)
  | fuel + 1, l =>
    if l.length ≤ 1 then ((l.head?).getD none, 0)
    else
      let (l, f) := washLevel op ty l
      let (r, g) := washTree op ty fuel l
      (r, f ||| g)

/-- Table 10-2. -/
def washIdentity (op ty : Nat) : Nat :=
  match op with
  | 0 => 0
  | 1 => if ty == 2 then 0x80000000 else 0xFF800000
  | _ => if ty == 2 then 0x7FFFFFFF else 0x7F800000

/-! ## Reading a member (R258, R263, R266) -/

def washPoison (ty cause j : Nat) : WashLane :=
  { val := if ty == 2 then 0x80000000 else 0x7FE00000 + cause * 2 ^ 18 + j * 2 ^ 12, cause, member := j }

def Wash.lanes (w : Wash) : Nat := if w.wide then 16 else 2

/-- The member's nib is out of service, and no spare is left for it (R263). -/
def State.memberLost (s : State) (w : Wash) (j : Nat) : Bool := s.spareless (placeOfWord (w.members.getD j 0).toNat / 64)

/-- The member's context has been streamed out: the wash waits for it (R269). -/
def State.memberAway (s : State) (w : Wash) (j : Nat) : Bool :=
  !s.memberLost w j &&
    (let p := placeOfWord (w.members.getD j 0).toNat
     (s.unit (p / 64)).reserves (p % 64) || (s.memberOf w j).any isSaved)

/-- The lanes that a wash reads at a member: committed and nib-local writes, and no pending version. -/
def State.readMember (s : State) (w : Wash) (j : Nat) : List WashLane :=
  match (if s.memberLost w j then none else s.memberOf w j).bind fun k => (s.stroke k).map fun t => (k, t) with
  | none => List.replicate w.lanes (washPoison w.ty 2 j)
  | some (k, t) =>
    if w.soff + w.bytes > t.decl.wsize then List.replicate w.lanes (washPoison w.ty 3 j)
    else
      let size := w.bytes / w.lanes
      (span 0 w.lanes).map fun i =>
        let key := spadKey (unitOf k) (t.decl.wbase + w.soff + size * i)
        if (s.mem.poisoned key size).isSome then washPoison w.ty 1 j
        else
          let v := ofBytes (s.mem.bytes key size)
          { val := if w.ty == 1 then v * 65536 else v }

/-! ## Completion (R272–R275) -/

/-- R273: WSTAT after one more wash. -/
def wstatAfter (old : Nat) (d : WashDone) : Nat :=
  let poisoned := bit old 47
  let pmask := if poisoned then bits old 63 48 else d.pmask
  let cause := if poisoned then bits old 45 43 else d.cause
  let member := if poisoned then bits old 42 37 else d.member
  let pgroup := if poisoned then bits old 36 29 else if d.pmask != 0 then d.group else 0
  let pois := poisoned || d.pmask != 0
  pmask * 2 ^ 48 + (if pois then 2 ^ 47 else 0) + (if d.empty || bit old 46 then 2 ^ 46 else 0) + cause * 2 ^ 43 + member * 2 ^ 37 +
    pgroup * 2 ^ 29 + d.group

/-- WASHPOIS of a recorded wash whose instance still stands (R272). -/
def State.washTrap (s : State) (d : WashDone) : State :=
  match d.trap with
  | some (serial, slot) =>
    if (s.inst d.loader).any (·.serial == serial) then
      s.takeTrap d.loader slot trWASHPOIS (word (d.pmask + d.member * 2 ^ 16 + d.cause * 2 ^ 22))
    else s
  | none => s

/-- Finished washes of a stroke are recorded in the order in which they fired. -/
def recordWashes (k : Nat) : Nat → State → State
  | 0, s => s
  | fuel + 1, s =>
    let open_ := ((s.svc.washes.filter (·.loader == k)) ++ ((s.stroke k).map (·.run.waiting)).getD []).map (·.num)
    let mine := s.svc.washDone.filter (·.loader == k)
    match mine.find? fun d => open_.all (d.num < ·) && mine.all (d.num ≤ ·.num) with
    | none => s
    | some d =>
      let s := s.modSvc fun v => { v with washDone := v.washDone.filter fun e => !(e.loader == k && e.num == d.num) }
      recordWashes k fuel ((s.modRegs k fun r => { r with wstat := word (wstatAfter r.wstat.toNat d) }).washTrap d)

/-- R275: flags of a wash: to its own instance, or past a later one, or at once. -/
def State.washFlags (s : State) (k serial : Nat) (f : Flags) : State :=
  match s.stroke k with
  | none => s
  | some t =>
    match t.run.inst with
    | some i => if i.serial == serial then s.raise k f else s.modRun k fun r => { r with lateFlags := r.lateFlags ||| f }
    | none => s.modRegs k fun r => { r with flags := r.flags ||| f }

/-- The mask of poisoned lanes. -/
def poisonMask (l : List WashLane) : Nat := l.zipIdx.foldl (fun a x => if x.1.cause != 0 then a + 2 ^ x.2 else a) 0

/-- The result of a wash that has read its last member, as lanes and flags. -/
def Wash.result (w : Wash) : List WashLane × Flags :=
  let leaf := fun (j : Nat) => (w.leaves.find? (·.1 == j)).map fun x =>
    (x.2.1.zip x.2.2).map fun (y : Word × Nat) => ({ val := y.1.toNat, cause := y.2, member := j } : WashLane)
  let (r, f) := washTree w.op w.ty w.members.length ((span 0 w.members.length).map leaf)
  (r.getD (List.replicate w.lanes { val := washIdentity w.op w.ty }), f)

/-- WLD writes its result with setting writes, into the window as the loader now holds it. -/
def State.writeWash (s : State) (w : Wash) (res : List WashLane) : State :=
  match s.stroke w.loader with
  | none => s
  | some t =>
    let u := unitOf w.loader
    let key := spadKey u (t.decl.wbase + w.dst)
    s.modMem fun m => (m.localWrite u key (res.flatMap fun l => toBytes l.val 4)).setFulls key true 4

/-- A wash is complete: result, status, flags, and WASHPOIS where PT asks for it. It has left the list of outstanding washes. -/
def State.finishWash (s : State) (w : Wash) : State :=
  let (res, f) := w.result
  let mask := poisonMask res
  let low := (res.find? (·.cause != 0)).getD { val := 0 }
  let d : WashDone :=
    { loader := w.loader, num := w.num, group := w.group, empty := w.present == 0, pmask := mask, cause := low.cause, member := low.member,
      trap := if w.wide && w.pt && mask != 0 then some (w.serial, w.slot) else none }
  let s := if w.wide then s.writeWash w res else s
  let s := (s.washFlags w.loader w.serial f).modSvc fun v => { v with washDone := v.washDone ++ [d] }
  let s := recordWashes w.loader s.svc.washDone.length s
  if w.wide then s
  else
    s.pushReply w.loader w.serial w.slot (some (word ((res.getD 0 { val := 0 }).val + (res.getD 1 { val := 0 }).val * 2 ^ 32)))

/-- The result of a WLD would be written into bytes that another wash holds (R267). -/
def State.washHeld (s : State) (w : Wash) : Bool :=
  w.wide && (match s.stroke w.loader with
    | some t => s.heldFrom w.loader w.bnd (spadKey (unitOf w.loader) (t.decl.wbase + w.dst)) 64
    | none => false)

/-- A wash that has read every member completes, once no hold stands on what it writes. It is wash `n`, or a new one at the end of the list. -/
def State.endWash (s : State) (n : Nat) (w : Wash) : State :=
  if s.washHeld w then s else (s.modSvc fun v => { v with washes := listDrop v.washes n }).finishWash w

/-- WASH_MEMBER_READ: wash `n` reads a member whose mark has passed `k`, releases its hold, and after the last one completes. -/
def washMemberRead (n j : Nat) (s : State) : State :=
  match s.svc.washes[n]? with
  | none => s
  | some w =>
    if w.left.isEmpty then s.endWash n w
    else if w.withdrawn || !w.left.contains j || !markPassed (s.mark w.group j) w.k || s.memberAway w j then s
    else
      let l := s.readMember w j
      let w := { w with left := w.left.filter (· != j), leaves := w.leaves ++ [(j, l.map (word ·.val), l.map (·.cause))] }
      -- its bytes leave the port of the member's nib
      let s := (s.portBeat (placeOfWord (w.members.getD j 0).toNat / 64) (beatsOf w.bytes)).modSvc fun v => { v with washes := listSet v.washes n w }
      if w.left.isEmpty then s.endWash n w else s

def execWashMemberRead (n member : Nat) (s : State) : Host.Outcome State Fault Refusal := .next (washMemberRead n member s)

/-! ## WLD, WLDS, WSTAT (R270–R274) -/

/-- The members present in a mask. -/
def presentOf (n : Nat) (mask : Nat) : List Nat := (span 0 n).filter (bit mask)

/-- Washes of a nib that are outstanding. -/
def State.washSlots (s : State) (u : Nat) : Nat := (s.svc.washes.filter fun w => unitOf w.loader == u).length

/-- A wash issues: it captures the members and the mask of its group, its holds are established, and with no member to read it completes (R267, R268). -/
def State.issueWash (s : State) (w : Wash) (d : WashGroup) : State :=
  let w := { w with members := d.members, present := d.present, left := presentOf d.members.length d.present.toNat,
                    owners := d.members.map fun m => (s.boundAt (placeOfWord m.toNat)).getD noStroke }
  let n := s.svc.washes.length
  -- a request to each member leaves the loader's port (R405)
  let s := (s.strokeBeat w.loader w.left.length).modSvc fun v => { v with washes := v.washes ++ [w] }
  if w.left.isEmpty then s.endWash n w else s

def wash (wide pt : Bool) (ty op : Nat) (x : Ctx) (g : Args) (s : State) : Fire :=
  let a := g.av.toNat
  let b := g.bv.toNat
  let soff := bits a 28 8
  let grp := bits a 7 0
  let bytes := (if wide then 16 else 2) * (if ty == 1 then 2 else 4)
  if bits a 31 29 != 0 || soff % bytes != 0 || soff + bytes > 0x180000 then .trap s trWASHARG g.av
  else
    match (tabFind s.svc.groups grp).bind fun d => if d.part == x.st.decl.part then some d else none with
    | none => .trap s trWASHGRP (word grp)
    | some d =>
      if wide && b % 64 != 0 then .trap s trMISALIGN g.bv
      else if wide && b + 64 > x.st.decl.wsize then .trap s trSPADWIN g.bv
      else if !x.st.run.waiting.isEmpty || s.washSlots (unitOf x.k) ≥ 16 then .hold s
      else
        let w : Wash :=
          { loader := x.k, serial := x.ins.serial, slot := x.n, num := x.st.run.washes, group := grp, wide, op, ty, pt,
            k := BitVec.ofNat 32 (a / 2 ^ 32), soff, dst := b, members := [], present := 0, left := [], leaves := [], bnd := x.st.bnd }
        let s := (s.modRun x.k fun r => { r with washes := r.washes + 1 }).issueWash w d
        if wide then .value s 0 else .owed s

/-- A WLDS of a committed instance issues as a wash slot of its nib frees; of a group that is no more it reads no member (log entry 75). -/
def issueLate (k : Nat) (s : State) : State :=
  match s.stroke k with
  | none => s
  | some t =>
    match t.run.waiting with
    | [] => s
    | w :: rest =>
      if t.run.frozen || s.washSlots (unitOf k) ≥ 16 then s
      else
        let d := ((tabFind s.svc.groups w.group).filter (·.part == t.decl.part)).getD { part := t.decl.part, members := [], present := 0, marks := [] }
        (s.modRun k fun r => { r with waiting := rest }).issueWash w d

def State.pumpWashes (s : State) : State := s.strokes.foldl (fun s e => if e.2.run.waiting.isEmpty then s else issueLate e.1 s) s

def execWld (t : BitVec 9) (p : BitVec 2) (k : BitVec 1) (y o : BitVec 2) (s : State) : Host.Outcome State Fault Refusal :=
  fire (.wld t p k y o) (fun x g s => wash true (k == 1) y.toNat o.toNat x g s) s

def execWlds (t : BitVec 9) (p y o : BitVec 2) (s : State) : Host.Outcome State Fault Refusal :=
  fire (.wlds t p y o) (fun x g s => wash false false y.toNat o.toNat x g s) s

def execWstat (t : BitVec 9) (p : BitVec 2) (c : BitVec 1) (s : State) : Host.Outcome State Fault Refusal :=
  fire (.wstat t p c) (fun x _ s =>
    .value (if c == 1 then s.modRegs x.k fun r => { r with wstat := 0 } else s) x.st.regs.wstat) s

end Sys2Proof.Machine
end

