-- ==== Sys2Proof/Machine/Dispatch.lean ====
section
/-!
DEFINITION. Machine/Dispatch.lean: which meaning each instruction and event has.
-/
namespace Sys2Proof.Machine

def exec (i : Instr) (s : State) : Host.Outcome State Fault Refusal :=
  match i with
  | .get t v r => Sys2Proof.Machine.execGet t v r s
  | .put p r => Sys2Proof.Machine.execPut p r s
  | .movi t p imm => Sys2Proof.Machine.execMovi t p imm s
  | .mov t v p => Sys2Proof.Machine.execMov t v p s
  | .null t p => Sys2Proof.Machine.execNull t p s
  | .recv t p n => Sys2Proof.Machine.execRecv t p n s
  | .sel t v => Sys2Proof.Machine.execSel t v s
  | .gate t v p => Sys2Proof.Machine.execGate t v p s
  | .bra x p f => Sys2Proof.Machine.execBra x p f s
  | .bri x p f => Sys2Proof.Machine.execBri x p f s
  | .call x p f => Sys2Proof.Machine.execCall x p f s
  | .ret x p f => Sys2Proof.Machine.execRet x p f s
  | .exit x p f => Sys2Proof.Machine.execExit x p f s
  | .ctr t v a sp => Sys2Proof.Machine.execCtr t v a sp s
  | .movx t p imm => Sys2Proof.Machine.execMovx t p imm s
  | .add t v p w u => Sys2Proof.Machine.execAdd t v p w u s
  | .sub t v p w u => Sys2Proof.Machine.execSub t v p w u s
  | .addi t p imm => Sys2Proof.Machine.execAddi t p imm s
  | .mul t v p w u => Sys2Proof.Machine.execMul t v p w u s
  | .mulh t v p w u => Sys2Proof.Machine.execMulh t v p w u s
  | .div t v p w u sp => Sys2Proof.Machine.execDiv t v p w u sp s
  | .rem t v p w u sp => Sys2Proof.Machine.execRem t v p w u sp s
  | .neg t v p w u => Sys2Proof.Machine.execNeg t v p w u s
  | .and t v p w u => Sys2Proof.Machine.execAnd t v p w u s
  | .or t v p w u => Sys2Proof.Machine.execOr t v p w u s
  | .xor t v p w u => Sys2Proof.Machine.execXor t v p w u s
  | .andn t v p w u => Sys2Proof.Machine.execAndn t v p w u s
  | .andi t p imm => Sys2Proof.Machine.execAndi t p imm s
  | .ori t p imm => Sys2Proof.Machine.execOri t p imm s
  | .xori t p imm => Sys2Proof.Machine.execXori t p imm s
  | .not t v p w u => Sys2Proof.Machine.execNot t v p w u s
  | .shl t v p w u => Sys2Proof.Machine.execShl t v p w u s
  | .shr t v p w u => Sys2Proof.Machine.execShr t v p w u s
  | .asr t v p w u => Sys2Proof.Machine.execAsr t v p w u s
  | .shli t p u w n => Sys2Proof.Machine.execShli t p u w n s
  | .shri t p u w n => Sys2Proof.Machine.execShri t p u w n s
  | .asri t p u w n => Sys2Proof.Machine.execAsri t p u w n s
  | .clz t v p w u => Sys2Proof.Machine.execClz t v p w u s
  | .popc t v p w u => Sys2Proof.Machine.execPopc t v p w u s
  | .cmp t v p w u f => Sys2Proof.Machine.execCmp t v p w u f s
  | .min t v p w u => Sys2Proof.Machine.execMin t v p w u s
  | .max t v p w u => Sys2Proof.Machine.execMax t v p w u s
  | .bfx t v p u => Sys2Proof.Machine.execBfx t v p u s
  | .bfi t v => Sys2Proof.Machine.execBfi t v s
  | .lea t v p x k => Sys2Proof.Machine.execLea t v p x k s
  | .adds t v p w u sp => Sys2Proof.Machine.execAdds t v p w u sp s
  | .subs t v p w u sp => Sys2Proof.Machine.execSubs t v p w u sp s
  | .fadd t v p sp imm o r => Sys2Proof.Machine.execFadd t v p sp imm o r s
  | .fsub t v p sp imm o r => Sys2Proof.Machine.execFsub t v p sp imm o r s
  | .fmul t v p sp imm o r => Sys2Proof.Machine.execFmul t v p sp imm o r s
  | .ffma t v sp imm o r => Sys2Proof.Machine.execFfma t v sp imm o r s
  | .fmin t v p sp imm o q => Sys2Proof.Machine.execFmin t v p sp imm o q s
  | .fmax t v p sp imm o q => Sys2Proof.Machine.execFmax t v p sp imm o q s
  | .fneg t v p => Sys2Proof.Machine.execFneg t v p s
  | .fabs t v p => Sys2Proof.Machine.execFabs t v p s
  | .fcmp t v p sp imm c => Sys2Proof.Machine.execFcmp t v p sp imm c s
  | .fclass t v p c => Sys2Proof.Machine.execFclass t v p c s
  | .padd t f p sp imm o r => Sys2Proof.Machine.execPadd t f p sp imm o r s
  | .pmul t f p sp imm o r => Sys2Proof.Machine.execPmul t f p sp imm o r s
  | .pfma t f sp imm o r => Sys2Proof.Machine.execPfma t f sp imm o r s
  | .pdot t f sp imm o r => Sys2Proof.Machine.execPdot t f sp imm o r s
  | .rcp t v p sp imm o r => Sys2Proof.Machine.execRcp t v p sp imm o r s
  | .rsq t v p sp imm o r => Sys2Proof.Machine.execRsq t v p sp imm o r s
  | .exp2 t v p sp imm o r => Sys2Proof.Machine.execExp2 t v p sp imm o r s
  | .log2 t v p sp imm o r => Sys2Proof.Machine.execLog2 t v p sp imm o r s
  | .tanh t v p sp imm o r => Sys2Proof.Machine.execTanh t v p sp imm o r s
  | .cvt t x y p sp imm o r => Sys2Proof.Machine.execCvt t x y p sp imm o r s
  | .srnd t y p sp imm o => Sys2Proof.Machine.execSrnd t y p sp imm o s
  | .rdflg t p m => Sys2Proof.Machine.execRdflg t p m s
  | .clrflg t p m => Sys2Proof.Machine.execClrflg t p m s
  | .rngn t p c k => Sys2Proof.Machine.execRngn t p c k s
  | .ld t p n sp z q => Sys2Proof.Machine.execLd t p n sp z q s
  | .st t p n sp z q => Sys2Proof.Machine.execSt t p n sp z q s
  | .ldv t p n sp z q => Sys2Proof.Machine.execLdv t p n sp z q s
  | .stv t p n sp z q => Sys2Proof.Machine.execStv t p n sp z q s
  | .feset t p n sp z q => Sys2Proof.Machine.execFeset t p n sp z q s
  | .cbinit t p sp h => Sys2Proof.Machine.execCbinit t p sp h s
  | .cbwait t p n y h => Sys2Proof.Machine.execCbwait t p n y h s
  | .cbrsv t p n y h => Sys2Proof.Machine.execCbrsv t p n y h s
  | .cbadv t p n e h => Sys2Proof.Machine.execCbadv t p n e h s
  | .sbind t p c r z sp o n => Sys2Proof.Machine.execSbind t p c r z sp o n s
  | .bset t p n => Sys2Proof.Machine.execBset t p n s
  | .bperm t v p n => Sys2Proof.Machine.execBperm t v p n s
  | .aadd t p n sp z => Sys2Proof.Machine.execAadd t p n sp z s
  | .amin t p n sp z => Sys2Proof.Machine.execAmin t p n sp z s
  | .amax t p n sp z => Sys2Proof.Machine.execAmax t p n sp z s
  | .aand t p n sp z => Sys2Proof.Machine.execAand t p n sp z s
  | .aor t p n sp z => Sys2Proof.Machine.execAor t p n sp z s
  | .axor t p n sp z => Sys2Proof.Machine.execAxor t p n sp z s
  | .aswp t p n sp z => Sys2Proof.Machine.execAswp t p n sp z s
  | .acas t n sp z => Sys2Proof.Machine.execAcas t n sp z s
  | .aaddv t p n sp z => Sys2Proof.Machine.execAaddv t p n sp z s
  | .aminv t p n sp z => Sys2Proof.Machine.execAminv t p n sp z s
  | .amaxv t p n sp z => Sys2Proof.Machine.execAmaxv t p n sp z s
  | .aandv t p n sp z => Sys2Proof.Machine.execAandv t p n sp z s
  | .aorv t p n sp z => Sys2Proof.Machine.execAorv t p n sp z s
  | .axorv t p n sp z => Sys2Proof.Machine.execAxorv t p n sp z s
  | .aswpv t p n sp z => Sys2Proof.Machine.execAswpv t p n sp z s
  | .afadd t p n sp => Sys2Proof.Machine.execAfadd t p n sp s
  | .afinit t v p l x => Sys2Proof.Machine.execAfinit t v p l x s
  | .phase t p sp => Sys2Proof.Machine.execPhase t p sp s
  | .fence t p a w => Sys2Proof.Machine.execFence t p a w s
  | .publish t v p x => Sys2Proof.Machine.execPublish t v p x s
  | .mda t n p => Sys2Proof.Machine.execMda t n p s
  | .mdb t n p => Sys2Proof.Machine.execMdb t n p s
  | .mma t b a p sp => Sys2Proof.Machine.execMma t b a p sp s
  | .accrd t p => Sys2Proof.Machine.execAccrd t p s
  | .accwr t p => Sys2Proof.Machine.execAccwr t p s
  | .accz t p => Sys2Proof.Machine.execAccz t p s
  | .kld t k p => Sys2Proof.Machine.execKld t k p s
  | .drain t p => Sys2Proof.Machine.execDrain t p s
  | .rtset t r p => Sys2Proof.Machine.execRtset t r p s
  | .mstat t p c e => Sys2Proof.Machine.execMstat t p c e s
  | .lcfg t n p => Sys2Proof.Machine.execLcfg t n p s
  | .lrun t n p sp imm o r => Sys2Proof.Machine.execLrun t n p sp imm o r s
  | .lwait t p y => Sys2Proof.Machine.execLwait t p y s
  | .lstat t p c e => Sys2Proof.Machine.execLstat t p c e s
  | .steer t v => Sys2Proof.Machine.execSteer t v s
  | .merge t v => Sys2Proof.Machine.execMerge t v s
  | .carry t v => Sys2Proof.Machine.execCarry t v s
  | .invar t v => Sys2Proof.Machine.execInvar t v s
  | .rrmerge t v b => Sys2Proof.Machine.execRrmerge t v b s
  | .hset t p => Sys2Proof.Machine.execHset t p s
  | .hmask t p m => Sys2Proof.Machine.execHmask t p m s
  | .hclr t p d => Sys2Proof.Machine.execHclr t p d s
  | .chsend t p => Sys2Proof.Machine.execChsend t p s
  | .chmcast t p => Sys2Proof.Machine.execChmcast t p s
  | .inrd t p c y => Sys2Proof.Machine.execInrd t p c y s
  | .bara t p b => Sys2Proof.Machine.execBara t p b s
  | .barw t p b => Sys2Proof.Machine.execBarw t p b s
  | .chapp t p => Sys2Proof.Machine.execChapp t p s
  | .seqwait t p c => Sys2Proof.Machine.execSeqwait t p c s
  | .seqrd t p => Sys2Proof.Machine.execSeqrd t p s
  | .park p x => Sys2Proof.Machine.execPark p x s
  | .wgrpDef t p => Sys2Proof.Machine.execWgrpDef t p s
  | .wgrpPresent t p => Sys2Proof.Machine.execWgrpPresent t p s
  | .wgrpRel t p => Sys2Proof.Machine.execWgrpRel t p s
  | .wld t p k y o => Sys2Proof.Machine.execWld t p k y o s
  | .wlds t p y o => Sys2Proof.Machine.execWlds t p y o s
  | .wstat t p c => Sys2Proof.Machine.execWstat t p c s
  | .cpdef t p => Sys2Proof.Machine.execCpdef t p s
  | .cpdefRel t p => Sys2Proof.Machine.execCpdefRel t p s
  | .cpcall t p n r => Sys2Proof.Machine.execCpcall t p n r s
  | .cpread t p => Sys2Proof.Machine.execCpread t p s
  | .cpwait t p c => Sys2Proof.Machine.execCpwait t p c s
  | .cptrim t p => Sys2Proof.Machine.execCptrim t p s
  | .cpstat t p e => Sys2Proof.Machine.execCpstat t p e s
  | .cparg t p e => Sys2Proof.Machine.execCparg t p e s
  | .cpret t p => Sys2Proof.Machine.execCpret t p s
  | .guess t p => Sys2Proof.Machine.execGuess t p s
  | .launch t p => Sys2Proof.Machine.execLaunch t p s
  | .tagrd t p => Sys2Proof.Machine.execTagrd t p s
  | .sqchk t p r sp => Sys2Proof.Machine.execSqchk t p r sp s
  | .sqregChan t p => Sys2Proof.Machine.execSqregChan t p s
  | .sqregRows t p => Sys2Proof.Machine.execSqregRows t p s
  | .sqregRel t p => Sys2Proof.Machine.execSqregRel t p s
  | .kvwr t p => Sys2Proof.Machine.execKvwr t p s
  | .topk t p sp => Sys2Proof.Machine.execTopk t p sp s
  | .candld t p => Sys2Proof.Machine.execCandld t p s
  | .candst t p => Sys2Proof.Machine.execCandst t p s
  | .rngseed t p n => Sys2Proof.Machine.execRngseed t p n s
  | .rngnext t p n => Sys2Proof.Machine.execRngnext t p n s
  | .draw t p sp g => Sys2Proof.Machine.execDraw t p sp g s
  | .pen t p sp r q f => Sys2Proof.Machine.execPen t p sp r q f s
  | .jrnl t p => Sys2Proof.Machine.execJrnl t p s
  | .jcommit t p => Sys2Proof.Machine.execJcommit t p s
  | .jdrop t p => Sys2Proof.Machine.execJdrop t p s
  | .gmask t p sp => Sys2Proof.Machine.execGmask t p sp s
  | .gsnap t p => Sys2Proof.Machine.execGsnap t p s
  | .grest t p => Sys2Proof.Machine.execGrest t p s
  | .tmask t p g => Sys2Proof.Machine.execTmask t p g s
  | .tmload t p => Sys2Proof.Machine.execTmload t p s
  | .tdepth t p x g => Sys2Proof.Machine.execTdepth t p x g s
  | .trap t p => Sys2Proof.Machine.execTrap t p s
  | .rft t p => Sys2Proof.Machine.execRft t p s
  | .csrr t p => Sys2Proof.Machine.execCsrr t p s
  | .csrw t p => Sys2Proof.Machine.execCsrw t p s
  | .freeze t p => Sys2Proof.Machine.execFreeze t p s
  | .thaw t p => Sys2Proof.Machine.execThaw t p s
  | .ctxout t p w f => Sys2Proof.Machine.execCtxout t p w f s
  | .ctxoutDrop t p w f => Sys2Proof.Machine.execCtxoutDrop t p w f s
  | .ctxin t p => Sys2Proof.Machine.execCtxin t p s
  | .tlbinv t p a => Sys2Proof.Machine.execTlbinv t p a s
  | .tlbprobe t p h => Sys2Proof.Machine.execTlbprobe t p h s
  | .cfginv t p m => Sys2Proof.Machine.execCfginv t p m s
  | .halt p => Sys2Proof.Machine.execHalt p s
  | .blockFetch k => Sys2Proof.Machine.execBlockFetch k s
  | .blockCommit k => Sys2Proof.Machine.execBlockCommit k s
  | .nocommit k => Sys2Proof.Machine.execNocommit k s
  | .selector unit => Sys2Proof.Machine.execSelector unit s
  | .handlerAging k ch => Sys2Proof.Machine.execHandlerAging k ch s
  | .forcedYield k => Sys2Proof.Machine.execForcedYield k s
  | .channelWordArrival n => Sys2Proof.Machine.execChannelWordArrival n s
  | .inboxRetry n => Sys2Proof.Machine.execInboxRetry n s
  | .updateWordAbsorb n => Sys2Proof.Machine.execUpdateWordAbsorb n s
  | .pageArrivalAbsorb n => Sys2Proof.Machine.execPageArrivalAbsorb n s
  | .mcastReplicate n => Sys2Proof.Machine.execMcastReplicate n s
  | .streamReadAhead k port => Sys2Proof.Machine.execStreamReadAhead k port s
  | .streamOutStore k port => Sys2Proof.Machine.execStreamOutStore k port s
  | .taskDispatch chain slab nibs => Sys2Proof.Machine.execTaskDispatch chain slab nibs s
  | .chainAging chain => Sys2Proof.Machine.execChainAging chain s
  | .taskComplete chain num => Sys2Proof.Machine.execTaskComplete chain num s
  | .completionWrite chain => Sys2Proof.Machine.execCompletionWrite chain s
  | .chainEntryReread chain => Sys2Proof.Machine.execChainEntryReread chain s
  | .copyEntry chain => Sys2Proof.Machine.execCopyEntry chain s
  | .swapOut chain done => Sys2Proof.Machine.execSwapOut chain done s
  | .swapIn chain done => Sys2Proof.Machine.execSwapIn chain done s
  | .barrierGenerationComplete folio bar => Sys2Proof.Machine.execBarrierGenerationComplete folio bar s
  | .roundMarkerIssue => Sys2Proof.Machine.execRoundMarkerIssue s
  | .regionRoundEdge unit region => Sys2Proof.Machine.execRegionRoundEdge unit region s
  | .laneRunStart unit => Sys2Proof.Machine.execLaneRunStart unit s
  | .laneRunComplete unit => Sys2Proof.Machine.execLaneRunComplete unit s
  | .matrixEntryExecute unit => Sys2Proof.Machine.execMatrixEntryExecute unit s
  | .matrixEntryComplete unit => Sys2Proof.Machine.execMatrixEntryComplete unit s
  | .tileDispatch chain => Sys2Proof.Machine.execTileDispatch chain s
  | .tileSteal unit => Sys2Proof.Machine.execTileSteal unit s
  | .tileTask unit => Sys2Proof.Machine.execTileTask unit s
  | .tileTaskAged unit => Sys2Proof.Machine.execTileTaskAged unit s
  | .atomicApply n => Sys2Proof.Machine.execAtomicApply n s
  | .afaddApply n => Sys2Proof.Machine.execAfaddApply n s
  | .afinitApply n => Sys2Proof.Machine.execAfinitApply n s
  | .scTokenVisit => Sys2Proof.Machine.execScTokenVisit s
  | .phaseBoundaryComplete k => Sys2Proof.Machine.execPhaseBoundaryComplete k s
  | .phaseovf k slot => Sys2Proof.Machine.execPhaseovf k slot s
  | .washMemberRead n member => Sys2Proof.Machine.execWashMemberRead n member s
  | .copybookAppend n => Sys2Proof.Machine.execCopybookAppend n s
  | .scribeApply slab obj => Sys2Proof.Machine.execScribeApply slab obj s
  | .squashAbsorb n member => Sys2Proof.Machine.execSquashAbsorb n member s
  | .pageRequest n => Sys2Proof.Machine.execPageRequest n s
  | .enginePageRewalk chain => Sys2Proof.Machine.execEnginePageRewalk chain s
  | .seqWatcherWake n => Sys2Proof.Machine.execSeqWatcherWake n s
  | .seqOverflowScan slab => Sys2Proof.Machine.execSeqOverflowScan slab s
  | .roundWrite => Sys2Proof.Machine.execRoundWrite s
  | .ownrngWrite idx val => Sys2Proof.Machine.execOwnrngWrite idx val s
  | .wellshareWrite slab idx val => Sys2Proof.Machine.execWellshareWrite slab idx val s
  | .smpctxAssign slab idx part => Sys2Proof.Machine.execSmpctxAssign slab idx part s
  | .smpctxUnassign slab idx => Sys2Proof.Machine.execSmpctxUnassign slab idx s
  | .jobkill job => Sys2Proof.Machine.execJobkill job s
  | .prqWrite idx val => Sys2Proof.Machine.execPrqWrite idx val s
  | .nibpartWrite slab idx val => Sys2Proof.Machine.execNibpartWrite slab idx val s
  | .keyslotLoad idx => Sys2Proof.Machine.execKeyslotLoad idx s
  | .keyslotErase idx => Sys2Proof.Machine.execKeyslotErase idx s
  | .swqWrite slab idx val => Sys2Proof.Machine.execSwqWrite slab idx val s
  | .roletabWrite slab idx val => Sys2Proof.Machine.execRoletabWrite slab idx val s
  | .replayWrite idx val => Sys2Proof.Machine.execReplayWrite idx val s
  | .bandwidthRefill slab => Sys2Proof.Machine.execBandwidthRefill slab s
  | .gatewayRefill => Sys2Proof.Machine.execGatewayRefill s
  | .slewStep slab => Sys2Proof.Machine.execSlewStep slab s
  | .routerPowerGate slab site => Sys2Proof.Machine.execRouterPowerGate slab site s
  | .routerWake slab site => Sys2Proof.Machine.execRouterWake slab site s
  | .correctableError kind slab unit => Sys2Proof.Machine.execCorrectableError kind slab unit s
  | .uncorrectableError kind slab unit loc => Sys2Proof.Machine.execUncorrectableError kind slab unit loc s
  | .configStoreError unit addr => Sys2Proof.Machine.execConfigStoreError unit addr s
  | .configImageReloaded unit addr => Sys2Proof.Machine.execConfigImageReloaded unit addr s
  | .dieLinkFlit link seq crcOk => Sys2Proof.Machine.execDieLinkFlit link seq crcOk s
  | .wydalFlit port flit crc => Sys2Proof.Machine.execWydalFlit port flit crc s
  | .peerWordArrival peer place word => Sys2Proof.Machine.execPeerWordArrival peer place word s
  | .linkLaneRetrain link => Sys2Proof.Machine.execLinkLaneRetrain link s
  | .laneSpareRemap unit lane => Sys2Proof.Machine.execLaneSpareRemap unit lane s
  | .wellRowRemap slab well row => Sys2Proof.Machine.execWellRowRemap slab well row s
  | .hostMemWrite line off data => Sys2Proof.Machine.execHostMemWrite line off data s
  | .hostMemRead line off n => Sys2Proof.Machine.execHostMemRead line off n s
  | .hostSnoop hpa data => Sys2Proof.Machine.execHostSnoop hpa data s
  | .doorbellAddress job val => Sys2Proof.Machine.execDoorbellAddress job val s
  | .doorbellAppend job val => Sys2Proof.Machine.execDoorbellAppend job val s
  | .doorbellResultRead job => Sys2Proof.Machine.execDoorbellResultRead job s
  | .doorbellStatusRead job => Sys2Proof.Machine.execDoorbellStatusRead job s
  | .attestNonce nonce => Sys2Proof.Machine.execAttestNonce nonce s
  | .moduleReset boot version => Sys2Proof.Machine.execModuleReset boot version s
  | .clockChange mhz => Sys2Proof.Machine.execClockChange mhz s
  | .memoryReply n => Sys2Proof.Machine.execMemoryReply n s
  | .peerMemoryAccess peer access tier pa n data => Sys2Proof.Machine.execPeerMemoryAccess peer access tier pa n data s
  | .ucieLinkTraining mods => Sys2Proof.Machine.execUcieLinkTraining mods s
  | .copyRebuilt slab obj => Sys2Proof.Machine.execCopyRebuilt slab obj s

end Sys2Proof.Machine
end

