-- ==== Sys2Proof/Machine/Choose.lean ====
section
/-!
DEFINITION. Machine/Choose.lean: what the next step does (log entry 4). The manual fixes no order among what can happen at one moment; the
agenda may name any of it. When the agenda is empty the model takes turns among the things that change the state.
-/
namespace Sys2Proof.Machine

/-- Do what a choice names. A module held in reset answers to a reset alone (R427). -/
def perform (p : Pick) (s : State) : Host.Outcome State Fault Refusal :=
  match p with
  | .event (.moduleReset boot version) => exec (.moduleReset boot version) s
  | .event i => if isWord i || s.inReset then .next s else exec i s
  | .slot k n stale =>
    if s.inReset then .next s
    else
      let s := { s with cur := { stroke := k, slot := n, stale := stale } }
      match (s.inst k).bind (·.instr n) with
      | some i => exec i s
      | none => .next s
  | .fix k key => .next (if s.inReset then s else (s.loadBytes k key 1).2)
  | .freeze n => .next (if s.inReset then s else s.freezeDone n)
  | .hdm d base => .next (if s.inReset then s else setHdm d base s)
  | .mailbox off n => .next (if s.inReset then s else mailboxRead off n s)
  | .newJob job part region prio => .next (if s.inReset then s else newJob job part region prio s)
  | .newChain job kind slab engine chain region => .next (if s.inReset then s else newChain job kind slab engine chain region s)
  | .slew slab => .next (if s.inReset || slab > 11 then s else slewStep slab s)
  | .message peer m => .next (if s.inReset then s else peerMessage peer m s)
  | .evict n => .next (if s.inReset then s else evictTlb n s)
  | .predecode k addr => .next (if s.inReset then s else predecode k addr s)

/-! ## What may happen, by kind -/

/-- A slot of a running instance that may fire now: not a waiting one, when `held` is false. -/
def State.slotReady (s : State) (held : Bool) (k n : Nat) : Bool :=
  match ({ s with cur := { stroke := k, slot := n } } : State).ctx with
  | none => false
  | some x =>
    match x.ins.instr n with
    | none => false
    | some i =>
      if n == 0 && x.ins.stream then !held && s.rootReady x
      else if held then x.me.mode == .held && x.fireable (formOf i x.me)
      else (x.me.drop && x.me.portB.isSome) || (x.me.mode == .ready && x.fireable (formOf i x.me))

def State.slotPicks (s : State) (held : Bool) : List Pick :=
  s.strokes.flatMap fun e =>
    if e.2.running then
      match e.2.run.inst with
      | some i => ((span 0 i.slots.length).filter (s.slotReady held e.1)).map (Pick.slot e.1 · false)
      | none => []
    else []

/-- Block events of every stroke: a boundary first, so that an ending stroke's writes are home before it ends. -/
def State.blockPicks (s : State) : List Pick :=
  s.strokes.flatMap fun e =>
    [.event (.phaseBoundaryComplete e.1), .event (.blockCommit e.1), .event (.blockFetch e.1)]

def indexed {α : Type} (l : List α) (f : Nat → List Instr) : List Pick := (span 0 l.length).flatMap fun n => (f n).map Pick.event

/-- Replies, updates and words in flight. -/
def State.netPicks (s : State) : List Pick :=
  indexed s.net.replies (fun n => [.memoryReply n]) ++
    indexed s.net.atoms (fun n => [.atomicApply n, .afaddApply n, .afinitApply n]) ++
    (if s.net.atoms.any (·.sc) then [.event .scTokenVisit] else []) ++
    indexed s.net.words (fun n => [.channelWordArrival n, .inboxRetry n, .updateWordAbsorb n, .pageArrivalAbsorb n]) ++
    indexed s.net.mcasts (fun n => [.mcastReplicate n])

/-- Stream bindings of every stroke. -/
def State.streamPicks (s : State) : List Pick :=
  s.strokes.flatMap fun e => e.2.run.binds.map fun b =>
    .event (if b.1 < 64 then .streamReadAhead e.1 b.1 else .streamOutStore e.1 (b.1 - 64))

/-- The engines of the units: lane pipe, matrix queue, tile-tasks. -/
def State.unitPicks (s : State) : List Pick :=
  s.units.flatMap fun e =>
    [.event (.laneRunComplete e.1), .event (.laneRunStart e.1), .event (.matrixEntryComplete e.1), .event (.matrixEntryExecute e.1),
     .event (.tileTask e.1), .event (.tileSteal e.1)] ++
    if s.slewHolds e.1 then [.slew (slabOf e.1)] else []

/-- Ways to take `k` of `n`. -/
def waysOf (n k : Nat) : Nat := (span (n - k + 1) k).foldl (· * ·) 1 / (span 1 k).foldl (· * ·) 1

/-- The `i`-th way to take `k` members of a list, in its order. -/
def nthSubset : List Nat → Nat → Nat → List Nat
  | [], _, _ => []
  | _, 0, _ => []
  | a :: t, k + 1, i =>
    let c := waysOf t.length k
    if i < c then a :: nthSubset t k i else nthSubset t (k + 1) (i - c)

/-- Nibs of a slab in ascending order of their sites. -/
def State.bySite (s : State) (slab : Nat) (l : List Nat) : List Nat :=
  l.foldl (fun acc n => acc.takeWhile (fun m => s.nibSiteOf slab m ≤ s.nibSiteOf slab n) ++ n ::
    acc.dropWhile (fun m => s.nibSiteOf slab m ≤ s.nibSiteOf slab n)) []

/-- Nibs on which the waiting head of a task chain could be placed: of every slab of its affinity that has enough, the first ones, and the set whose turn
has come, so that every set is tried in time (R31). -/
def State.dispatchNibs (s : State) (x : Chain) : List (Nat × List Nat) :=
  match x.entries.find? (·.waiting) with
  | none => [(0, [])]
  | some e =>
    let k := taskNibs e
    (0, []) :: (span 0 12).flatMap fun b =>
      let l := if bit (taskAffinity e) b then s.bySite b ((span 0 160).filter fun n => s.nibFits x e (unitNum b n)) else []
      if l.length < k || l.isEmpty then [] else [(b, l.take k), (b, nthSubset l k (s.turn % waysOf l.length k))]

/-- Chains of the engines and of the schedulers. -/
def State.chainPicks (s : State) : List Pick :=
  s.eng.chains.flatMap fun e =>
    (match e.2.kind with
     | 0 => ((s.dispatchNibs e.2).map fun d => .event (.taskDispatch e.1 d.1 d.2)) ++ e.2.entries.map fun x => .event (.taskComplete e.1 x.num)
     | 1 => [.event (.copyEntry e.1)]
     | 2 => (span 0 (max 1 (tabGet s.eng.swapCmds e.1 []).length)).flatMap fun n =>
         [.event (.swapOut e.1 (n, true)), .event (.swapIn e.1 (n, true))]
     | _ => [.event (.tileDispatch e.1)]) ++ [.event (.completionWrite e.1)]

/-- Folios, rounds and watchers. -/
def State.folioPicks (s : State) : List Pick :=
  (s.eng.folios.flatMap fun f => (span 0 f.bars.length).map fun b => .event (.barrierGenerationComplete f.id b)) ++
    (if s.rounds.requested then [.event .roundMarkerIssue] else []) ++
    (s.strokes.filterMap fun e => e.2.run.region.map fun r => .event (.regionRoundEdge (unitOf e.1) r)) ++
    (span 0 s.rounds.freezes.length).map Pick.freeze ++
    indexed s.eng.watchers (fun n => [.seqWatcherWake n]) ++
    (if s.eng.watchers.any (·.overflow) then (span 0 12).map fun b => .event (.seqOverflowScan b) else [])

/-- A method of the object on the slab waits for a page. -/
def State.scribeAbsent (s : State) (slab obj : Nat) : Bool :=
  (s.runsOf slab obj).any fun e => (s.stroke (e.1 * 32)).any (·.run.state == .pagewait)

/-- Washes, copybook objects, pipeline actions, page requests, repairs. -/
def State.servicePicks (s : State) : List Pick :=
  ((span 0 s.svc.washes.length).flatMap fun n =>
    match s.svc.washes[n]? with
    | some w => (if w.left.isEmpty then [0] else w.left).map fun m => .event (.washMemberRead n m)
    | none => []) ++
  indexed s.svc.book.calls (fun n => [.copybookAppend n]) ++
  (s.svc.book.objects.flatMap fun o => ((span 0 12).filter (!s.scribeAbsent · o.1)).map fun b => .event (.scribeApply b o.1)) ++
  (s.svc.book.objects.flatMap fun o => o.2.damaged.map fun b => .event (.copyRebuilt b o.1)) ++
  indexed s.svc.acts (fun n => [.squashAbsorb n 0]) ++
  indexed s.eng.pageQueue (fun n => [.pageRequest n]) ++
  (s.units.flatMap fun u => u.2.badImages.map fun a => .event (.configImageReloaded u.1 a))

/-- The selector of every unit that a stroke or a handler lives on. -/
def State.selectorPicks (s : State) : List Pick :=
  (s.strokes.map fun e => Pick.event (.selector (unitOf e.1))) ++ s.units.map fun e => .event (.selector e.1)

/-- Candidates that wait: a stroke's key and its channel, 64 for the stroke itself (R151). -/
def State.waitingCandidates (s : State) : List Pick :=
  s.strokes.flatMap fun e =>
    .event (.handlerAging e.1 64) :: ((s.unit (unitOf e.1)).handlers.filter (·.2.stroke == e.1)).map fun h => .event (.handlerAging e.1 (h.1 - e.2.decl.chbase))

/-- What time alone brings about, when nothing else can happen (R31, R49, R152, R169, R172, R226, R229, R388, R404, R425). -/
def State.timedPicks (s : State) : List Pick :=
  s.waitingCandidates ++ (s.eng.chains.map fun e => .event (.chainAging e.1)) ++
    (s.units.map fun e => .event (.tileTaskAged e.1)) ++
  (s.strokes.map fun e => .event (.nocommit e.1)) ++
    (s.strokes.flatMap fun e => (span 0 128).map fun n => .event (.phaseovf e.1 n)) ++
    (s.strokes.map fun e => .event (.forcedYield e.1)) ++
    [.event .gatewayRefill] ++
    (s.eng.chains.flatMap fun e => [.event (.enginePageRewalk e.1), .event (.chainEntryReread e.1)]) ++
    (s.svc.book.objects.flatMap fun o => ((span 0 12).filter (s.scribeAbsent · o.1)).map fun b => .event (.scribeApply b o.1))

/-- The kinds of things that can happen, but for those that time alone brings about. -/
def pickKinds : List (State → List Pick) :=
  [(·.slotPicks false), (·.blockPicks), (·.netPicks), (·.streamPicks), (·.unitPicks), (·.chainPicks), (·.folioPicks), (·.servicePicks),
   (·.selectorPicks), (·.slotPicks true)]

/-- The choice changes something besides the count of free values. -/
def State.effective (s : State) (p : Pick) : Bool :=
  match perform p s with
  | .next t => { t with fresh := s.fresh, cur := s.cur } != s
  | _ => true

def rotate {α : Type} (n : Nat) (l : List α) : List α := l.drop (n % l.length) ++ l.take (n % l.length)

/-- The choice made when the agenda is empty: kinds and their members take turns, so that nothing is passed over for ever. Time is counted in
choices: what it alone brings about comes first once in 4,096 of them, and last otherwise. -/
def State.choose (s : State) : Option Pick :=
  let first := fun (f : State → List Pick) => (rotate s.turn (f s)).find? s.effective
  let now := (rotate s.turn pickKinds).findSome? first
  if s.turn % 4096 == 4095 then (first (·.timedPicks)).or now else now.or (first (·.timedPicks))


/-! ## One step: which choice comes, and what follows it -/

/-- The choice of this step and the state without it: the next of the log in replay (R424), which draws the free values it drew as it was made, else the head of the agenda, else the model's own. -/
def State.nextPick (s : State) : Option (Pick × State) :=
  match s.replaying, s.log.ring, s.agenda with
  | true, e :: r, _ => some (e.1, { s with fresh := e.2, log := { s.log with ring := r, drawn := max s.log.drawn s.fresh } })
  | _, _, p :: r => some (p, { s with agenda := r })
  | _, _, [] => s.choose.map fun p => (p, { s with turn := s.turn + 1 })

/-- A step in which nothing happens: another turn comes, in which other sets of nibs are tried (R31). -/
def State.idle (s : State) : State := if s.inReset then s else { s with turn := s.turn + 1 }

/-- What follows every step: watchers note the values they await (R184), the owners of records begin waiting actions (R307), LDVs of
committed instances go on (R118), ports send flits (R411), and a choice that is recorded joins the log (R424); `f` free values had been drawn before it. Of a module held in reset nothing moves (R427). -/
def State.settle (s : State) (p : Pick) (f : Nat) : State :=
  if s.inReset then s else s.latchWatchers.pumpActs.pumpMoves.pumpWashes.pumpLinks.record p f

def State.after (p : Pick) (f : Nat) : Host.Outcome State Fault Refusal → Host.Outcome State Fault Refusal
  | .next s => .next (s.settle p f)
  | x => x

end Sys2Proof.Machine
end

