-- ==== Sys2Proof/Machine/Load.lean ====
section
/-!
DEFINITION. Machine/Load.lean: a stroke placed on a unit with one instruction about to fire, which stands for the load of a program from
outside the module (log entry 6).
-/
namespace Sys2Proof.Machine

/-- A unit on which the instruction of a word is legal (R53): the sampler core of slab 0 for 0x040–0x04C of group 0x7A, a method context
for CPARG and CPRET, the management nib for HALT, a supervisor nib for the rest of the privileged words, user nib 0 for all others. -/
def homeUnit (w : Nat) : Nat :=
  let e := bits w 15 7
  match w / 33554432 with
  | 0x79 => if e == 0x046 || e == 0x047 then 0xE0 else if e == 0x001 || e == 0x040 then 160 else 0
  | 0x7A => if 0x040 ≤ e && e ≤ 0x04C then 0xF0 else 0
  | 0x7B => if e == 0x00C then 162 else if e == 0x001 || e == 0x003 || e == 0x004 then 0 else 160
  | _ => 0

/-- A running stroke on that unit, alone in its folio, whose instance holds one word, with a zero token on the data ports and a one on the
predicate port. In a method context it runs the method of a call (R284). -/
def loadWord (s : State) (w : Nat) : State :=
  let u := homeUnit w
  let x : SlotSt := { portA := some (some 0), portB := some (some 0), portP := some (some 1), gotA := true, gotB := true, gotP := true }
  let regs : StrokeRegs := { g := List.replicate 128 0 }
  let i : Instance :=
    { serial := 1, addr := 0, header := 0xFF, words := [BitVec.ofNat 32 w], slots := [x], emitted := 1, start := regs }
  let t : Stroke :=
    { decl := { folio := 1, regs := 16, chans := 64, wsize := 1572864 }, regs := regs,
      run := { state := .run, region := some 0, inst := some i, serial := 1 } }
  let f : Folio := { id := 1, slab := 0, job := 0, strokes := [u * 32], bars := List.replicate 16 {} }
  let call : CbRun := { obj := 0, method := 0, ro := false, index := 1, entry := List.replicate 12 0 }
  let s := s.modEng fun g => { g with folios := g.folios ++ [f], nextFolio := 2 }
  let s := if isScribe u then s.modBook fun b => { b with runs := tabPut b.runs u call } else s
  { s.setStroke (u * 32) t with agenda := [.slot (u * 32) 0 false] }

end Sys2Proof.Machine
end

