-- ==== Sys2Proof/Machine/Step.lean ====
section
/-!
DEFINITION. Machine/Step.lean: one step of the module: the head of the agenda, or the model's own choice when it is empty; while the module replays
a recorded run, the next choice of the log.
-/
namespace Sys2Proof.Machine

def step (s : State) : Host.Outcome State Fault Refusal :=
  match s.nextPick with
  | some (p, s) => State.after p s.fresh (perform p s)
  | none => .next s.idle

/-- The instruction of the low 32 bits of `w`, loaded so that the next step fires it. -/
def State.withFetchWord (s : State) (_nbits w : Nat) : State := loadWord s (w % 2 ^ 32)

end Sys2Proof.Machine
end

