-- ==== Sys2Proof/Safety.lean ====
section
/-!
DEFINITION. Safety.lean: what a step must keep, and the terms in which the statements speak of one firing.
-/
namespace Sys2Proof

/-- The memory is in its canonical form. -/
def Inv (s : Machine.State) : Prop := s.mem.wf = true

end Sys2Proof

namespace Sys2Proof.Claim

open Sys2Proof.Machine

/-! ## One firing (R42, R44, R45) -/

/-- The slot at the cursor fires `i`: it may fire, its predicate says so, and no data port that null passes through carries null. What it
sees and the tokens it takes. -/
def firing (i : Instr) (s : State) : Option (Ctx × Args) :=
  match s.ctx with
  | none => none
  | some x =>
    let f := formOf i x.me
    if x.fireable f && verdict f.p x.me.portP == .fires && (f.ownNull || !f.anyNull x.me.args) then some (x, x.me.args) else none

/-- No result leaves by an out-port that is unbound or exhausted (R39, R138). -/
def routed (i : Instr) (s : State) (x : Ctx) (r1 r2 : Option Token) : Bool :=
  ((s.routeTrap x.k (formOf i x.me).t r1).or (s.routeTrap x.k (formOf i x.me).v r2)).isNone

/-- The state a firing leaves: its effect `s'` is taken, the tokens of its ports are consumed, the iteration is counted, and the results
go to its targets. -/
def fired (i : Instr) (s' : State) (x : Ctx) (r1 r2 : Option Token) : State :=
  (s'.consume (formOf i x.me) x true).emit x.k x.n (formOf i x.me).t (formOf i x.me).v r1 r2

/-- The state of a firing whose reply comes later (R48). -/
def owing (i : Instr) (s' : State) (x : Ctx) : State :=
  ((s'.consume (formOf i x.me) x true).modSlot x.k x.n fun y =>
    { y with mode := .owed, to1 := (formOf i x.me).t, to2 := (formOf i x.me).v }).flush x.k

/-- The state of a firing whose update is on its way to its owner node, with its tokens kept (R239). -/
def sending (i : Instr) (s' : State) (x : Ctx) : State :=
  s'.modSlot x.k x.n fun y => { y with mode := .owed, kept := true, to1 := (formOf i x.me).t, to2 := (formOf i x.me).v }

/-- What a firing does: from what the slot sees, the tokens it takes and the state, the state after the effect and the tokens for the two
targets; none where the statement says nothing. -/
abbrev Effect := Ctx → Args → State → Option (State × Option Token × Option Token)

/-- `i` completes with an effect: whenever it fires, the effect is given and its results may leave, `exec` answers the state of `fired`. -/
def Completes (i : Instr) (e : Effect) : Prop :=
  ∀ s x g s' r1 r2, firing i s = some (x, g) → e x g s = some (s', r1, r2) → routed i s x r1 r2 = true →
    exec i s = .next (fired i s' x r1 r2)

/-- Every instruction of a table completes with the effect that the table gives it. -/
def completes (table : Instr → Option Effect) : Prop := ∀ i e, table i = some e → Completes i e

/-- One token for both targets. -/
def both (s : State) (t : Token) : Option (State × Option Token × Option Token) := some (s, some t, some t)

/-- One value for both targets, and nothing else. -/
def gives (f : Ctx → Args → Word) : Effect := fun x g s => both s (some (f x g))

/-- One value, and flags raised unless SF is set (R41, R72), for the operands on which `f` gives one. -/
def flaggedIf (sf : BitVec 1) (f : Args → Option (Word × Flags)) : Effect := fun x g s =>
  match f g with
  | some r => both (if sf = 1 then s else s.raise x.k r.2) (some r.1)
  | none => none

def flagged (sf : BitVec 1) (f : Args → Word × Flags) : Effect := flaggedIf sf fun g => some (f g)

/-- What a firing that owes its reply does (R48). -/
abbrev Owed := Ctx → Args → State → Option State

/-- Every instruction of a table fires with the effect that the table gives it, and owes its reply. -/
def owes (table : Instr → Option Owed) : Prop :=
  ∀ i e s x g s', table i = some e → firing i s = some (x, g) → e x g s = some s' → exec i s = .next (owing i s' x)

/-- Every instruction of a table sends its update to the owner node and keeps its tokens (R239). -/
def sends (table : Instr → Option Owed) : Prop :=
  ∀ i e s x g s', table i = some e → firing i s = some (x, g) → e x g s = some s' → exec i s = .next (sending i s' x)

/-- Every instruction of a table takes a precise slot trap of its own slot (R350), with the code and TRAPVAL that the table gives. -/
def traps (table : Instr → Option (Ctx → Args → State → Option (Nat × Word))) : Prop :=
  ∀ i e s x g code val, table i = some e → firing i s = some (x, g) → e x g s = some (code, val) →
    exec i s = .next (s.takeTrap x.k x.n code val)

/-- Every event of a table answers the state that the table gives. -/
def happens (table : Instr → State → Option State) : Prop := ∀ i s t, table i s = some t → exec i s = .next t

/-! ## Integer operands (R92), in bit vectors -/

/-- The W low bits of a token. -/
def low (w : BitVec 2) (a : Word) : BitVec (64 / 2 ^ w.toNat) := a.setWidth _

/-- The result of width W, extended by U. -/
def ret {n : Nat} (u : BitVec 1) (v : BitVec n) : Word := if u = 1 then v.setWidth 64 else v.signExtend 64

/-- The operand's integer value in the view of U. -/
def view {n : Nat} (u : BitVec 1) (v : BitVec n) : Int := if u = 1 then (v.toNat : Int) else v.toInt

/-- An exact integer narrowed to W bits and extended. -/
def narrow (w : BitVec 2) (u : BitVec 1) (v : Int) : Word := ret u (BitVec.ofInt (64 / 2 ^ w.toNat) v)

end Sys2Proof.Claim
end

