-- ==== Sys2Proof/Certificates/Slice0/Obligations.lean ====
section
/-!
DEFINITION. Certificates/Slice0/Obligations.lean: the statements for the provers, after the tables and terms they use. A table gives, for each
instruction it speaks of, its whole effect as the rules give it, for every state and operands it covers; what a table does not cover, it
answers with none. The state that a statement names is the whole next state, so all that it does not name is unchanged.
-/

namespace Sys2Proof.Claim

open Sys2Proof.Machine

/-! ## Integer arithmetic (R92–R97) -/

/-- R92, R93, R95: sums, differences, products, negation, minimum and maximum complete with the exact result narrowed to W. -/
def integerArithmeticResults : Instr → Option Effect
  | .add _ _ _ w u => some (gives fun _ g => ret u (low w g.av + low w g.bv))
  | .sub _ _ _ w u => some (gives fun _ g => ret u (low w g.av - low w g.bv))
  | .mul _ _ _ w u => some (gives fun _ g => ret u (low w g.av * low w g.bv))
  | .mulh _ _ _ w u => some (gives fun _ g =>
    narrow w u (view u (low w g.av) * view u (low w g.bv) / 2 ^ (64 / 2 ^ w.toNat)))
  | .neg _ _ _ w u => some (gives fun _ g => ret u (-low w g.av))
  | .min _ _ _ w u => some (gives fun _ g => narrow w u (min (view u (low w g.av)) (view u (low w g.bv))))
  | .max _ _ _ w u => some (gives fun _ g => narrow w u (max (view u (low w g.av)) (view u (low w g.bv))))
  | .addi _ _ imm => some (gives fun _ g => g.av + imm.signExtend 64)
  | _ => none

/-- R92, R93, R95: the bitwise instructions and the shifts. -/
def integerLogicResults : Instr → Option Effect
  | .and _ _ _ w u => some (gives fun _ g => ret u (low w g.av &&& low w g.bv))
  | .or _ _ _ w u => some (gives fun _ g => ret u (low w g.av ||| low w g.bv))
  | .xor _ _ _ w u => some (gives fun _ g => ret u (low w g.av ^^^ low w g.bv))
  | .andn _ _ _ w u => some (gives fun _ g => ret u (low w g.av &&& ~~~low w g.bv))
  | .not _ _ _ w u => some (gives fun _ g => ret u (~~~low w g.av))
  | .andi _ _ imm => some (gives fun _ g => g.av &&& imm.signExtend 64)
  | .ori _ _ imm => some (gives fun _ g => g.av ||| imm.signExtend 64)
  | .xori _ _ imm => some (gives fun _ g => g.av ^^^ imm.signExtend 64)
  | .shl _ _ _ w u => some (gives fun _ g => ret u (low w g.av <<< (g.bv.toNat % 64 % (64 / 2 ^ w.toNat))))
  | .shr _ _ _ w u => some (gives fun _ g => ret u (low w g.av >>> (g.bv.toNat % 64 % (64 / 2 ^ w.toNat))))
  | .asr _ _ _ w u => some (gives fun _ g => ret u ((low w g.av).sshiftRight (g.bv.toNat % 64 % (64 / 2 ^ w.toNat))))
  | .shli _ _ u w n => some (gives fun _ g => ret u (low w g.av <<< (n.toNat % (64 / 2 ^ w.toNat))))
  | .shri _ _ u w n => some (gives fun _ g => ret u (low w g.av >>> (n.toNat % (64 / 2 ^ w.toNat))))
  | .asri _ _ u w n => some (gives fun _ g => ret u ((low w g.av).sshiftRight (n.toNat % (64 / 2 ^ w.toNat))))
  | _ => none

/-- R93, R94: division and saturation complete with their result, and raise DZ (8) or OF and NX (5) as the rules say. -/
def integerFlaggedResults : Instr → Option Effect
  | .div _ _ _ w u sf => some (flagged sf fun g =>
    let a := view u (low w g.av)
    let b := view u (low w g.bv)
    if b = 0 then (narrow w u (if u = 1 then 2 ^ (64 / 2 ^ w.toNat) - 1 else -1), 8)
    else if u = 0 ∧ a = -2 ^ (64 / 2 ^ w.toNat - 1) ∧ b = -1 then (narrow w u a, 5)
    else (narrow w u (a.tdiv b), 0))
  | .rem _ _ _ w u sf => some (flagged sf fun g =>
    let a := view u (low w g.av)
    let b := view u (low w g.bv)
    if b = 0 then (narrow w u a, 8)
    else if u = 0 ∧ a = -2 ^ (64 / 2 ^ w.toNat - 1) ∧ b = -1 then (0, 5)
    else (narrow w u (a.tmod b), 0))
  | .adds _ _ _ w u sf => some (flagged sf fun g =>
    let x := view u (low w g.av) + view u (low w g.bv)
    let lo : Int := if u = 1 then 0 else -2 ^ (64 / 2 ^ w.toNat - 1)
    let hi : Int := if u = 1 then 2 ^ (64 / 2 ^ w.toNat) - 1 else 2 ^ (64 / 2 ^ w.toNat - 1) - 1
    (narrow w u (max lo (min hi x)), if lo ≤ x ∧ x ≤ hi then 0 else 5))
  | .subs _ _ _ w u sf => some (flagged sf fun g =>
    let x := view u (low w g.av) - view u (low w g.bv)
    let lo : Int := if u = 1 then 0 else -2 ^ (64 / 2 ^ w.toNat - 1)
    let hi : Int := if u = 1 then 2 ^ (64 / 2 ^ w.toNat) - 1 else 2 ^ (64 / 2 ^ w.toNat - 1) - 1
    (narrow w u (max lo (min hi x)), if lo ≤ x ∧ x ≤ hi then 0 else 5))
  | _ => none

/-- R93, R96, R97: counting, comparing, fields and addresses. -/
def integerFieldResults : Instr → Option Effect
  | .clz _ _ _ w u => some (gives fun _ g =>
    narrow w u (((List.range (64 / 2 ^ w.toNat)).reverse.takeWhile fun i => !g.av.getLsbD i).length))
  | .popc _ _ _ w u => some (gives fun _ g =>
    narrow w u (((List.range (64 / 2 ^ w.toNat)).filter fun i => g.av.getLsbD i).length))
  | .cmp _ _ _ w u f => some (gives fun _ g =>
    let a := view u (low w g.av)
    let b := view u (low w g.bv)
    if (f = 0 ∧ a = b) ∨ (f = 1 ∧ a ≠ b) ∨ (f = 2 ∧ a < b) ∨ (f = 3 ∧ a ≥ b) then 1 else 0)
  | .bfx _ _ _ u => some (gives fun _ g =>
    let len := min (g.bv.toNat / 2 ^ 8 % 2 ^ 7) 64
    let f := (g.av >>> (g.bv.toNat % 64)).setWidth len
    if u = 1 then f.setWidth 64 else f.signExtend 64)
  | .bfi _ _ => some (gives fun _ g =>
    let len := min (g.cv.toNat / 2 ^ 8 % 2 ^ 7) 64
    let m : Word := ((BitVec.allOnes len).setWidth 64) <<< (g.cv.toNat % 64)
    (g.av &&& ~~~m) ||| ((g.bv <<< (g.cv.toNat % 64)) &&& m))
  | .lea _ _ _ x k => some (gives fun _ g =>
    g.av + (if x = 1 then (g.bv.setWidth 32).signExtend 64 else g.bv) <<< k.toNat)
  | _ => none

/-! ## Floating point (R71–R80, R98–R103) -/

/-- An FP32 operand of a token under FI. -/
def fpArg (fi : BitVec 1) (a : Word) : Sys2Proof.Machine.Num := operand .f32 (fi == 1) a.toNat

/-- An FP32 result zero-extended, with its flags. -/
def fpRes (r : Flagged Nat) : Word × Flags := (BitVec.ofNat 64 r.1, r.2)

/-- The exact value `x / d` as an integer under a rounding mode (R77, Table 2-4): the integer itself, else the one that the mode names of its two
neighbours. -/
def toInteger (rm : BitVec 2) (x : Int) (d : Nat) : Int :=
  let lo := x / d
  let rest := x - lo * d
  if rest = 0 then lo
  else if rm = 1 then (if x < 0 then lo + 1 else lo)
  else if rm = 2 then lo + 1
  else if rm = 3 then lo
  else if 2 * rest < d ∨ (2 * rest = d ∧ lo % 2 = 0) then lo else lo + 1

/-- R77: the token `a` of format `x` as one of format `y`. Into an integer format it is clamped to the extremes; NV is 16, OF with NX 5, NX 1. -/
def converted (x y : Fmt) (rm : BitVec 2) (fi fo : BitVec 1) (a : Word) : Word × Flags :=
  let v := operand x (fi == 1) a.toNat
  let w := y.width
  if y.isInt then
    let clamped : Flags := if x.isInt then 5 else 16
    match v with
    | .nan _ => (0, 16)
    | .inf neg => (BitVec.ofInt 64 (if neg then -2 ^ (w - 1) else 2 ^ (w - 1) - 1), clamped)
    | .zero _ => (0, 0)
    | .fin neg n d =>
      let signed : Int := if neg then -(n : Int) else n
      let k := toInteger rm signed d
      let r := max (-2 ^ (w - 1)) (min (2 ^ (w - 1) - 1) k)
      (BitVec.ofInt 64 r, if r ≠ k then clamped else if k * d = signed then 0 else 1)
  else
    let r := roundNum y (.ofBits rm.toNat) (fo == 1) v
    (BitVec.ofNat 64 (r.1 % 2 ^ w), r.2 ||| if v.isSig then 16 else 0)

/-- R78: the FP32 token `a` rounded into a format between its neighbours toward and away from zero, away in as many of the 2^32 values of the random
token as its distance from the first is of theirs; what is exact, no number, or too large goes as CVT with RNE. NX is 1, UF 2. -/
def stochastic (y : Fmt) (fi fo : BitVec 1) (a b : Word) : Word × Flags :=
  match operand .f32 (fi == 1) a.toNat with
  | .fin neg n d =>
    let lo := (roundNum y .rz false (.fin false n d)).1
    let hi := (roundNum y .ru false (.fin false n d)).1
    let l := (decodeNum y lo).frac
    let h := (decodeNum y hi).frac
    let largest := decodeNum y (if y.isBin then infCode y - 1 else 3)
    let smallest := decodeNum y (if y.isBin then 2 ^ y.fracBits else 1)
    if cmpNum (.fin false n d) largest > 0 ∨ cmpNum (decodeNum y lo) (.fin false n d) = 0 then converted .f32 y 0 fi fo a
    else
      -- rnd (h - l) < (x - l) 2^32, over the denominators of l, h and x
      let m := if (b.toNat % 2 ^ 32 : Nat) * (h.1 * l.2 - l.1 * h.2) * d < (n * l.2 - l.1 * d) * h.2 * 2 ^ 32 then hi else lo
      let zeroed := fo = 1 ∧ isSubnormal y m = true
      let code := if zeroed then 0 else m
      (BitVec.ofNat 64 (if y.isBin = false ∧ m = 0 then 0 else if neg then 2 ^ (y.width - 1) + code else code),
        if zeroed ∨ cmpNum (.fin false n d) smallest < 0 then 3 else 1)
  | _ => converted .f32 y 0 fi fo a

/-- R98, R99: the rounding instructions round the exact sum or product of their operands once; R77, R78: CVT and SRND. -/
def floatArithmeticResults : Instr → Option Effect
  | .fadd _ _ _ sf fi fo rm => some (flagged sf fun g =>
    fpRes (fpSum .f32 (.ofBits rm.toNat) (fo == 1) [] [fpArg fi g.av, fpArg fi g.bv]))
  | .fsub _ _ _ sf fi fo rm => some (flagged sf fun g =>
    fpRes (fpSum .f32 (.ofBits rm.toNat) (fo == 1) [] [fpArg fi g.av, (fpArg fi g.bv).negate]))
  | .fmul _ _ _ sf fi fo rm => some (flagged sf fun g =>
    fpRes (fpMul .f32 (.ofBits rm.toNat) (fo == 1) (fpArg fi g.av) (fpArg fi g.bv)))
  | .ffma _ _ sf fi fo rm => some (flagged sf fun g =>
    fpRes (fpSum .f32 (.ofBits rm.toNat) (fo == 1) [(fpArg fi g.av, fpArg fi g.bv)] [fpArg fi g.cv]))
  | .padd _ f _ sf fi fo rm => some (flagged sf fun g =>
    packed (List.zipWith (fun a b => fpSum (elemFmt f) (.ofBits rm.toNat) (fo == 1) [] [a, b]) (lanesOf f fi g.av) (lanesOf f fi g.bv)))
  | .pmul _ f _ sf fi fo rm => some (flagged sf fun g =>
    packed (List.zipWith (fun a b => fpMul (elemFmt f) (.ofBits rm.toNat) (fo == 1) a b) (lanesOf f fi g.av) (lanesOf f fi g.bv)))
  | .pfma _ f sf fi fo rm => some (flagged sf fun g =>
    packed (List.zipWith (fun ab c => fpSum (elemFmt f) (.ofBits rm.toNat) (fo == 1) [ab] [c])
      (List.zip (lanesOf f fi g.av) (lanesOf f fi g.bv)) (lanesOf f fi g.cv)))
  | .pdot _ f sf fi fo rm => some (flagged sf fun g =>
    fpRes (fpSum .f32 (.ofBits rm.toNat) (fo == 1) (List.zip (lanesOf f fi g.av) (lanesOf f fi g.bv)) [fpArg fi g.cv]))
  | .cvt _ x y _ sf fi fo rm => some (flagged sf fun g =>
    converted ((Fmt.ofCode x.toNat).getD .f32) ((Fmt.ofCode y.toNat).getD .f32) rm fi fo g.av)
  | .srnd _ y _ sf fi fo => some (flagged sf fun g =>
    stochastic ((Fmt.ofCode y.toNat).getD .f16) fi fo g.av g.bv)
  | _ => none

/-- R100: the smaller operand of FMIN, or the larger of FMAX, −0 below +0. Bit 1 of the function (`q`) is the NaN policy. A subnormal goes as a zero of its
sign under FI, without a flag, and under FO with UF and NX (3). NV is 16. -/
def minMax (larger : Bool) (q fi fo : BitVec 1) (a b : Word) : Word × Flags :=
  let x := fpArg fi a
  let y := fpArg fi b
  let less (v w : Sys2Proof.Machine.Num) : Bool := (v == .zero true && w == .zero false) || decide (cmpNum v w < 0)
  let deliver (c : Word) : Word × Flags :=
    let sub := c.toNat / 2 ^ 23 % 2 ^ 8 = 0 ∧ c.toNat % 2 ^ 23 ≠ 0
    if sub ∧ (fi = 1 ∨ fo = 1) then (c &&& 0x80000000, if fi = 1 then 0 else 3) else (c &&& 0xFFFFFFFF, 0)
  if x.isSig || y.isSig then (0x7FC00000, 16)
  else if x.isNan && y.isNan then (0x7FC00000, 0)
  else if x.isNan then (if q = 1 then (0x7FC00000, 0) else deliver b)
  else if y.isNan then (if q = 1 then (0x7FC00000, 0) else deliver a)
  else if larger then deliver (if less x y then b else a)
  else deliver (if less y x then b else a)

/-- R100–R102, R80: selection, sign, comparison and class. NV is 16. -/
def floatSelectResults : Instr → Option Effect
  | .fneg _ _ _ => some (gives fun _ g => (g.av.setWidth 32 ^^^ 0x80000000#32).setWidth 64)
  | .fabs _ _ _ => some (gives fun _ g => (g.av.setWidth 32 &&& 0x7FFFFFFF#32).setWidth 64)
  | .fcmp _ _ _ sf fi c => some (flagged sf fun g =>
    let x := fpArg fi g.av
    let y := fpArg fi g.bv
    let un := x.isNan || y.isNan
    (if (c = 0 ∧ !un ∧ cmpNum x y = 0) ∨ (c = 1 ∧ !un ∧ cmpNum x y < 0) ∨ (c = 2 ∧ !un ∧ cmpNum x y ≤ 0) ∨ (c = 3 ∧ un) then 1 else 0,
     if x.isSig || y.isSig || (un && (c == 1 || c == 2)) then 16 else 0))
  | .fclass _ _ _ c => some (gives fun _ g =>
    let f : Fmt := if c = 0 then .f32 else if c = 1 then .f16 else if c = 2 then .bf16 else .d8
    let code := g.av.toNat % 2 ^ f.width
    match decodeNum f code with
    | .nan true => 256
    | .nan false => 512
    | .inf true => 1
    | .inf false => 128
    | .zero true => 8
    | .zero false => 16
    | .fin true _ _ => if isSubnormal f code then 4 else 2
    | .fin false _ _ => if isSubnormal f code then 32 else 64)
  | .fmin _ _ _ sf fi fo q => some (flagged sf fun g =>
    minMax false q fi fo g.av g.bv)
  | .fmax _ _ _ sf fi fo q => some (flagged sf fun g =>
    minMax true q fi fo g.av g.bv)
  | _ => none

/-- R99: the five functions complete for every operand (0 RCP, 1 RSQ, 2 EXP2, 3 LOG2, 4 TANH); the tables below say with which result. -/
def functionResults : Instr → Option Effect
  | .rcp _ _ _ sf fi fo rm => some (flagged sf fun g => fpRes (fpFunction 0 rm.toNat (fi == 1) (fo == 1) g.av.toNat))
  | .rsq _ _ _ sf fi fo rm => some (flagged sf fun g => fpRes (fpFunction 1 rm.toNat (fi == 1) (fo == 1) g.av.toNat))
  | .exp2 _ _ _ sf fi fo rm => some (flagged sf fun g => fpRes (fpFunction 2 rm.toNat (fi == 1) (fo == 1) g.av.toNat))
  | .log2 _ _ _ sf fi fo rm => some (flagged sf fun g => fpRes (fpFunction 3 rm.toNat (fi == 1) (fo == 1) g.av.toNat))
  | .tanh _ _ _ sf fi fo rm => some (flagged sf fun g => fpRes (fpFunction 4 rm.toNat (fi == 1) (fo == 1) g.av.toNat))
  | _ => none

/-- An effect on a finite nonzero FP32 operand, after FI: its sign and its magnitude as a fraction. -/
def onFinite (sf fi : BitVec 1) (f : Bool → Nat → Nat → Option (Flagged Nat)) : Effect := flaggedIf sf fun g =>
  match fpArg fi g.av with
  | .fin neg n d => (f neg n d).map fpRes
  | _ => none

/-- A value between two fractions of one denominator, rounded (R73): none where the two ends round apart (log entry 1). The ends are odd numbers over a power
of two, so that neither is a number of the format. -/
def between (rm : BitVec 2) (fo : BitVec 1) (neg : Bool) (lo hi den : Nat) : Option (Flagged Nat) :=
  let round (n : Nat) : Flagged Nat := roundNum .f32 (.ofBits rm.toNat) (fo == 1) (.fin neg (n / 2 * 2 + 1) den)
  if round lo = round hi then some (round lo) else none

/-- The value `v / den` of a series, which is right to within 2^30 units of its last place. -/
def series (rm : BitVec 2) (fo : BitVec 1) (neg : Bool) (v den : Nat) : Option (Flagged Nat) :=
  between rm fo neg (v - 2 ^ 30) (v + 2 ^ 30) den

/-- R73, R99: a finite nonzero operand a = ±n/d. RCP rounds the exact 1/a, and RSQ the exact 1/√a = √(d n 4^160) / (n 2^160); EXP2 of an integer and LOG2 of a
power of two round the exact power and the exact exponent; far outside the range of FP32, where every value rounds alike, EXP2 rounds one there, and
TANH one next to ±1, or for a tiny operand one just below it in magnitude; otherwise EXP2, LOG2 and TANH round a value that lies as near to the exact one as 2^30 units in
the last of 400 binary places: 2^f = e^(f ln 2) for a fraction f, log2 m = 2 artanh((m - 1)/(m + 1)) / ln 2, and tanh a = (e^2a - 1)/(e^2a + 1). -/
def functionOrdinaryOperands : Instr → Option Effect
  | .rcp _ _ _ sf fi fo rm => some (onFinite sf fi fun neg n d => some (roundNum .f32 (.ofBits rm.toNat) (fo == 1) (.fin neg d n)))
  | .rsq _ _ _ sf fi fo rm => some (onFinite sf fi fun neg n d =>
    let v := d * n * 4 ^ 160
    let r := Nat.sqrt v
    if neg then some (0x7FC00000, 16)
    else some (roundNum .f32 (.ofBits rm.toNat) (fo == 1)
      (if r * r = v then .fin false r (n * 2 ^ 160) else .fin false (2 * r + 1) (2 * n * 2 ^ 160))))
  | .exp2 _ _ _ sf fi fo rm => some (onFinite sf fi fun neg n d =>
    let i := n / d
    if 200 * d ≤ n then some (roundNum .f32 (.ofBits rm.toNat) (fo == 1) (if neg then .fin false (2 ^ 40 + 1) (2 ^ 240) else .fin false (2 ^ 200) 1))
    else if n % d = 0 then some (roundNum .f32 (.ofBits rm.toNat) (fo == 1) (if neg then .fin false 1 (2 ^ i) else .fin false (2 ^ i) 1))
    else if neg then series rm fo false (pow2Frac (d - n % d) d) (2 ^ 400 * 2 ^ (i + 1))
    else between rm fo false ((pow2Frac (n % d) d - 2 ^ 30) * 2 ^ i) ((pow2Frac (n % d) d + 2 ^ 30) * 2 ^ i) (2 ^ 400))
  | .log2 _ _ _ sf fi fo rm => some (onFinite sf fi fun neg n d =>
    let e := floorLog2 n d
    let mn := n * 2 ^ (-e).toNat
    let md := d * 2 ^ e.toNat
    let l := 2 * atanhFix (mn - md) (mn + md) * 2 ^ 400 / ln2Fix
    if neg then some (0x7FC00000, 16)
    else if mn = md then
      some (if e = 0 then (0, 0) else roundNum .f32 (.ofBits rm.toNat) (fo == 1) (.fin (decide (e < 0)) e.natAbs 1))
    else if 0 ≤ e then series rm fo false (e.toNat * 2 ^ 400 + l) (2 ^ 400)
    else series rm fo true ((-e).toNat * 2 ^ 400 - l) (2 ^ 400))
  | .tanh _ _ _ sf fi fo rm => some (onFinite sf fi fun neg n d =>
    if 40 * d ≤ n then some (roundNum .f32 (.ofBits rm.toNat) (fo == 1) (.fin neg (2 ^ 100 - 1) (2 ^ 100)))
    else if n * 2 ^ 40 < d then some (roundNum .f32 (.ofBits rm.toNat) (fo == 1) (.fin neg (n * (2 ^ 60 - 1)) (d * 2 ^ 60)))
    else
      let e := (expSplit (2 * n) d).1 * 2 ^ (expSplit (2 * n) d).2
      series rm fo neg ((e - 2 ^ 400) * 2 ^ 400 / (e + 2 ^ 400)) (2 ^ 400))
  | _ => none

/-- An FP32 operand of Table 4-8: a NaN gives the default NaN, with NV when signalling; the table's other operands give the listed result
and flags. -/
def special (l : List (BitVec 32 × Word × Flags)) (g : Args) : Option (Word × Flags) :=
  let a := g.av.setWidth 32
  if a.toNat / 2 ^ 23 % 256 = 255 ∧ a.toNat % 2 ^ 23 ≠ 0 then some (0x7FC00000, if a.getLsbD 22 then 0 else 16)
  else (l.find? fun e => e.1 == a).map (·.2)

/-- Table 4-8: the special operands of the five functions. NV is 16, DZ is 8. -/
def functionSpecialOperands : Instr → Option Effect
  | .rcp _ _ _ sf _ _ _ => some (flaggedIf sf (special
    [(0xFF800000, 0x80000000, 0), (0x80000000, 0xFF800000, 8), (0, 0x7F800000, 8), (0x7F800000, 0, 0)]))
  | .rsq _ _ _ sf _ _ _ => some (flaggedIf sf (special
    [(0xFF800000, 0x7FC00000, 16), (0x80000000, 0xFF800000, 8), (0, 0x7F800000, 8), (0x7F800000, 0, 0)]))
  | .exp2 _ _ _ sf _ _ _ => some (flaggedIf sf (special
    [(0xFF800000, 0, 0), (0x80000000, 0x3F800000, 0), (0, 0x3F800000, 0), (0x7F800000, 0x7F800000, 0)]))
  | .log2 _ _ _ sf _ _ _ => some (flaggedIf sf (special
    [(0xFF800000, 0x7FC00000, 16), (0x80000000, 0xFF800000, 8), (0, 0xFF800000, 8), (0x7F800000, 0x7F800000, 0)]))
  | .tanh _ _ _ sf _ _ _ => some (flaggedIf sf (special
    [(0xFF800000, 0xBF800000, 0), (0x80000000, 0x80000000, 0), (0, 0, 0), (0x7F800000, 0x3F800000, 0)]))
  | _ => none

/-! ## Moving tokens (R83–R91), flags and random tokens (R72, R79, R81) -/

/-- The token of a control operand is true: not null and not zero (R90). -/
def truth (t : Token) : Bool := t.any (· != 0)

/-- R85: the moves. GET reads the register as at instance start; PUT records its value for commit; SEL and GATE pass null as they say. -/
def movesComplete : Instr → Option Effect
  | .get _ _ r => some (gives fun x _ => x.ins.start.g.getD r.toNat 0)
  | .put _ _ => some (fun x g s => some (s.modSlot x.k x.n fun y => { y with put := g.a }, none, none))
  | .movi _ _ imm => some (gives fun _ _ => imm.signExtend 64)
  | .movx _ _ imm => some (gives fun x _ => BitVec.ofNat 64 x.ins.addr + 4 * imm.signExtend 64)
  | .mov _ _ _ => some (gives fun _ g => g.av)
  | .null _ _ => some (fun _ _ s => both s none)
  | .sel _ _ => some (fun _ g s => both s (if g.c = none then none else if g.c = some 0 then g.b else g.a))
  | .gate _ _ _ => some (fun _ g s => both s g.a)
  | _ => none

/-- R72, R79, R81: RDFLG and CLRFLG deliver the selected flags as at instance start, CLRFLG joins its mask to the clear set, and RNGN
delivers the next half of the mixed counter. -/
def mix (z : Word) : Word :=
  let z := (z ^^^ (z >>> 33)) * 0xFF51AFD7ED558CCD
  let z := (z ^^^ (z >>> 33)) * 0xC4CEB9FE1A85EC53
  z ^^^ (z >>> 33)

def flagAndRandomResults : Instr → Option Effect
  | .rdflg _ _ m => some (gives fun x _ => x.ins.start.flags.setWidth 64 &&& m.setWidth 64)
  | .clrflg _ _ m => some (fun x _ s =>
    both (s.modInst x.k fun i => { i with clear := i.clear ||| m.setWidth 5 })
      (some (x.ins.start.flags.setWidth 64 &&& m.setWidth 64)))
  | .rngn _ _ c k => some (gives fun x _ =>
    let z := mix (x.ins.start.g.getD c.toNat 0 + BitVec.ofNat 64 (x.me.fired / 2) + x.ins.start.g.getD k.toNat 0)
    if x.me.fired % 2 = 0 then (z.setWidth 32).setWidth 64 else z >>> 32)
  | _ => none

/-- Where an exit leads, when it fires. -/
def exitKind : Instr → Option (Ctx → Args → ExitKind)
  | .bra _ _ f => some fun x _ => .goto (BitVec.ofNat 64 x.ins.addr + 4 * f.signExtend 64)
  | .call _ _ f => some fun x _ => .goto (BitVec.ofNat 64 x.ins.addr + 4 * f.signExtend 64)
  | .bri _ _ f => some fun _ g => .goto (g.av + 4 * f.signExtend 64)
  | .ret _ _ f => some fun _ g => .goto (g.av + 4 * f.signExtend 64)
  | .exit _ _ f => some fun _ _ => .exit f
  | .park _ _ => some fun _ _ => .park
  | _ => none

/-- R87, R185: an exit that fires in the final iteration of an instance in which none has fired records where the stroke goes on. -/
def exits : Instr → Option Effect := fun i => (exitKind i).map fun kind x g s =>
    if x.me.done + 1 < x.ins.total.getD 1 ∨ x.ins.fired ≠ [] then none
    else some (s.modInst x.k fun y => { y with fired := [{ slot := x.n, kind := kind x g }] }, none, none)

/-- R47: an exit of an iteration before the final one traps with EARLYEXIT (5), TRAPVAL the iteration. -/
def earlyExits : Instr → Option (Ctx → Args → State → Option (Nat × Word)) := fun i => (exitKind i).map fun _ x _ _ =>
    if x.me.done + 1 < x.ins.total.getD 1 then some (5, BitVec.ofNat 64 x.me.done) else none

/-- R88: the marker of a counter. -/
def lastMark (sparse : BitVec 1) (last : Bool) : Option Token :=
  if sparse = 0 then some (some (if last then 1 else 0)) else if last then some (some 1) else none

/-- R88–R90: the nested counter and the router operators. -/
def routersComplete : Instr → Option Effect
  | .ctr _ _ adv sparse => some (fun x g s =>
    if x.n = 0 ∧ x.ins.stream then none
    else
      let b := g.av.toNat
      let go := adv = 0 ∨ truth g.b
      let last := decide (go ∧ (b = 0 ∨ x.me.count + 1 ≥ b))
      some (if go then s.modSlot x.k x.n fun y => { y with count := if last then 0 else x.me.count + 1 } else s,
        some (if b = 0 then none else some (BitVec.ofNat 64 x.me.count)), lastMark sparse last))
  | .steer _ _ => some (fun _ g s =>
    some (s, if g.c = some 0 then none else if g.c = none then some none else some g.a,
      if g.c = none then some none else if g.c = some 0 then some g.a else none))
  | .merge _ _ => some (fun _ g s => both s (if g.c = none then none else if g.c = some 0 then g.b else g.a))
  | .carry _ _ => some (fun x g s =>
    if x.me.drop ∧ x.me.portB.isSome then none
    else both (s.modSlot x.k x.n fun y => { y with fresh := truth g.c, drop := y.drop || truth g.c })
      (if x.me.fresh then g.a else g.b))
  | .invar _ _ => some (fun x g s =>
    let held := x.me.keep.getD g.a
    both (s.modSlot x.k x.n fun y => { y with keep := if truth g.c then none else some held }) held)
  | .rrmerge _ _ b => some (fun x g s =>
    both (s.modSlot x.k x.n fun y => { y with turned := !y.turned }) (if (b = 1) = (x.me.turned = true) then g.a else g.b))
  | _ => none

/-- The state once a CARRY has discarded the feedback token that follows a true C. -/
def discarded (x : Ctx) (s : State) : State := (s.modSlot x.k x.n fun y => { y with portB := none, drop := false }).flush x.k

/-- R90: a CARRY that has a feedback token to discard discards it, and then acts as one that has none. -/
def carryDiscards : Prop :=
  ∀ t v s x, s.ctx = some x → x.me.drop = true → x.me.portB ≠ none → ((discarded x s).ctx.any fun y => y.me.drop) = false →
    exec (.carry t v) s = exec (.carry t v) (discarded x s)

/-! ## Memory (R105–R123, R229, R235) -/

/-- Nothing in the state keeps a store to the own scratchpad back: no wash holds bytes and no granule is damaged. -/
def unhindered (s : State) : Bool := s.svc.washes.isEmpty && s.mem.poison.isEmpty

/-- The window offset that an address of a space names: in space 00 the address itself, in space 10 bits 20:0 of a self-form nib address (R108), of which a
sampler core has none (R327). -/
def windowOffset (x : Ctx) (sp : BitVec 2) (a : Nat) : Option Nat :=
  if sp = 0 then some a else if sp = 2 ∧ a / 2 ^ 21 = 0xFFF ∧ isSampler (unitOf x.k) = false then some (a % 2 ^ 21) else none

/-- `n` bytes of the stroke's window from an offset on, when they lie inside (R110, R117). -/
def inOwnWindow (x : Ctx) (o n : Nat) : Option Loc :=
  if o + n ≤ x.st.decl.wsize ∧ isScribe (unitOf x.k) = false then some (.spad (unitOf x.k) (x.st.decl.wbase + o)) else none

/-- An aligned access of `n` bytes at address `a` of a space, when it names bytes of the stroke's own nib, with the beats of an absolute nib address (R405;
`kind` 1 reads, 2 writes). -/
def windowLoc (x : Ctx) (sp : BitVec 2) (a n kind : Nat) (s : State) : Option (Loc × State) :=
  let u := unitOf x.k
  if a % n ≠ 0 then none
  else
    match windowOffset x sp a with
    | some o => (inOwnWindow x o n).map fun l => (l, s)
    | none =>
      if sp = 2 ∧ a / 2 ^ 21 = u ∧ slabOf u < 12 ∧ nibOf u < 168 ∧ a % 2 ^ 21 + n ≤ 0x180000 ∧ s.unitPart u = some x.st.decl.part ∧ isScribe u = false then
        some (.spad u (a % 2 ^ 21), s.spadBeats x.k u n kind)
      else none

/-- The window side of a vector copy of `m` bytes at offset `b`, 16-byte aligned (R116, R117). -/
def vectorLoc (x : Ctx) (b m : Nat) : Option Loc := if b % 16 = 0 then inOwnWindow x b m else none

/-- `v` of `n` bytes, sign- or zero-extended. -/
def extend (signed : Bool) (n : Nat) (v : Nat) : Word :=
  if signed then (BitVec.ofNat (8 * n) v).signExtend 64 else (BitVec.ofNat (8 * n) v).setWidth 64

/-- The wait is that of the slot's read. -/
def waitsHere (x : Ctx) (w : BankWait) : Bool := w.stroke == x.k && w.serial == x.ins.serial && w.slot == x.n

/-- A full-bit read of the slot is served (R120): the granule is full, and no read that reached its bank earlier and still stands is served before it, any
for a `.fc` read, a `.fc` read for a `.fe` read. -/
def served (x : Ctx) (clears : Bool) (key : Nat) (s : State) : Bool :=
  s.mem.isFull key &&
    !((s.mem.waits.takeWhile fun w => !waitsHere x w).any fun w => w.granule == key / 16 && (clears || w.clears) && s.waitStands w)

/-- The state once it has been served: it waits no more, and a `.fc` read has cleared the bit. -/
def taken16 (x : Ctx) (clears : Bool) (key : Nat) (s : State) : State :=
  s.modMem fun m =>
    let m' : Memory := { m with waits := m.waits.filter fun w => !waitsHere x w }
    if clears then m'.setFull key false else m'

/-- The state in which it waits: the last of its granule's queue, unless it stood there. -/
def joined (x : Ctx) (clears : Bool) (key : Nat) (s : State) : State :=
  s.modMem fun m =>
    if m.waits.any fun w => w.granule == key / 16 && waitsHere x w then m
    else { m with waits := (m.waits.filter fun w => !waitsHere x w) ++
      [{ granule := key / 16, stroke := x.k, serial := x.ins.serial, slot := x.n, clears }] }

/-- Bytes of a scratchpad under a full-bit qualifier (`fe`: 1 for `.fe`, 2 for `.fc`): those that stand there once the read is served, and without one what
the stroke loads plainly. -/
def bankBytes (x : Ctx) (fe key n : Nat) (s : State) : Option (List Byte × State) :=
  if fe = 1 ∨ fe = 2 then
    if served x (fe == 2) key s then
      let s1 := taken16 x (fe == 2) key s
      some (s1.mem.engineBytes (s1.readerOf x.k) key n, s1)
    else none
  else some (s.loadBytes x.k key n)

/-- The full-bit qualifier of LD, 1 for `.fe`, 2 for `.fc`, and whether it sign-extends: 0 none, 1 `.s`, 3 `.fe`, 4 `.fc`, 6 `.fe.s`, 7 `.fc.s`. -/
def fullOf (q : BitVec 3) : Nat := if q = 3 ∨ q = 6 then 1 else if q = 4 ∨ q = 7 then 2 else 0
def signs (q : BitVec 3) : Bool := q == 1 || q == 6 || q == 7

/-- A granule stored at a location: at its bank in the own scratchpad, as a pending write elsewhere while it fits (R229); `.fs` sets its full bit with the
data, and in another nib's scratchpad shows the stroke's earlier stores to that scratchpad there (R121). -/
def granuleTo (x : Ctx) (fs : Bool) (d : Loc) (bs : List Byte) (s : State) : Option State :=
  if !unhindered s then none
  else
    match d with
    | .spad u off =>
      let key := spadKey u off
      if u = unitOf x.k then
        let s1 := s.modMem fun m => m.localWrite u key bs
        some (if fs then s1.modMem fun m => m.setFulls (key / 16 * 16) true (granules key 16) else s1)
      else if s.pendFits x.k key bs.length then
        let s1 := s.pendWrite x.k key bs
        some (if fs then s1.modMem fun m =>
          (m.setFulls (key / 16 * 16) true (granules key 16)).reveal x.k (spadKey u 0) (spadKey (u + 1) 0) [u] else s1)
      else none
    | .mem p => if s.pendFits x.k p.key bs.length then some (s.pendWrite x.k p.key bs) else none
    | _ => none

/-- Granules `i`, `i + 1`, …, `n` of them, copied from a key to a location in ascending order, each read under its qualifier (1 `.fe`, 2 `.fc`) or set with its
data (3 `.fs`): the state they leave, with the granule that waits, if one does (R116, R120). -/
def copied (x : Ctx) (fe src : Nat) (dst : Loc) (i : Nat) : Nat → State → Option (State × Option Nat)
  | 0, s => some (s, none)
  | n + 1, s =>
    if !unhindered s then none
    else
      match bankBytes x fe (src + 16 * i) 16 s with
      | none => some (joined x (fe == 2) (src + 16 * i) s, some i)
      | some (bs, s1) => (granuleTo x (fe == 3) (dst.plus (16 * i)) bs s1).bind fun s2 => copied x fe src dst (i + 1) n s2

/-- The slot of a vector copy has moved `i` granules, and keeps what is left of an LDV. -/
def progressed (x : Ctx) (i : Nat) (v : Option Move) (s : State) : State := s.modSlot x.k x.n fun y => { y with count := i, move := v }

/-- A vector copy that moves its granules unchanged: from where, to where, under which qualifier, and what is left of an LDV at granule `i`. -/
structure Raw where
  src : Nat
  own : Bool
  dst : Loc
  fe : Nat
  rest : Nat → Option Move

/-- R116–R118: LDV begins with its source located, and STV with its destination; a page of a format that decodes is no raw copy unless `.raw` says so. What
an STV writes takes no SC ring range. -/
def rawOf (i : Instr) (x : Ctx) (g : Args) (s : State) : Option (Raw × Nat × State) :=
  match i with
  | .ldv _ _ _ sp z q =>
    let m := 16 * 4 ^ z.toNat
    let fe := q.toNat % 4
    match x.me.move, vectorLoc x g.bv.toNat m with
    | none, some d =>
      let rest (own : Bool) (src : Nat) (via : Option (Nat × Nat × Nat)) (i : Nat) : Option Move :=
        some { serial := x.ins.serial, slot := x.n, bnd := x.st.bnd, fe, own, src, dst := g.bv.toNat, at_ := i, left := m / 16 - i, via }
      match s.locateVec x.k x.stale (decide (4 ≤ q.toNat)) sp.toNat g.av.toNat m 1 with
      | (.spad u off, s1) =>
        let own := u == unitOf x.k
        some (⟨spadKey u off, own, d, fe, rest own (if own then spadKey u off - spadKey u x.st.decl.wbase else spadKey u off) none⟩, m, s1)
      | (.mem p, s1) =>
        if decodes p.fmt ∧ q.toNat < 4 then none
        else some (⟨p.key, false, d, fe, rest false p.key (some (p.region, p.off / 65536, p.leaf.level))⟩, m, s1)
      | _ => none
    | _, _ => none
  | .stv _ _ _ sp z q =>
    let m := 16 * 4 ^ z.toNat
    match vectorLoc x g.bv.toNat m with
    | none => none
    | some src =>
      match s.locateVec x.k x.stale (decide (4 ≤ q.toNat)) sp.toNat g.av.toNat m 2 with
      | (.spad u off, s1) =>
        if u ≠ unitOf x.k ∧ ((q.toNat % 4 = 3 ∧ x.st.outsStored = false) ∨ s1.pendFits x.k (spadKey u off) m = false) then none
        else some (⟨src.key, u == unitOf x.k, .spad u off, q.toNat % 4, fun _ => none⟩, m, s1)
      | (.mem p, s1) =>
        if (decodes p.fmt ∧ q.toNat < 4) ∨ s1.inSc p ∨ (q.toNat % 4 = 3 ∧ x.st.outsStored = false) ∨ s1.pendFits x.k p.key m = false then none
        else some (⟨src.key, false, .mem p, q.toNat % 4, fun _ => none⟩, m, s1)
      | _ => none
  | _ => none

/-- R118, R396: an LDV that waits part-way goes on with what it has located, or with what it has read. -/
def resumed (i : Instr) (x : Ctx) (s : State) : Option (Move × State × Option Nat) :=
  match i, x.me.move with
  | .ldv .., some v =>
    let d : Loc := .spad (unitOf x.k) (x.st.decl.wbase + v.dst)
    if v.serial ≠ x.ins.serial ∨ v.slot ≠ x.n ∨ isScribe (unitOf x.k) then none
    else
      match v.bytes with
      | none =>
        (copied x v.fe (if v.own then spadKey (unitOf x.k) x.st.decl.wbase + v.src else v.src) d v.at_ v.left s).map fun r => (v, r)
      | some bs =>
        if !unhindered s then none
        else
          let s1 := s.modMem fun m => m.localWrite (unitOf x.k) d.key bs
          some (v, if v.fe = 3 then s1.modMem fun m => m.setFulls (d.key / 16 * 16) true (granules d.key bs.length) else s1, none)
  | _, _ => none

/-- What a vector copy gives once it has moved: LDV its destination, STV 0. -/
def copyResult (i : Instr) (g : Args) : Word := match i with
  | .ldv .. => g.bv
  | _ => 0

/-- A raw vector copy that comes to its end, at once or after it has waited: whether it lies in the own scratchpad alone, and the state. -/
def copyEnds (i : Instr) (x : Ctx) (g : Args) (s : State) : Option (Bool × State) :=
  match resumed i x s with
  | some (v, s1, none) => some (v.own, progressed x 0 none s1)
  | some _ => none
  | none =>
    match rawOf i x g s with
    | some (c, m, s1) =>
      match if !unhindered s1 then none else copied x c.fe c.src c.dst x.me.count (m / 16 - x.me.count) s1 with
      | some (s2, none) => some (c.own, progressed x 0 none s2)
      | _ => none
    | none => none

/-- R110–R123: accesses to the stroke's own window, in spaces 00 and 10: LD under every full-bit qualifier, ST and `.fs`, LDV and STV, and FESET. -/
def windowAccesses : Instr → Option Effect
  | .ld _ _ _ sp z q => some fun x g s =>
    let n := 2 ^ z.toNat
    match windowLoc x sp g.av.toNat n 1 s with
    | none => none
    | some (l, s1) =>
      if q = 2 ∨ q = 5 ∨ s1.mem.poison ≠ [] then none
      else (bankBytes x (fullOf q) l.key n s1).bind fun r => both r.2 (some (extend (signs q) n (ofBytes r.1)))
  | .st _ _ _ sp z q => some fun x g s =>
    let n := 2 ^ z.toNat
    match windowLoc x sp g.av.toNat n 2 s with
    | none => none
    | some (l, s1) =>
      if ¬(q = 0 ∨ q = 1) ∨ !unhindered s1 then none
      else
        let s' := s1.modMem fun m => m.localWrite (unitOf x.k) l.key (toBytes g.bv.toNat n)
        both (if q = 1 then s'.modMem fun m => m.setFulls (l.key / 16 * 16) true (granules l.key n) else s') (some 0)
  | .feset _ _ _ sp z q => some fun x g s =>
    match windowLoc x sp g.av.toNat (16 * 4 ^ z.toNat) 0 s with
    | none => none
    | some (l, s1) => both (s1.modMem fun m => m.setFulls l.key (q = 1) (4 ^ z.toNat)) (some 0)
  | .ldv t p n sp z q => some fun x g s => copy (.ldv t p n sp z q) x g s
  | .stv t p n sp z q => some fun x g s => copy (.stv t p n sp z q) x g s
  | _ => none
where
  copy (i : Instr) (x : Ctx) (g : Args) (s : State) : Option (State × Option Token × Option Token) :=
    match copyEnds i x g s with
    | some (true, s1) => both s1 (some (copyResult i g))
    | _ => none

/-- The trap of an access of `n` bytes at address `a` of space 00 or 10 (R108, R110): MISALIGN (0x10) with the address, SPADWIN (0x11) with the offset in the
window, NIBADDR (0x12) with the address: a malformed nib address, one of another partition or of no partition, one past the scratchpad, and a self-form
one on a sampler core. -/
def spadTrap (x : Ctx) (sp : BitVec 2) (a n : Nat) (s : State) : Option (Nat × Word) :=
  let off := a % 2 ^ 21
  let slab := a / 2 ^ 29 % 16
  let nib := a / 2 ^ 21 % 256
  let outside (o : Nat) : Option (Nat × Word) := if x.st.decl.wsize < o + n then some (0x11, BitVec.ofNat 64 o) else none
  if sp ≠ 0 ∧ sp ≠ 2 then none
  else if a % n ≠ 0 then some (0x10, BitVec.ofNat 64 a)
  else if sp = 0 then outside a
  else if a / 2 ^ 33 = 0 ∧ slab = 15 ∧ nib = 255 then (if isSampler (unitOf x.k) then some (0x12, BitVec.ofNat 64 a) else outside off)
  else if a / 2 ^ 33 ≠ 0 ∨ 12 ≤ slab ∨ 168 ≤ nib ∨ 0x180000 < off + n ∨ s.unitPart (slab * 256 + nib) ≠ some x.st.decl.part then
    some (0x12, BitVec.ofNat 64 a)
  else none

/-- R110: alignment, window and nib address checks of LD, ST and FESET. -/
def windowTraps : Instr → Option (Ctx → Args → State → Option (Nat × Word)) := fun i =>
  match i with
    | .ld _ _ _ sp z _ => some fun x g s => spadTrap x sp g.av.toNat (2 ^ z.toNat) s
    | .st _ _ _ sp z _ => some fun x g s => spadTrap x sp g.av.toNat (2 ^ z.toNat) s
    | .feset _ _ _ sp z _ => some fun x g s => spadTrap x sp g.av.toNat (16 * 4 ^ z.toNat) s
    | _ => none

/-- The scale code of the element at `off` of a region, `high` the high nibble of a D4 byte (R66), as the stroke loads it, and the state; none of a page without
scales, and no answer where its page is not there or a granule is damaged. -/
def scaleOf (x : Ctx) (areg : Bool) (p : Phys) (off : Nat) (high : Bool) (s : State) : Option (Option Nat × State) :=
  if p.scaled = false then some (none, s)
  else
    let low := off % 2 ^ 60
    let n := if p.fmt = 4 then 2 * low + (if high then 1 else 0) else low
    match s.locateVa x.k x.stale areg (off / 2 ^ 61 * 2 ^ 61 + 2 ^ 60 + n / p.blockLen) 5 with
    | (.mem q, s1) => if s1.mem.poison ≠ [] then none else some (some (s1.load x.k q.key 1).1, (s1.load x.k q.key 1).2)
    | _ => none

/-- R67: what a load delivers for the code of an element: the FP32 image of a float or decimal code, with the payload of a NaN at the top of the fraction,
a sign-extended integer, any other code unchanged; with a scale the product, rounded to FP32. -/
def elementValue (fmt c : Nat) (sc : Option Nat) : Word :=
  match Fmt.ofCode fmt with
  | none => BitVec.ofNat 64 c
  | some f =>
    let image : Nat := match f with
      | .f16 =>
        if c / 2 ^ 10 % 2 ^ 5 = 31 then c / 2 ^ 15 % 2 * 2 ^ 31 + 0x7F800000 + c % 2 ^ 10 * 2 ^ 13
        else (roundNum .f32 .rne false (decodeNum .f16 c)).1
      | .bf16 => c % 2 ^ 16 * 2 ^ 16
      | .d8 | .d4 => decodeDec f (c % 2 ^ f.width)
      | .i8 | .i16 | .i32 => ((BitVec.ofNat f.width c).signExtend 64).toNat
      | _ => c
    match sc with
    | some k => BitVec.ofNat 64 (roundNum .f32 .rne false
        (mulNum (if f = .i8 then decodeNum .i8 c else decodeNum .f32 image) (decodeNum .d8 k)).1).1
    | none => BitVec.ofNat 64 image

/-- R67, R115, R117: the code that a store writes for a payload: a float or decimal format, and a scaled INT8, take the FP32 value of its low 32 bits, divided by
the scale, rounded to nearest even; an unscaled integer format clamps the whole payload, or with `wide` its low 32 bits. -/
def elementCode (fmt v : Nat) (sc : Option Nat) (wide : Bool) : Nat :=
  let x := decodeNum .f32 v
  let clampTo (n : Nat) (i : Int) : Nat := (BitVec.ofInt n (max (-2 ^ (n - 1)) (min (2 ^ (n - 1) - 1) i))).toNat
  match Fmt.ofCode fmt with
  | none => v % 256
  | some f =>
    if f.isInt ∧ f ≠ .i64 then
      match (if f = .i8 then sc else none) with
      | some k =>
        match decodeNum .d8 k with
        | .fin .. =>
          match divNum x (decodeNum .d8 k) with
          | .nan _ => 0
          | .inf neg => if neg then 0x80 else 0x7F
          | .zero _ => 0
          | .fin neg n d => clampTo 8 (toInteger 0 (if neg then -(n : Int) else n) d)
        | _ => 0
      | none => clampTo f.width (if wide then (BitVec.ofNat 32 v).toInt else (BitVec.ofNat 64 v).toInt)
    else if f = .f16 ∨ f = .bf16 then (roundNum f .rne false x).1
    else if f = .d8 ∨ f = .d4 then
      match sc with
      | none => (roundNum f .rne false x).1
      | some k =>
        match decodeNum .d8 k with
        | .fin .. => (roundNum f .rne false (divNum x (decodeNum .d8 k))).1
        | _ => 2 ^ (f.width - 1)
    else v % 2 ^ f.width

/-- The value of the element `d` bytes after a translated address, `high` the high nibble of a D4 byte, and the state once scale and code are loaded. -/
def elementRead (x : Ctx) (areg : Bool) (p : Phys) (d : Nat) (high : Bool) (s : State) : Option (Word × State) :=
  (scaleOf x areg p (p.off + d) high s).bind fun r =>
    if r.2.mem.poison ≠ [] then none
    else
      let v := r.2.load x.k (p.key + d) (fmtBytes p.fmt)
      let c := if p.fmt = 4 then (if high then v.1 / 16 else v.1 % 16) else v.1
      some (elementValue p.fmt c r.1, v.2)

/-- The low words of the values of elements `i`, `i + 1`, …, `n` of them (R117). -/
def elementsRead (x : Ctx) (areg : Bool) (p : Phys) (i : Nat) : Nat → State → Option (List Nat × State)
  | 0, s => some ([], s)
  | n + 1, s =>
    (elementRead x areg p (i * fmtBits p.fmt / 8) (p.fmt == 4 && i % 2 == 1) s).bind fun r =>
      (elementsRead x areg p (i + 1) n r.2).map fun l => (r.1.toNat % 2 ^ 32 :: l.1, l.2)

/-- The codes of elements `i`, `i + 1`, … for 32-bit words (R117). -/
def elementCodes (x : Ctx) (areg : Bool) (p : Phys) (i : Nat) : List Nat → State → Option (List Nat × State)
  | [], s => some ([], s)
  | w :: ws, s =>
    (scaleOf x areg p (p.off + i * fmtBits p.fmt / 8) (p.fmt == 4 && i % 2 == 1) s).bind fun r =>
      (elementCodes x areg p (i + 1) ws r.2).map fun l => (elementCode p.fmt w r.1 true :: l.1, l.2)

/-- Codes side by side on a page, the even one of two D4 codes in the low nibble. -/
def sideBySide (fmt : Nat) : List Nat → List Byte
  | [] => []
  | [a] => if fmt = 4 then [BitVec.ofNat 8 (a % 16)] else toBytes a (fmtBytes fmt)
  | a :: b :: t =>
    if fmt = 4 then BitVec.ofNat 8 (b % 16 * 16 + a % 16) :: sideBySide fmt t else toBytes a (fmtBytes fmt) ++ sideBySide fmt (b :: t)

/-- Granules `i`, `i + 1`, …, `n` of them, of four words each, encoded onto a page as pending writes. -/
def encoded (x : Ctx) (fe : Nat) (areg : Bool) (src : Nat) (p : Phys) (i : Nat) : Nat → State → Option State
  | 0, s => some s
  | n + 1, s =>
    if (fe = 1 ∨ fe = 2) ∧ served x (fe == 2) (src + 16 * i) s = false then none
    else
      let r := (if fe = 1 ∨ fe = 2 then taken16 x (fe == 2) (src + 16 * i) s else s).loadBytes x.k (src + 16 * i) 16
      (elementCodes x areg p (4 * i) (wordsOf r.1) r.2).bind fun c =>
        encoded x fe areg src p (i + 1) n (c.2.pendWrite x.k (p.key + fmtBits p.fmt / 2 * i) (sideBySide p.fmt c.1))

/-- The reply of the slot is on its way. -/
def replied (x : Ctx) (w : Word) (s : State) : State := s.pushReply x.k x.ins.serial x.n (some w)

/-- R110–R118, R229: accesses to memory, raw and by the page's format, and to other nibs' scratchpads; the slot owes its reply (R48). -/
def memoryAccesses : Instr → Option Owed
  | .ld _ _ _ sp z q => some fun x g s =>
    let n := 2 ^ z.toNat
    match s.locateScalar x.k x.stale (q == 2) sp.toNat g.av.toNat z.toNat 1 with
    | (.mem p, s1) =>
      if q = 5 ∨ s1.mem.poison ≠ [] then none
      else if q = 2 ∨ p.fmt = 15 then
        let r := s1.load x.k p.key n
        some (replied x (extend (q = 1) n r.1) r.2)
      else if sizeFits p.fmt z.toNat then
        (elementRead x (sp == 3) p 0 (p.fmt == 4 && z == 1) s1).map fun r => replied x r.1 r.2
      else none
    | (.spad u off, s1) =>
      if u = unitOf x.k ∨ isScribe u ∨ s1.mem.poison ≠ [] then none
      else (bankBytes x (fullOf q) (spadKey u off) n s1).map fun r => replied x (extend (signs q) n (ofBytes r.1)) r.2
    | _ => none
  | .st _ _ _ sp z q => some fun x g s =>
    let n := 2 ^ z.toNat
    match s.locateScalar x.k x.stale (q == 2) sp.toNat g.av.toNat z.toNat 2 with
    | (.mem p, s1) =>
      if q = 5 ∨ s1.inSc p ∨ s1.mem.poison ≠ [] then none
      else if q = 2 ∨ p.fmt = 15 then write x p.key (toBytes g.bv.toNat n) s1
      else if sizeFits p.fmt z.toNat = false then none
      else
        let high := p.fmt == 4 && z == 1
        (scaleOf x (sp == 3) p p.off high s1).bind fun r =>
          let c := elementCode p.fmt g.bv.toNat r.1 false
          if r.2.mem.poison ≠ [] then none
          else if p.fmt = 4 then
            let old := (r.2.load x.k p.key 1).1
            write x p.key (toBytes (if high then c % 16 * 16 + old % 16 else old / 16 * 16 + c % 16) 1) r.2
          else write x p.key (toBytes c (fmtBytes p.fmt)) r.2
    | (.spad u off, s1) =>
      let key := spadKey u off
      if u = unitOf x.k ∨ isScribe u ∨ ¬(q = 0 ∨ q = 1) ∨ (q = 1 ∧ x.st.outsStored = false) ∨ s1.mem.poison ≠ [] ∨
          s1.pendFits x.k key (toBytes g.bv.toNat n).length = false then none
      else
        let s2 := s1.pendWrite x.k key (toBytes g.bv.toNat n)
        some (replied x 0 (if q = 1 then s2.modMem fun m =>
          (m.setFulls (key / 16 * 16) true (granules key n)).reveal x.k (spadKey u 0) (spadKey (u + 1) 0) [u] else s2))
    | _ => none
  | .feset _ _ _ sp z q => some fun x g s =>
    match s.locate x.k x.stale sp.toNat g.av.toNat (16 * 4 ^ z.toNat) 0 with
    | (.spad u off, s1) =>
      if u = unitOf x.k then none else some (replied x 0 (s1.modMem fun m => m.setFulls (spadKey u off) (q = 1) (4 ^ z.toNat)))
    | _ => none
  | .ldv t p n sp z q => some fun x g s =>
    let m := 16 * 4 ^ z.toNat
    match copyEnds (.ldv t p n sp z q) x g s, x.me.move, vectorLoc x g.bv.toNat m with
    | some (false, s1), _, _ => some (replied x g.bv s1)
    | none, none, some d =>
      match s.locateVec x.k x.stale false sp.toNat g.av.toNat m 1 with
      | (.mem y, s1) =>
        if 4 ≤ q.toNat ∨ decodes y.fmt = false then none
        else
          (elementsRead x (sp == 3) y 0 (m / 4) s1).bind fun l =>
            if !unhindered l.2 then none
            else
              let s2 := l.2.modMem fun w => w.localWrite (unitOf x.k) d.key (l.1.flatMap fun v => toBytes v 4)
              let s3 := if q.toNat % 4 = 3 then s2.modMem fun w => w.setFulls (d.key / 16 * 16) true (granules d.key m) else s2
              some (replied x g.bv (progressed x 0 none s3))
      | _ => none
    | _, _, _ => none
  | .stv t p n sp z q => some fun x g s =>
    let m := 16 * 4 ^ z.toNat
    match copyEnds (.stv t p n sp z q) x g s, vectorLoc x g.bv.toNat m with
    | some (false, s1), _ => some (replied x 0 s1)
    | none, some src =>
      match s.locateVec x.k x.stale false sp.toNat g.av.toNat m 2 with
      | (.mem y, s1) =>
        let i := x.me.count
        let n := m / 4 * fmtBits y.fmt / 8
        if 4 ≤ q.toNat ∨ decodes y.fmt = false ∨ s1.inSc y ∨ s1.mem.poison ≠ [] ∨ s1.pendFits x.k y.key n = false ∨
            (elementCodes x (sp == 3) y 0 (List.replicate (m / 4) 0) s1).isNone then none
        else
          (encoded x (q.toNat % 4) (sp == 3) src.key y i (m / 16 - i) s1).map fun s2 => replied x 0 (progressed x 0 none (s2.modMem fun w => w.heal y.key n))
      | _ => none
    | _, _ => none
  | _ => none
where
  write (x : Ctx) (key : Nat) (bs : List Byte) (s : State) : Option State :=
    if s.pendFits x.k key bs.length then some (replied x 0 (s.pendWrite x.k key bs)) else none

/-- R120, R122: an LD, LDV or STV that reads a granule whose bit is clear, or whose turn has not come, waits at its bank with its tokens in place; a vector copy
keeps how far it has come. -/
def fullBitWaits : Instr → Option Owed
  | .ld _ _ _ sp z q => some fun x g s =>
    match s.locateScalar x.k x.stale (q == 2) sp.toNat g.av.toNat z.toNat 1 with
    | (.spad u off, s1) =>
      if fullOf q = 0 ∨ isScribe u ∨ s1.mem.poison ≠ [] ∨ served x (fullOf q == 2) (spadKey u off) s1 then none
      else some (joined x (fullOf q == 2) (spadKey u off) s1)
    | _ => none
  | .ldv t p n sp z q => some fun x g s => waits (.ldv t p n sp z q) x g s
  | .stv t p n sp z q => some fun x g s => waits (.stv t p n sp z q) x g s
  | _ => none
where
  waits (i : Instr) (x : Ctx) (g : Args) (s : State) : Option State :=
    match resumed i x s with
    | some (v, s1, some j) => some (progressed x j (some { v with at_ := j, left := v.at_ + v.left - j }) s1)
    | some _ => none
    | none =>
      match rawOf i x g s with
      | some (c, m, s1) =>
        match if !unhindered s1 then none else copied x c.fe c.src c.dst x.me.count (m / 16 - x.me.count) s1 with
        | some (s2, some j) => some (progressed x j (c.rest j) s2)
        | _ => none
      | none => none

/-- Every instruction of a table waits with its tokens in place, in the state that the table gives. -/
def waitsIn (table : Instr → Option Owed) : Prop :=
  ∀ i e s x g s', table i = some e → firing i s = some (x, g) → e x g s = some s' →
    exec i s = .next (s'.modSlot x.k x.n fun y => { y with mode := .held })

/-- R247, R248: LD.sc and ST.sc of an address in an SC ring range send their access to the range's node, where it waits for the token. -/
def scAccesses : Instr → Option Owed
  | .ld _ _ _ sp z q => some fun x g s =>
    match s.locateScalar x.k x.stale false sp.toNat g.av.toNat z.toNat 1 with
    | (.mem p, s1) =>
      let high := p.fmt == 4 && z == 1
      let n := if p.fmt = 4 then 1 else 2 ^ z.toNat
      if q ≠ 5 ∨ sizeFits p.fmt z.toNat = false ∨ s1.inSc p = false ∨ s1.mem.poison ≠ [] then none
      else (scaleOf x (sp == 3) p p.off high s1).map fun r => ask x p g.av (.scLoad n p.fmt r.1 high false) r.2
    | _ => none
  | .st _ _ _ sp z q => some fun x g s =>
    match s.locateScalar x.k x.stale false sp.toNat g.av.toNat z.toNat 2 with
    | (.mem p, s1) =>
      let high := p.fmt == 4 && z == 1
      if q ≠ 5 ∨ sizeFits p.fmt z.toNat = false then none
      else
        (if p.fmt = 15 then some (g.bv.toNat % 2 ^ (8 * 2 ^ z.toNat), 2 ^ z.toNat, none, s1)
          else (scaleOf x (sp == 3) p p.off high s1).map fun r =>
            (elementCode p.fmt g.bv.toNat r.1 false, fmtBytes p.fmt, if p.fmt = 4 then some high else none, r.2)).bind fun (c, n, nibble, s2) =>
          if s2.inSc p = false ∨ s2.mem.poison ≠ [] then none else some (ask x p g.av (.scStore n c nibble) s2)
    | _ => none
  | _ => none
where
  ask (x : Ctx) (p : Phys) (a : Word) (kind : AtomKind) (s : State) : State :=
    s.sendAtom { stroke := x.k, serial := x.ins.serial, slot := x.n, node := ((s.owner p.tier p.pa).map (·.well)).getD 0,
                 key := p.key, addr := a, region := p.region, level := p.leaf.level, sc := true, kind }

/-! ## Circular buffers and streams (R125–R141) -/

/-- The address of slot `j` of a handle's buffer, in the form of its BASE. -/
def slotAt (h : Handle) (j : Nat) : Word :=
  BitVec.ofNat 64 (h.buffer.toNat % 2 ^ 33 + j % h.slots * (16 * (h.buffer.toNat / 2 ^ 33 % 64 + 1)))

/-- R129–R131: the state once CBADV has moved a pointer of its handle, which is now `c`. -/
def advanced (x : Ctx) (h : BitVec 4) (c : Handle) (tail : Bool) (n : BitVec 9) (s : State) : State :=
  let s1 := s.modRun x.k fun r => { r with handles := tabPut r.handles h.toNat c }
  let partner := if c.hasPartner then [c.partnerPlace / 64] else []
  let s2 := if tail then
      s1.modMem fun m => m.reveal x.k (bufferRange x.st x.k c).1 (bufferRange x.st x.k c).2
        ([if nibSelf c.base then unitOf x.k else nibUnit c.base, anyEngine] ++ partner)
    else s1
  let s3 := if c.hasPartner then
      s2.post (.stroke x.k) c.partnerPlace (cbUpdate tail (c.partner.toNat / 2 ^ 18 % 2 ^ 4) n.toNat) 1
    else s2
  s3.testArmed x.k h.toNat

/-- R125–R132: the circular-buffer instructions. CBADV of the tail shows the stroke's earlier stores into the buffer to the buffer's nib, the engines and
the partner's nib; a partner gets an update word; a wait of the handle is tested again. -/
def bufferInstructions : Instr → Option Effect
  | .cbinit _ _ side h => some fun x g s =>
    if s.cbBad x.st g.av.toNat g.bv.toNat ≠ none then none
    else both (s.modRun x.k fun r =>
      { r with handles := tabPut r.handles h.toNat { buffer := g.av, partner := g.bv, producer := side = 1, ready := true } }) (some 0)
  | .cbwait _ _ n y h => some fun x _ s =>
    match tabFind x.st.run.handles h.toNat with
    | none => none
    | some c =>
      if c.ready = false ∨ n.toNat > c.slots then none
      else if n.toNat ≤ (c.tail - c.head).toNat then both s (some (slotAt c c.head.toNat))
      else if y = 1 then
        both (s.modRun x.k fun r => { r with handles := tabPut r.handles h.toNat { c with armed := some (false, n.toNat) } }) none
      else none
  | .cbrsv _ _ n y h => some fun x _ s =>
    match tabFind x.st.run.handles h.toNat with
    | none => none
    | some c =>
      if c.ready = false ∨ n.toNat > c.slots then none
      else if n.toNat ≤ c.slots - (c.tail - c.head).toNat then both s (some (slotAt c c.tail.toNat))
      else if y = 1 then
        both (s.modRun x.k fun r => { r with handles := tabPut r.handles h.toNat { c with armed := some (true, n.toNat) } }) none
      else none
  | .cbadv _ _ n e h => some fun x _ s =>
    match tabFind x.st.run.handles h.toNat with
    | none => none
    | some c =>
      if c.ready = false ∨ (c.hasPartner = true ∧ (e == 1) ≠ c.producer) then none
      else if e = 0 then
        if n.toNat > (c.tail - c.head).toNat then none
        else both (advanced x h { c with head := c.head + n.setWidth 32 } false n s) (some ((c.head + n.setWidth 32).setWidth 64))
      else
        if n.toNat > c.slots - (c.tail - c.head).toNat then none
        else both (advanced x h { c with tail := c.tail + n.setWidth 32 } true n s) (some ((c.tail + n.setWidth 32).setWidth 64))
  | _ => none

/-- R125–R129: CBWAIT, CBRSV and CBADV of more than the handle allows, or on a handle not initialised, trap with CBRANGE (0x15), TRAPVAL
the count; CBINIT with a bad descriptor traps with CBDESC (0x14). -/
def bufferTraps : Instr → Option (Ctx → Args → State → Option (Nat × Word)) := fun i =>
  match i with
    | .cbinit _ _ _ _ => some fun x g s => (s.cbBad x.st g.av.toNat g.bv.toNat).map fun n => (0x14, BitVec.ofNat 64 n)
    | .cbwait _ _ n _ h => some fun x _ _ =>
      if ((tabFind x.st.run.handles h.toNat).any fun c => c.ready && decide (n.toNat ≤ c.slots)) then none else some (0x15, n.setWidth 64)
    | .cbrsv _ _ n _ h => some fun x _ _ =>
      if ((tabFind x.st.run.handles h.toNat).any fun c => c.ready && decide (n.toNat ≤ c.slots)) then none else some (0x15, n.setWidth 64)
    | .cbadv _ _ n e h => some fun x _ _ =>
      if ((tabFind x.st.run.handles h.toNat).any fun c => c.ready && (!c.hasPartner || (e == 1) == c.producer) &&
          decide (n.toNat ≤ if e = 1 then c.slots - (c.tail - c.head).toNat else (c.tail - c.head).toNat)) then none
      else some (0x15, n.setWidth 64)
    | _ => none

/-- The word at an offset of a list of bytes. -/
def wordAt (bs : List Byte) (i : Nat) : Word := BitVec.ofNat 64 (ofBytes ((bs.drop (8 * i)).take 8))

/-- A seam route of the stroke's folio binds its port `n`, an out-port when `o` is 1. -/
def seamBound (x : Ctx) (o : BitVec 1) (n : Nat) (s : State) : Bool :=
  (s.folioOf x.k).any fun f => f.seams.any fun y => if o = 1 then y.src == x.k && y.sport == n else y.dst == x.k && y.dport == n

/-- R133–R138, R139–R141: SBIND once the stroke's earlier tokens have been stored and the binding that it replaces has ended, RECV from a binding or a
seam route, BSET and BPERM. -/
def streamInstructions : Instr → Option Effect
  | .sbind _ _ c r z sp o n => some fun x g s =>
    let key := if o = 1 then 64 + n.toNat else n.toNat
    if seamBound x o n.toNat s then none
    else if c = 0 ∧ (g.av.toNat % 8 ≠ 0 ∨ g.av.toNat + 40 > x.st.decl.wsize ∨ s.mem.poison ≠ []) then none
    else
      match s.endBinding x.k (tabFind x.st.run.binds key) with
      | .bad _ => none
      | .ok _ s1 =>
        if c = 1 then both (s1.modRun x.k fun q => { q with binds := tabDel q.binds key }) (some 0)
        else
          let l := s1.loadBytes x.k (spadKey (unitOf x.k) (x.st.decl.wbase + g.av.toNat)) 40
          let b : Binding := { space := sp.toNat, size := z.toNat, raw := r == 1, base := wordAt l.1 0, levels := (span 1 4).map (wordAt l.1) }
          both (l.2.modRun x.k fun q => { q with binds := tabPut q.binds key b }) (some 0)
  | .recv _ _ n => some fun x _ s =>
    let edge := s.edgeOf x.k x.st
    match tabFind x.st.run.binds n.toNat with
    | some b =>
      match skipMarkers edge b.ahead with
      | .tok w _ :: r => both (s.modRun x.k fun q => { q with binds := tabPut q.binds n.toNat { b with ahead := r } }) (some w)
      | _ => none
    | none =>
      match (s.folioOf x.k).bind fun f => (f.seams.find? fun y => y.dst == x.k && y.dport == n.toNat).map fun y => (f, y) with
      | some (f, y) =>
        match seamHead edge y.toks with
        | some (w, r) =>
          if y.src = x.k then both (s.modFolio f.id fun h => { h with seams := setSeam x.k n.toNat r h.seams }) w
          else both ((s.modFolio f.id fun h => { h with seams := setSeam x.k n.toNat r h.seams }).flush y.src) w
        | none => none
      | none => none
  | .bset _ _ n => some fun x g s =>
    both (s.modUnit (unitOf x.k) fun u =>
      { u with lane := { u.lane with bn := listSet u.lane.bn n.toNat ((g.av.setWidth 56).setWidth 64) } }) (some 0)
  | .bperm _ _ _ n => some fun x g s =>
    both s (some (BitVec.ofNat 64 (ofNibbles (benes (nibbles g.av.toNat 16) ((s.unit (unitOf x.k)).lane.bn.getD n.toNat 0).toNat))))
  | _ => none

/-- R138, R39: SBIND of a port that a seam route binds, or of a record that is not aligned or lies outside the window, traps with STREAMBIND (0x16),
TRAPVAL the port; RECV of a port with no binding and no route traps with UNBOUNDPORT (7), TRAPVAL 64 more than the port, and past the last
element with STREAMEND (0x17), TRAPVAL the port. -/
def streamTraps : Instr → Option (Ctx → Args → State → Option (Nat × Word))
  | .sbind _ _ c _ _ _ o n => some fun x g s =>
    if seamBound x o n.toNat s ∨ c = 0 ∧ (g.av.toNat % 8 ≠ 0 ∨ g.av.toNat + 40 > x.st.decl.wsize) then some (0x16, n.setWidth 64) else none
  | .recv _ _ n => some fun x _ s =>
    match tabFind x.st.run.binds n.toNat with
    | some b => if skipMarkers (s.edgeOf x.k x.st) b.ahead = [] ∧ b.count ≤ b.pos then some (0x17, n.setWidth 64) else none
    | none =>
      if (s.folioOf x.k).any fun f => f.seams.any fun y => y.dst == x.k && y.dport == n.toNat then none
      else some (7, 64 + n.setWidth 64)
  | _ => none

/-! ## Atomics and phases (R229–R251) -/

/-- The request of an atomic on `n` bytes at `a`, queued at its owner well, at a peer that accepts it or at its scratchpad bank: on a page of format none or
`fmt`, on bytes without an uncorrectable error. `ring` is false for AFINIT, which the SC ring does not order (R248). -/
def requested (s : State) (x : Ctx) (space : Nat) (a : Word) (n fmt : Nat) (kind : AtomKind) (ring : Bool := true) : Option State :=
  let req : AtomReq := { stroke := x.k, serial := x.ins.serial, slot := x.n, node := 0, key := 0, addr := a, kind }
  match s.locate x.k x.stale space a.toNat n 3 with
  | (.mem p, s1) =>
    if (p.fmt ≠ 15 ∧ p.fmt ≠ fmt) ∨ (s1.mem.poisoned p.key n).isSome then none
    else
      let r := { req with key := p.key, region := p.region, level := p.leaf.level, sc := ring && s1.inSc p }
      if p.tier = 3 then
        if s1.drawBool.1 then some (s1.drawBool.2.sendAtom { r with node := 2 ^ 20 + p.pa / 2 ^ 49 % 256 }) else none
      else (s1.owner p.tier p.pa).map fun w => s1.sendAtom { r with node := w.well }
  | (.spad u off, s1) =>
    if (s1.mem.poisoned (spadKey u off) n).isSome then none
    else some (s1.sendAtom { req with node := 4096 + u, key := spadKey u off })
  | _ => none

/-- A scalar atomic: 8 bytes for size codes 0 and 1 (format INT64), 4 bytes for 2 and 3 (format INT32). -/
def scalarRequest (op : Nat) (sp z : BitVec 2) : Owed := fun x g s =>
  if z.toNat < 2 then requested s x sp.toNat g.av 8 8 (.scalar op z.toNat g.bv g.cv)
  else requested s x sp.toNat g.av 4 7 (.scalar op z.toNat g.bv g.cv)

/-- The requests of the lanes of a list, `first` the first of them; RESUMEIDX holds the lane last looked at. A lane that cannot be sent, after others were,
stops there: it and those after it stay to be sent once the others have applied. -/
def laneRequests (op : Nat) (sp z : BitVec 2) (x : Ctx) (base : Word) (rec first : Nat) : List Nat → State → Option State
  | [], s => some (s.modSlot x.k x.n fun y => { y with lanes := [] })
  | i :: l, s =>
    let off := (s.modRegs x.k fun r => { r with resumeidx := BitVec.ofNat 64 i }).load x.k (rec + 16 * (i + 1)) 8
    let b := off.2.load x.k (rec + 16 * (i + 1) + 8) 8
    let kind : AtomKind := .lane op z.toNat (BitVec.ofNat 64 b.1) (rec + 16 * (i + 1) + 8)
    match (if z.toNat < 2 then requested b.2 x sp.toNat (base + BitVec.ofNat 64 off.1) 8 8 kind
      else requested b.2 x sp.toNat (base + BitVec.ofNat 64 off.1) 4 7 kind) with
    | some t => laneRequests op sp z x base rec first l t
    | none => if i = first then none else some (b.2.modSlot x.k x.n fun y => { y with lanes := i :: l })

/-- A vector atomic (R242) with a lane record inside the window, of 1 to 16 lanes: its count, where its record lies, the lanes it is to send (those from
RESUMEIDX on, or those that came back, R243), and the state once the count is loaded. -/
def laneRecord (x : Ctx) (g : Args) (s : State) : Option (Nat × Nat × List Nat × State) :=
  let b := g.bv.toNat
  let recKey := spadKey (unitOf x.k) (x.st.decl.wbase + b)
  let i := x.st.regs.resumeidx.toNat
  let h := s.load x.k recKey 16
  if b % 16 ≠ 0 ∨ b + 16 > x.st.decl.wsize ∨ (s.mem.poisoned recKey 16).isSome ∨ h.1 = 0 ∨ 16 < h.1 ∨ b + 16 * (h.1 + 1) > x.st.decl.wsize ∨
      (h.2.mem.poisoned recKey (16 * (h.1 + 1))).isSome then none
  else some (h.1, recKey, if x.me.lanes = [] then span i (h.1 - i) else x.me.lanes.filter fun j => i ≤ j && j < h.1, h.2)

def vectorRequest (op : Nat) (sp z : BitVec 2) : Owed := fun x g s =>
  match laneRecord x g s with
  | some (_, recKey, i :: l, t) => laneRequests op sp z x g.av recKey i (i :: l) t
  | _ => none

/-- R239, R241–R245: an atomic sends its update to the owner node of its address and keeps its tokens. -/
def atomicRequests : Instr → Option Owed
  | .aadd _ _ _ sp z => some (scalarRequest 0 sp z)
  | .amin _ _ _ sp z => some (scalarRequest 1 sp z)
  | .amax _ _ _ sp z => some (scalarRequest 2 sp z)
  | .aand _ _ _ sp z => some (scalarRequest 3 sp z)
  | .aor _ _ _ sp z => some (scalarRequest 4 sp z)
  | .axor _ _ _ sp z => some (scalarRequest 5 sp z)
  | .aswp _ _ _ sp z => some (scalarRequest 6 sp z)
  | .acas _ _ sp z => some (scalarRequest 7 sp z)
  | .aaddv _ _ _ sp z => some (vectorRequest 0 sp z)
  | .aminv _ _ _ sp z => some (vectorRequest 1 sp z)
  | .amaxv _ _ _ sp z => some (vectorRequest 2 sp z)
  | .aandv _ _ _ sp z => some (vectorRequest 3 sp z)
  | .aorv _ _ _ sp z => some (vectorRequest 4 sp z)
  | .axorv _ _ _ sp z => some (vectorRequest 5 sp z)
  | .aswpv _ _ _ sp z => some (vectorRequest 6 sp z)
  | .afadd _ _ _ sp => some fun x g s =>
    requested s x sp.toNat g.av 4 0 (.afadd (g.bv.toNat / 2 ^ 32) (g.bv.setWidth 32) false)
  | .afinit _ _ _ l ax => some fun x g s =>
    requested s x (if ax = 1 then 3 else 1) g.av 4 0 (.afinit (l == 1) (g.bv.setWidth 32)) false
  | _ => none

/-- The vector atomics. -/
def isVector : Instr → Bool
  | .aaddv .. | .aminv .. | .amaxv .. | .aandv .. | .aorv .. | .axorv .. | .aswpv .. => true
  | _ => false

/-- R242: a vector atomic with no lane left to send completes with its count, RESUMEIDX 0. -/
def vectorEnds : Instr → Option Effect := fun i =>
  if isVector i then some fun x g s =>
    match laneRecord x g s with
    | some (n, _, [], t) => both (t.modRegs x.k fun r => { r with resumeidx := 0 }) (some (BitVec.ofNat 64 n))
    | _ => none
  else none

/-- R242: a lane record off a multiple of 16 or outside the window traps. -/
def recordTraps : Instr → Option (Ctx → Args → State → Option (Nat × Word)) := fun i =>
  if isVector i then some fun x g _ =>
    if g.bv.toNat % 16 ≠ 0 then some (0x10, g.bv)
    else if g.bv.toNat + 16 > x.st.decl.wsize then some (0x11, g.bv)
    else none
  else none

/-- The value an integer update of `n` bytes leaves, from the old value and the operand (R241). -/
def atomValue (op : Nat) {n : Nat} (u : BitVec 1) (old b c : BitVec n) : BitVec n :=
  match op with
  | 0 => old + b
  | 1 => if view u b < view u old then b else old
  | 2 => if view u old < view u b then b else old
  | 3 => old &&& b
  | 4 => old ||| b
  | 5 => old ^^^ b
  | 6 => b
  | _ => if old = b then c else old

/-- R239: every earlier request of its stroke to the node of request `n` has arrived there: an AFADD has once it has been tested. -/
def arrived (s : State) (n : Nat) (r : AtomReq) : Bool :=
  !((s.net.atoms.take n).any fun a => a.stroke == r.stroke && a.node == r.node && !a.tried)

/-- The state without request `n`. -/
def taken (s : State) (n : Nat) : State := { s with net := { s.net with atoms := listDrop s.net.atoms n } }

/-- The slot of a request is to fire, or to trap, with the tokens it kept. -/
def slotBack (s : State) (r : AtomReq) : State := s.modSlot r.stroke r.slot fun y => { y with mode := .ready, kept := false }

/-- Request `n` has no effect: its slot traps, the tokens it kept in place; a peer's is answered with the code and TRAPVAL its issuer takes (R413). -/
def turnedAway (s : State) (n : Nat) (r : AtomReq) (code : Nat) (val : Word) : State :=
  if isPeer r.stroke then (taken s n).sendPeer (peerOf r.stroke) r.addr { msg := .reply code (toBytes val.toNat 8) }
  else if (s.inst r.stroke).any (·.serial == r.serial) then (slotBack (taken s n) r).takeTrap r.stroke r.slot code val
  else taken s n

/-- Bytes of an update: 8 for size codes 0 and 1, 4 for 2 and 3. -/
def updateBytes (z : Nat) : Nat := if z < 2 then 8 else 4

/-- R419: the granule with an uncorrectable error among the bytes that a request reads, or writes only in part. -/
def spoiled (s : State) (r : AtomReq) : Option Nat :=
  match r.kind with
  | .scalar _ z _ _ => s.mem.poisoned r.key (updateBytes z)
  | .lane _ z _ rec => (s.mem.poisoned r.key (updateBytes z)).or (s.mem.partPoisoned rec 8)
  | .afadd .. => s.mem.poisoned r.key 4
  | .afinit .. => none
  | .scLoad n .. => s.mem.poisoned r.key n
  | .scStore n .. => s.mem.partPoisoned r.key n

/-- The old value of an integer update of a 4- or 8-byte integer at its node, extended, and the state after its read and write. The versions it
must act on have gone home (`gather`); a compare and swap that does not match writes nothing. -/
def integerUpdate (s : State) (r : AtomReq) (op z : Nat) (b c : Word) : Word × State :=
  let w := if z < 2 then 64 else 32
  let u : BitVec 1 := BitVec.ofNat 1 z
  let t := s.gather r (w / 8)
  let old := BitVec.ofNat w (t.mem.get r.key (w / 8))
  let new := atomValue op u old (b.setWidth w) (c.setWidth w)
  (ret u old, if op < 7 ∨ old = b.setWidth w then t.applyWrite r (toBytes new.toNat (w / 8)) else t)

/-- R242, R243: a vector atomic of which no lane is on its way any more replies with its count and RESUMEIDX 0, or fires again from the first lane that
is left. -/
def lanesSettled (s : State) (r : AtomReq) : State :=
  let resume (i : Nat) : State := s.modRegs r.stroke fun g => { g with resumeidx := BitVec.ofNat 64 i }
  if s.net.atoms.any fun a => a.stroke == r.stroke && a.serial == r.serial && a.slot == r.slot then s
  else
    match s.inst r.stroke with
    | none => s
    | some i =>
      match (if i.serial = r.serial then i.slots[r.slot]? else none) with
      | none => s
      | some y =>
        match y.lanes with
        | [] => (resume 0).pushReply r.stroke r.serial r.slot (some (BitVec.ofNat 64 (s.mem.get (s.laneRecord r.stroke y) 8 % 32)))
        | l :: _ => slotBack (resume l) r

/-- R239, R241–R243, R248: request `n` is performed: an integer update, whose old value is the reply or goes to the lane's place in the record; the load
or store of an .sc access. One that meets an uncorrectable error has no effect: its slot traps with UNCORR (0x0E), or its lane goes back (R419). -/
def performed (s : State) (n : Nat) (r : AtomReq) : State :=
  let t := taken s n
  match spoiled s r with
  | some g =>
    match r.kind with
    | .lane .. =>
      if isPeer r.stroke ∨ (s.inst r.stroke).any (·.serial == r.serial) = false then turnedAway s n r 0x0E (granuleVal g)
      else lanesSettled (t.modSlot r.stroke r.slot fun y =>
        { y with lanes := insertNat (r.laneAt (t.laneRecord r.stroke y)) y.lanes }) r
    | _ => turnedAway s n r 0x0E (granuleVal g)
  | none =>
    match r.kind with
    | .scalar op z b c =>
      let o := integerUpdate t r op z b c
      o.2.pushReply r.stroke r.serial r.slot (some o.1)
    | .lane op z b rec =>
      let o := integerUpdate t r op z b 0
      lanesSettled (o.2.modMem fun m => m.localWrite (unitOf r.stroke) rec (toBytes o.1.toNat 8)) r
    | .scLoad m fmt scale high raw =>
      let c := t.mem.get r.key (fmtBytes fmt)
      let v := if raw ∨ fmt = 15 then BitVec.ofNat 64 (t.mem.get r.key m)
        else elementValue fmt (if fmt = 4 then (if high then c / 16 else c % 16) else c) scale
      t.pushReply r.stroke r.serial r.slot (some v)
    | .scStore m v nibble =>
      let old := t.mem.get r.key 1
      let v := match nibble with
        | some true => v % 16 * 16 + old % 16
        | some false => old / 16 * 16 + v % 16
        | none => v
      (t.commitOwn r.stroke none r.key (toBytes v m)).pushReply r.stroke r.serial r.slot (some 0)
    | _ => t

/-- R239, R241: an integer update outside the SC ring is performed when it is next of its stroke at its node and no wash holds what it writes (R267). -/
def atomicApplies : Instr → State → Option State
  | .atomicApply n, s =>
    (s.net.atoms[n]?).bind fun r =>
      if r.sc ∨ arrived s n r = false ∨ s.atomHeld r then none
      else
        match r.kind with
        | .scalar .. | .lane .. => some (performed s n r)
        | _ => none
  | _, _ => none

/-- R244: AFADD `n`, of index `i`, is tested at its owner: it traps with AFSEQ (0x29) without a context, or with an index that has passed or is held
already; one whose index is next adds in FP32, rounded to nearest even, and its context counts, where it may (an SC ring node holds the token); one up to
255 ahead is held; one further ahead waits. -/
def addTested (s : State) (n : Nat) (r : AtomReq) (i : Nat) (b : BitVec 32) (held may : Bool) : State :=
  match s.afCtx r.node r.key with
  | none => turnedAway s n r 0x29 1
  | some c =>
    let d := (BitVec.ofNat 32 i - c.next).toNat
    let keep := fun (k : AtomKind) => ({ s with net := { s.net with atoms := listSet s.net.atoms n { r with tried := true, kind := k } } } : State)
    if held = false ∧ (2 ^ 31 ≤ d ∨ s.afHeld r.node r.key i) then turnedAway s n r 0x29 2
    else if 256 ≤ d then keep r.kind
    else if 0 < d ∨ may = false then keep (.afadd i b true)
    else
      match spoiled s r with
      | some g => turnedAway s n r 0x0E (granuleVal g)
      | none =>
        let t := (taken s n).gather r 4
        let old := t.mem.get r.key 4
        let sum := fpSum .f32 .rne false [] [decodeNum .f32 old, decodeNum .f32 b.toNat]
        let t := (t.applyWrite r (toBytes sum.1 4)).setAfCtx { c with next := c.next + 1 }
        let t := if (t.inst r.stroke).any (·.serial == r.serial) then t.raise r.stroke sum.2 else t
        t.pushReply r.stroke r.serial r.slot (some ((BitVec.ofNat 32 old).setWidth 64))

/-- R247, R248: request `n` may be performed by SC ring node `node` as it holds the token: an .sc access, or an AFADD there whose index is next and whose
folio is not frozen, that has arrived and whose bytes no wash holds. -/
def performable (s : State) (node n : Nat) : Bool :=
  match s.net.atoms[n]? with
  | none => false
  | some a =>
    a.sc && a.node == node && (a.tried || arrived s n a) && !s.atomHeld a &&
      match a.kind with
      | .afadd i _ _ => !((s.stroke a.stroke).any (·.run.frozen)) && (s.afCtx node a.key).any fun c => i % 2 ^ 32 == c.next.toNat
      | .afinit .. => false
      | _ => true

/-- R247: the accesses of one visit: up to `m`, each the first in arrival order that may be performed; watchers see what each leaves (R184). -/
def visited (node : Nat) : Nat → State → State
  | 0, s => s
  | m + 1, s =>
    match (span 0 s.net.atoms.length).find? (performable s node) with
    | none => s
    | some n =>
      match s.net.atoms[n]? with
      | none => s
      | some r =>
        visited node m (State.latchWatchers (match r.kind with
          | .afadd i b held => addTested s n r i b held true
          | _ => performed s n r))

/-- R244–R248: an AFADD that reaches its owner, outside the SC ring, is tested and added in order of its index. AFINIT rejects what is held, and creates,
resets or frees a context, of which a node has at most 256. The SC ring's next member performs up to 16 accesses; a change of members takes effect as a
circuit begins (R374). -/
def sequencedAdds : Instr → State → Option State
  | .afaddApply n, s =>
    (s.net.atoms[n]?).bind fun r =>
      match r.kind with
      | .afadd i b held =>
        if (s.stroke r.stroke).any (·.run.frozen) ∨ s.atomHeld r ∨ (r.tried = false ∧ arrived s n r = false) then none
        else some (addTested s n r i b held (!r.sc))
      | _ => none
  | .afinitApply n, s =>
    (s.net.atoms[n]?).bind fun r =>
      match r.kind with
      | .afinit release base =>
        if r.tried = false ∧ arrived s n r = false then none
        else if release = false ∧ s.afCtx r.node r.key = none ∧ 256 ≤ (s.net.afctx.filter (·.node == r.node)).length then
          some (turnedAway s n r 0x29 3)
        else
          let t := rejected r.node r.key (taken s n).net.atoms.length (taken s n)
          let others := t.net.afctx.filter fun d => !(d.node == r.node && d.key == r.key)
          some (({ t with net := { t.net with
            afctx := if release then others else others ++ [{ node := r.node, key := r.key, next := base }] } } : State).pushReply
              r.stroke r.serial r.slot (some 0))
      | _ => none
  | .scTokenVisit, s =>
    let ring := if s.net.scTurn = 0 then s.scRing else s.net.scRing
    match ring[s.net.scTurn]? with
    | none => some { s with net := { s.net with scTurn := 0 } }
    | some node => some (visited node 16 { s with net := { s.net with scRing := ring, scTurn := (s.net.scTurn + 1) % ring.length } })
  | _, _ => none
where
  /-- R245: the AFADDs held for a context trap with AFSEQ, TRAPVAL 4. -/
  rejected (node key : Nat) : Nat → State → State
    | 0, s => s
    | m + 1, s =>
      let held (n : Nat) : Bool := (s.net.atoms[n]?).any fun a => a.node == node && a.key == key && (match a.kind with
        | .afadd _ _ h => h
        | _ => false)
      match (span 0 s.net.atoms.length).find? held with
      | none => s
      | some n =>
        match s.net.atoms[n]? with
        | none => s
        | some r => rejected node key m (turnedAway s n r 0x29 4)

/-- R237, R238: PHASE leaves a boundary with the stroke, at the order reached; R182: so do BARA and BARW, which also count as arrivals at the
barrier (scope 2), BARW with a wake armed on a channel. -/
def boundariesFire : Instr → Option Owed
  | .phase _ _ sc => some fun x _ s =>
    if s.quiet x = false then none
    else some (s.modRun x.k fun r =>
      { r with boundaries := r.boundaries ++ [{ scope := sc.toNat, kind := 0, serial := x.ins.serial, slot := x.n, upto := s.mem.order }] })
  | .bara _ _ b => some fun x _ s => arrives b.toNat [] x s
  | .barw _ _ b => some fun x g s =>
    if g.av.toNat % 64 < x.st.decl.chans then
      arrives b.toNat [(x.k, unitOf x.k * 64 + x.st.decl.chbase + g.av.toNat % 64)] x s
    else none
  | _ => none
where
  arrives (b : Nat) (wake : List (Nat × Nat)) (x : Ctx) (s : State) : Option State :=
    match s.folioOf x.k with
    | none => none
    | some f =>
      match f.bars[b]? with
      | none => none
      | some y =>
        if y.arrived.contains x.k ∨ s.quiet x = false then none
        else
          let y' := { y with arrived := y.arrived ++ [x.k], waiters := y.waiters ++ wake }
          let d : Boundary := { scope := 2, kind := 1, serial := x.ins.serial, slot := x.n, bar := b, gen := y.gen, upto := s.mem.order }
          some ((s.modFolio f.id fun h => { h with bars := listSet h.bars b y' }).modRun x.k fun r => { r with boundaries := r.boundaries ++ [d] })

/-- R231–R233, R156: the first boundary of a stroke completes, once no wash of an earlier instance waits to issue (R268); that of an EXIT, once every
out-port store and every LDV that has fired is done (R118, R137): its writes commit at its scope, NUMBER counts it, a new phase begins, and
the slot's reply is the new number, or for an arrival the generation; that of an EXIT ends the stroke. A barrier whose arrivals have all completed opens
the next generation and wakes its waiters. -/
def boundariesComplete : Instr → State → Option State
  | .phaseBoundaryComplete k, s =>
    match s.stroke k with
    | none => none
    | some t =>
      match t.run.boundaries with
      | [] => none
      | b :: rest =>
        let ends := b.kind = 2
        let binds := t.run.binds.filter fun e => 64 ≤ e.1
        if 2 < b.kind ∨ t.run.waiting.any (·.serial < b.serial) ∨
            ends ∧ (t.run.state = .trapped ∨ t.run.moves ≠ [] ∨ binds.any fun e => e.2.sent ≠ [] ∨ (e.2.nibble.getD none).isSome) then none
        else
          let upto := if ends then s.mem.order else b.upto
          let s0 := if ends then binds.foldl (fun s e =>
            s.modRun k fun q => { q with binds := tabPut q.binds e.1 { e.2 with nibble := none } }) s else s
          let s1 := ((s0.modMem fun m => m.passBoundary k b.scope upto).countMarks k).countFolio k b.scope
          let s2 := s1.modStroke k fun t =>
            { t with regs := { t.regs with phaseNumber := t.regs.phaseNumber + 1 }, run := { t.run with boundaries := rest, stable := [] } }
          if b.kind = 0 then
            some (s2.pushReply k b.serial b.slot (some ((t.regs.phaseNumber + 1).setWidth 64)))
          else if b.kind = 1 then
            some ((s2.modFolio t.decl.folio fun f =>
              { f with bars := match f.bars[b.bar]? with
                  | some y => listSet f.bars b.bar { y with settled := y.settled ++ [k] }
                  | none => f.bars }).pushReply k b.serial b.slot (some (BitVec.ofNat 64 b.gen)))
          else
            match t.run.ending with
            | some st => some (s2.endStroke k st.toNat false)
            | none => some s2
  | .barrierGenerationComplete folio bar, s =>
    match s.folio folio with
    | none => none
    | some f =>
      match f.bars[bar]? with
      | none => none
      | some y =>
        if y.settled = [] ∨ (distinct y.settled).length < f.strokes.length + f.away then none
        else
          let word : Word := BitVec.ofNat 64 (0xBA * 2 ^ 56 + bar * 2 ^ 52 + y.gen % 2 ^ 32)
          let t := y.waiters.foldl (fun t w => t.post (.engine (w.2 / 64)) w.2 word) s
          some ((t.modFolio folio fun h => { h with bars := listSet h.bars bar { gen := y.gen + 1 } }).slewRelease f)
  | _, _ => none

/-- R238, R251, R391: FENCE begins a phase of the stroke when bit A is set; PUBLISH exchanges the leaves of a range of pages whose every leaf
passes, lets what is on its way to the pages arrive there (what has not left its unit is translated again), and forgets their translations. -/
def fenceAndPublish : Instr → Option Effect
  | .fence _ _ a w => some fun x _ s =>
    if w = 1 ∧ s.quiet x = false then none
    else both (if a = 1 then s.modRun x.k fun r => { r with stable := [] } else s) (some 0)
  | .publish _ _ _ ax => some fun x g s =>
    let region := x.st.region (ax == 1)
    let range := inPages region g.av.toNat g.bv.toNat
    if g.av.toNat % 65536 ≠ 0 ∨ g.bv.toNat = 0 ∨ 65536 < g.bv.toNat ∨ s.inFlight range then none
    else
      match s.checkPages x.st.decl.part (unitPriv (unitOf x.k)) region g.av.toNat g.bv.toNat 3 g.bv.toNat 0 [] with
      | .ok leaves => both ((((s.exchange region leaves).withdrawUnsent range).drainMoves range).forget range) (some 0)
      | _ => none
  | _ => none

/-! ## Lane pipe and matrix engine (R187–R226) -/

/-- `n` words of memory that the stroke loads from a key, in ascending order, and the state after the loads. -/
def words (k key : Nat) : Nat → State → List Word × State
  | 0, s => ([], s)
  | n + 1, s =>
    let r := s.load k key 8
    let l := words k (key + 8) n r.2
    (BitVec.ofNat 64 r.1 :: l.1, l.2)

/-- The own window holds `n` bytes at offset `a`, aligned to `al`. -/
def inWindow (x : Ctx) (a al n : Nat) : Bool := a % al == 0 && decide (a + n ≤ x.st.decl.wsize)

/-- The key of a window offset. -/
def windowAt (x : Ctx) (a : Nat) : Nat := spadKey (unitOf x.k) (x.st.decl.wbase + a)

/-- The stages of a lane configuration word are each legal (Table 7-3), and bit 63 is 0. -/
def laneConfigOk (a : Word) : Bool := !a.getLsbD 63 && (List.range 6).all fun i => !stageBad (a.toNat / 2 ^ (10 * i) % 2 ^ 10)

/-- R199, R200, R202, R203: a configuration word is stored; a run with a legal descriptor joins a queue of at most four and its ticket is the
result; LWAIT ends when the ticket has completed; LSTAT reads, and may clear the flags of its word. -/
def laneInstructions : Instr → Option Effect
  | .lcfg _ n _ => some fun x g s =>
    if laneConfigOk g.av then
      both (s.modUnit (unitOf x.k) fun u => { u with lane := { u.lane with lc := listSet u.lane.lc n.toNat g.av } }) (some 0)
    else none
  | .lrun _ n _ sf fi fo rm => some fun x g s =>
    let p := (s.unit (unitOf x.k)).lane
    let c := p.lc.getD n.toNat 0
    let d := words x.k (windowAt x g.av.toNat) 8 s
    if inWindow x g.av.toNat 64 64 = false ∨ s.mem.poison ≠ [] ∨ descBad d.1 c.toNat x.st.decl.chans ≠ none ∨
        streamBad (descBeats d.1) x.st.decl.wsize (descStreams d.1 c.toNat) ≠ none ∨ 4 ≤ p.queue.length then none
    else
      let run : LaneRun :=
        { ticket := (p.runseq + 1).toNat, stroke := x.k, serial := x.ins.serial, round := s.rounds.issued, desc := d.1, config := c, bn := if usesPerm c.toNat then p.bn else [],
          modifier := rm.toNat + 4 * sf.toNat + 8 * fi.toNat + 16 * fo.toNat, wbase := x.st.decl.wbase, wsize := x.st.decl.wsize,
          upto := s.mem.order, bnd := x.st.bnd }
      both (d.2.modUnit (unitOf x.k) fun u => { u with lane := { u.lane with runseq := p.runseq + 1, queue := u.lane.queue ++ [run] } })
        (some (p.runseq + 1))
  | .lwait _ _ y => some fun x g s =>
    if g.av.toNat ≤ (s.unit (unitOf x.k)).lane.completed.toNat then both s (some g.av)
    else if y = 1 then both s none
    else none
  | .lstat _ _ c e => some fun x g s =>
    let p := (s.unit (unitOf x.k)).lane
    let v : Word := match e.toNat with
      | 0 => p.lflags0
      | 1 => p.lflags1
      | 2 => p.completed
      | _ => BitVec.ofNat 64 p.queue.length
    let p' := if e = 0 then { p with lflags0 := p.lflags0 &&& ~~~g.av } else { p with lflags1 := p.lflags1 &&& ~~~g.av }
    both (if c = 0 then s else s.modUnit (unitOf x.k) fun u => { u with lane := if e.toNat < 2 then p' else u.lane }) (some v)
  | _ => none

/-- R216, R220, R222: MDA, MDB and RTSET store a legal pair of words; MSTAT reads, and may clear flags. -/
def matrixSettings : Instr → Option Effect
  | .mda _ n _ => some fun x g s =>
    if operandBad g.av.toNat g.bv.toNat ≠ none then none
    else both (s.modUnit (unitOf x.k) fun u => { u with matrix := { u.matrix with ma := listSet u.matrix.ma n.toNat (g.av, g.bv) } }) (some 0)
  | .mdb _ n _ => some fun x g s =>
    if operandBad g.av.toNat g.bv.toNat ≠ none then none
    else both (s.modUnit (unitOf x.k) fun u => { u with matrix := { u.matrix with mb := listSet u.matrix.mb n.toNat (g.av, g.bv) } }) (some 0)
  | .rtset _ r _ => some fun x g s =>
    if routeBad g.av.toNat g.bv.toNat ≠ none then none
    else both (s.modUnit (unitOf x.k) fun u => { u with matrix := { u.matrix with rt := listSet u.matrix.rt r.toNat (g.av, g.bv) } }) (some 0)
  | .mstat _ _ c e => some fun x g s =>
    let m := (s.unit (unitOf x.k)).matrix
    let v : Word := match e.toNat with
      | 0 => m.mflags.setWidth 64
      | 1 => m.mdone
      | 2 => BitVec.ofNat 64 m.queue.length
      | _ => m.mseq
    both (if c = 1 ∧ e = 0 then
        s.modUnit (unitOf x.k) fun u => { u with matrix := { u.matrix with mflags := m.mflags &&& ~~~(g.av.setWidth 5) } }
      else s) (some v)
  | _ => none

/-- R211, R212: a matrix instruction enters a queue of at most sixteen with the next ticket, and owes that ticket, once no stroke of a lower region of the
unit holds one that is to enter first; an engine that has been idle waits for a step of its own (R425). -/
def queued (op : MatrixOp) (x : Ctx) (s : State) : Option State :=
  let m := (s.unit (unitOf x.k)).matrix
  if 16 ≤ m.queue.length ∨ s.lowerWaits x then none
  else
    let e : MatrixEntry :=
      { ticket := (m.mseq + 1).toNat, stroke := x.k, serial := x.ins.serial, slot := x.n, wbase := x.st.decl.wbase, wsize := x.st.decl.wsize,
        upto := s.mem.order, bnd := x.st.bnd, round := s.rounds.issued, op }
    some ((s.slewAlone (unitOf x.k)).modUnit (unitOf x.k) fun u => { u with matrix := { u.matrix with mseq := u.matrix.mseq + 1, queue := u.matrix.queue ++ [e] } })

/-- R217–R222, R343: what each matrix instruction captures as it enters the queue, for operands that pass its checks. -/
def matrixInstructions : Instr → Option Owed
  | .mma _ j i _ sf => some fun x g s =>
    let m := (s.unit (unitOf x.k)).matrix
    let a := m.ma.getD i.toNat (0, 0)
    let b := m.mb.getD j.toNat (0, 0)
    let da : Desc := ⟨a.1.toNat, a.2.toNat⟩
    let db : Desc := ⟨b.1.toNat, b.2.toNat⟩
    let steps := g.av.toNat / 2 ^ 4 % 2 ^ 7 + 1
    if 2 ^ 12 ≤ g.av.toNat ∨ pairOk da.fmt db.fmt = false ∨ da.pastEnd steps ∨ db.pastEnd steps ∨
        da.lowestOut steps x.st.decl.wsize ≠ none ∨ db.lowestOut steps x.st.decl.wsize ≠ none then none
    else queued (.mma a.1 a.2 b.1 b.2 g.av (sf == 1)) x s
  | .kld _ k _ => some fun x g s => if inWindow x g.av.toNat 16 4096 then queued (.kld k.toNat g.av.toNat) x s else none
  | .accz _ _ => some fun x g s => if g.av.toNat < 65536 then queued (.accz g.av.toNat) x s else none
  | .accrd _ _ => some fun x g s => if tileRows x g then queued (.accrd g.av g.bv.toNat) x s else none
  | .accwr _ _ => some fun x g s => if tileRows x g then queued (.accwr g.av g.bv.toNat) x s else none
  | .drain _ _ => some fun x g s =>
    let rt := (s.unit (unitOf x.k)).matrix.rt.getD (g.bv.toNat % 16) (0, 0)
    let off := g.bv.toNat / 2 ^ 32
    let n := rt.2.toNat / 2 ^ 42 % 2 ^ 6 * (rt.2.toNat % 2 ^ 16) + rowBytes (rt.2.toNat / 2 ^ 32 % 16)
    let o := rt.1.toNat % 2 ^ 21 + off
    if 16 ≤ g.av.toNat ∨ 2 ^ 53 ≤ g.bv.toNat ∨ g.bv.toNat % 2 ^ 32 ≥ 16 ∨ off % 16 ≠ 0 ∨ rt.2.getLsbD 63 = false then none
    else if nibSelf rt.1.toNat then
      if o + n ≤ x.st.decl.wsize then queued (.drain g.av rt.1 rt.2 (BitVec.ofNat 64 (windowAt x o))) x s else none
    else if o + n ≤ 0x180000 ∧ s.nibInPart rt.1.toNat x.st.decl.part then
      queued (.drain g.av rt.1 rt.2 (BitVec.ofNat 64 (spadKey (nibUnit rt.1.toNat) o))) x s
    else none
  | .tmload _ _ => some fun x g s =>
    let b := words x.k (windowAt x g.av.toNat) 5 s
    if inWindow x g.av.toNat 8 40 = false ∨ s.mem.poison ≠ [] ∨ maskBad b.1 ≠ none then none else queued (.tmload b.1) x b.2
  | _ => none
where
  tileRows (x : Ctx) (g : Args) : Bool :=
    let pitch := g.av.toNat / 2 ^ 16
    decide (g.av.toNat < 2 ^ 32 ∧ g.av.toNat / 16 % 2 ^ 12 = 0 ∧ pitch % 16 = 0 ∧ 256 ≤ pitch) &&
      inWindow x g.bv.toNat 16 (63 * pitch + 256)

/-! ## Channels, chains, wash groups (R145–R184, R255–R274) -/

/-- R179, R181: HSET binds an entry with its priority and mask; HMASK masks or unmasks the named channels and gives the old mask of each;
HCLR removes an entry that is not the stroke's last; INRD takes the oldest word of a round that the region has reached. -/
def handlerInstructions : Instr → Option Effect
  | .hset _ _ => some fun x g s =>
    if 65536 ≤ g.bv.toNat ∨ g.bv.toNat / 2 ^ 6 % 2 ^ 6 ≠ 0 ∨ x.st.decl.chans ≤ g.bv.toNat % 2 ^ 6 ∨ g.av.toNat % 4 ≠ 0 then none
    else
      let c := x.st.decl.chbase + g.bv.toNat % 2 ^ 6
      let e : HandlerEntry :=
        { stroke := x.k, entry := (x.st.regs.pc &&& ~~~(0xFFFFFFFFFFFFFFFF : BitVec 80)) ||| g.av.setWidth 80,
          prio := g.bv.toNat / 2 ^ 12 % 2 ^ 3, masked := g.bv.getLsbD 15 }
      both (s.modUnit (unitOf x.k) fun u => { u with handlers := tabPut u.handlers c e, reported := tabDel u.reported c }) (some 0)
  | .hmask _ _ m => some fun x g s =>
    let d := x.st.decl
    let u := s.unit (unitOf x.k)
    if 2 ^ d.chans ≤ g.av.toNat then none
    else
      let old := ((List.range d.chans).map fun c =>
        if g.av.getLsbD c && (tabFind u.handlers (d.chbase + c)).any (·.masked) then 2 ^ c else 0).foldr (· + ·) 0
      both (s.modUnit (unitOf x.k) fun u =>
        { u with handlers := u.handlers.map fun e =>
            if decide (d.chbase ≤ e.1 ∧ e.1 < d.chbase + d.chans) && g.av.getLsbD (e.1 - d.chbase) then (e.1, { e.2 with masked := m == 1 })
            else e })
        (some (BitVec.ofNat 64 old))
  | .hclr _ _ d => some fun x g s =>
    let c := x.st.decl.chbase + g.av.toNat % 2 ^ 6
    let u := unitOf x.k
    let mine := (s.unit u).handlers.filter (·.2.stroke == x.k)
    if x.st.decl.chans ≤ g.av.toNat % 2 ^ 6 ∨ (mine.length = 1 ∧ mine.any (·.1 == c)) then none
    else if d = 1 ∨ (s.unit u).inbox c = [] then
      both (s.modUnit u fun y =>
        if d = 1 then { y with handlers := tabDel y.handlers c, inboxes := tabDel y.inboxes c, reported := tabDel y.reported c }
        else { y with handlers := tabDel y.handlers c }) (some 0)
    else both ((s.modUnit u fun y => { y with handlers := tabDel y.handlers c }).reportUnbound (u * 64 + c)) (some 0)
  | .inrd _ _ cur y => some fun x g s =>
    let ch := if cur = 1 then x.st.regs.curch else g.av.toNat % 2 ^ 6
    let c := x.st.decl.chbase + ch
    if x.st.decl.chans ≤ ch then none
    else
      match (s.unit (unitOf x.k)).inbox c with
      | w :: rest =>
        if w.round ≤ s.edgeOf x.k x.st then both (s.modUnit (unitOf x.k) fun u => (u.setInbox c rest).emptied c) (some w.word)
        else if y = 1 then both s none
        else none
      | [] => if y = 1 then both s none else none
  | _ => none

/-- R163, R180: CHSEND sends one word to a reachable place, CHMCAST one word to up to 64 places; both owe their result until every word is in
its inbox. -/
def sendInstructions : Instr → Option Owed
  | .chsend _ _ => some fun x g s =>
    (s.reach x.st.decl.part g.av.toNat).map fun gate =>
      (s.strokeBeat x.k 1).modNet fun q => { q with words := q.words ++
        [{ sender := .chsend x.k x.ins.serial x.n x.me.done, place := placeOfWord g.av.toNat, word := g.bv, round := s.rounds.issued,
           module := g.av.toNat / 2 ^ 24 % 2 ^ 8, gate }] }
  | .chmcast _ _ => some fun x g s =>
    let n := s.load x.k (windowAt x g.bv.toNat) 8
    let ps := words x.k (windowAt x g.bv.toNat + 8) n.1 n.2
    if n.1 = 0 ∨ 64 < n.1 ∨ inWindow x g.bv.toNat 8 (8 * (n.1 + 1)) = false ∨ s.mem.poison ≠ [] ∨ n.2.mem.poison ≠ [] ∨
        (ps.1.any fun w => (ps.2.reach x.st.decl.part w.toNat).isNone) then none
    else
      some ((ps.2.strokeBeat x.k 1).modNet fun q =>
        { q with nextId := q.nextId + 1,
                 mcasts := q.mcasts ++ [{ id := q.nextId, stroke := x.k, serial := x.ins.serial, slot := x.n, iter := x.me.done, word := g.av, places := ps.1,
                                          gates := ps.1.map fun w => (ps.2.reach x.st.decl.part w.toNat).getD none,
                                          round := ps.2.rounds.issued, part := x.st.decl.part, left := n.1 }] })
  | _ => none

/-- R183, R184: CHAPP counts the entry and makes it the chain's tail; SEQRD reads a sequence word; SEQWAIT gives 1 when the word has
reached its value, and otherwise 0 with a watcher armed. -/
def chainInstructions : Instr → Option Effect
  | .chapp _ _ => some fun x g s =>
    match chainOf g.bv.toNat x.st.decl.job with
    | none => none
    | some c =>
      match tabFind s.eng.chains c with
      | none => none
      | some y =>
        if y.job ≠ x.st.decl.job ∨ g.av.toNat % 64 ≠ 0 then none
        else
          both (s.append c y g.av.toNat (x.st.region false) (unitPriv (unitOf x.k)) x.k) (some (BitVec.ofNat 64 (y.appended + 1)))
  | .seqrd _ _ => some fun x g s =>
    match s.locateVa x.k x.stale false g.av.toNat 1 with
    | (.mem p, s1) =>
      if g.av.toNat % 8 ≠ 0 ∨ s1.mem.poison ≠ [] then none
      else both (s1.request p.key .read 8 []) (some (BitVec.ofNat 64 (ofBytes (s1.mem.bytes p.key 8))))
    | _ => none
  | .seqwait _ _ c => some fun x g s =>
    match s.locateVa x.k x.stale false g.av.toNat 1 with
    | (.mem p, s1) =>
      if g.av.toNat % 8 ≠ 0 ∨ x.st.decl.chans ≤ c.toNat ∨ s1.mem.poison ≠ [] then none
      else if g.bv.toNat ≤ ofBytes (s1.mem.bytes p.key 8) then both (s1.request p.key .read 8 []) (some 1)
      else
        let slab := slabOf (unitOf x.k)
        let full := decide (4096 ≤ (s1.eng.watchers.filter fun w => w.slab == slab && !w.overflow).length)
        both ((s1.request p.key .read 8 []).modEng fun e => { e with watchers := e.watchers ++
          [{ stroke := x.k, place := unitOf x.k * 64 + x.st.decl.chbase + c.toNat, key := some p.key, slab, value := g.bv, overflow := full }] })
          (some 0)
    | _ => none
  | _ => none

/-- The group and partition that a group word names: bits 7:0 and 23:16, the others 0. -/
def groupOf (a : Word) : Option (Nat × Nat) :=
  if a.toNat / 2 ^ 24 ≠ 0 ∨ a.toNat / 2 ^ 8 % 2 ^ 8 ≠ 0 then none else some (a.toNat % 2 ^ 8, a.toNat / 2 ^ 16)

/-- A wash as it fires (R267, R269, R270): the members it is to read are those present, their holds standing, each followed by the stroke that owns it. -/
def washOf (s : State) (d : WashGroup) (wide pt : Bool) (ty op : BitVec 2) (x : Ctx) (g : Args) : Wash :=
  { loader := x.k, serial := x.ins.serial, slot := x.n, num := x.st.run.washes, group := g.av.toNat % 2 ^ 8, wide, op := op.toNat,
    ty := ty.toNat, pt, k := (g.av >>> 32).setWidth 32, soff := g.av.toNat / 2 ^ 8 % 2 ^ 21, dst := g.bv.toNat, members := d.members,
    present := d.present, left := (List.range d.members.length).filter fun i => d.present.getLsbD i, leaves := [],
    owners := d.members.map fun m => (s.boundAt (placeOfWord m.toNat)).getD noStroke, bnd := x.st.bnd }

/-- A wash of `n` bytes whose argument word passes R270, when a wash slot of the nib is free and no earlier WLDS of the stroke waits for one: the stroke counts it,
a request to each member leaves its port (R405), and it is outstanding; one without a member present completes. -/
def washIssued (wide pt : Bool) (ty op : BitVec 2) (x : Ctx) (g : Args) (s : State) : Option State :=
  let n := (if wide then 16 else 2) * (if ty = 1 then 2 else 4)
  let soff := g.av.toNat / 2 ^ 8 % 2 ^ 21
  match tabFind s.svc.groups (g.av.toNat % 2 ^ 8) with
  | none => none
  | some d =>
    let w := washOf s d wide pt ty op x g
    if d.part ≠ x.st.decl.part ∨ g.av.toNat / 2 ^ 29 % 2 ^ 3 ≠ 0 ∨ soff % n ≠ 0 ∨ 0x180000 < soff + n ∨
        (wide && !inWindow x g.bv.toNat 64 64) ∨ x.st.run.waiting ≠ [] ∨ 16 ≤ (s.svc.washes.filter fun v => unitOf v.loader == unitOf x.k).length then none
    else
      let s' := ((s.modRun x.k fun r => { r with washes := r.washes + 1 }).strokeBeat x.k w.left.length).modSvc fun v =>
        { v with washes := v.washes ++ [w] }
      some (if w.left = [] then s'.endWash s.svc.washes.length w else s')

/-- R256, R257, R270, R273: WGRP.def with a legal record defines a group with marks of 0; WGRP.present replaces its mask; WGRP.rel releases a
group without an outstanding wash; WLD issues a wash; WSTAT reads, and may clear, the status. -/
def washInstructions : Instr → Option Effect
  | .wgrpDef _ _ => some fun x g s =>
    match groupOf g.av with
    | none => none
    | some (grp, part) =>
      let l := words x.k (windowAt x g.bv.toNat) 2 s
      let n := (l.1.getD 0 0).toNat % 2 ^ 7
      let ms := words x.k (windowAt x g.bv.toNat + 16) n l.2
      if inWindow x g.bv.toNat 8 (8 * (n + 2)) = false ∨ s.mem.poison ≠ [] ∨ l.2.mem.poison ≠ [] ∨
          ms.2.recordBad part (l.1.getD 0 0).toNat (l.1.getD 1 0).toNat ms.1 ≠ none ∨ ms.2.svc.washes.any (·.group == grp) then none
      else
        let d : WashGroup := { part, members := ms.1, present := l.1.getD 1 0, marks := List.replicate n 0 }
        both (ms.2.modSvc fun v => { v with groups := tabPut v.groups grp d }) (some 0)
  | .wgrpPresent _ _ => some fun _ g s => owned g s fun grp d =>
    if 2 ^ d.members.length ≤ g.bv.toNat then none
    else both (s.modSvc fun v => { v with groups := tabPut v.groups grp { d with present := g.bv } }) (some 0)
  | .wgrpRel _ _ => some fun _ g s => owned g s fun grp _ =>
    if s.svc.washes.any (·.group == grp) then none
    else both (s.modSvc fun v => { v with groups := tabDel v.groups grp }) (some 0)
  | .wld _ _ pt ty op => some fun x g s => (washIssued true (pt == 1) ty op x g s).bind fun s' => both s' (some 0)
  | .wstat _ _ c => some fun x _ s =>
    both (if c = 1 then s.modRegs x.k fun r => { r with wstat := 0 } else s) (some x.st.regs.wstat)
  | _ => none
where
  owned (g : Args) (s : State) (f : Nat → WashGroup → Option (State × Option Token × Option Token)) :
      Option (State × Option Token × Option Token) :=
    match groupOf g.av with
    | none => none
    | some (grp, part) =>
      match tabFind s.svc.groups grp with
      | none => none
      | some d => if d.part = part then f grp d else none

/-- R271: WLDS issues a wash of two lanes and owes their values. -/
def washToToken : Instr → Option Owed := fun i =>
  match i with
    | .wlds _ _ ty op => some fun x g s => washIssued false false ty op x g s
    | _ => none

/-! ## Copybook objects (R277–R300) -/

/-- The object that the stroke's partition defines under number `o`. -/
def ownObject (x : Ctx) (o : Nat) (s : State) : Option CbObject :=
  match tabFind s.svc.book.objects o with
  | some y => if y.part = x.st.decl.part then some y else none
  | none => none

/-- A call word names an object of the stroke's partition and one of its methods, read-only or not. -/
def calleeOf (ro : Bool) (x : Ctx) (a : Word) (s : State) : Option (CbObject × CbMethod) :=
  if 2 ^ 15 ≤ a.toNat then none
  else
    match ownObject x (a.toNat % 2 ^ 10) s with
    | none => none
    | some o =>
      match o.methods[a.toNat / 2 ^ 10]? with
      | some m => if m.ro = ro then some (o, m) else none
      | none => none

/-- The six argument words of a call: the record's, as many as the method takes, and zeros. -/
def callArgs (x : Ctx) (b n : Nat) (s : State) : List Word × State :=
  let l := words x.k (windowAt x b + 16) n s
  (l.1 ++ List.replicate (6 - n) 0, l.2)

/-- R278, R294, R297–R300: CPDEF with a legal record defines an object whose copies on the twelve slabs are its initial image, or zero without one; CPDEF.rel
releases one that is idle; CPTRIM raises TRIM; CPWAIT answers 1 or arms a watcher; CPSTAT, CPARG and CPRET read and write what they name. -/
def copybookInstructions : Instr → Option Effect
  | .cpdef _ _ => some fun x g s =>
    let o := g.av.toNat % 2 ^ 10
    let n := (s.load x.k (windowAt x g.bv.toNat) 8).1 / 2 ^ 16 % 2 ^ 6
    let ws := words x.k (windowAt x g.bv.toNat) (2 * (n + 1)) s
    let y := objectOf (g.av.toNat / 2 ^ 16) ws.1
    if 2 ^ 24 ≤ g.av.toNat ∨ g.av.toNat / 2 ^ 10 % 2 ^ 6 ≠ 0 ∨ tabFind s.svc.book.objects o ≠ none ∨
        inWindow x g.bv.toNat 16 (16 * (n + 1)) = false ∨ s.mem.poison ≠ [] ∨ firstBadWord ws.1 0 ≠ none ∨
        ws.2.logBytes y.hslab y.hwell + y.cap * 64 > ws.2.csrGet 0x42 y.hslab y.hwell / 2 ^ 8 % 2 ^ 7 * 65536 then none
    else
      let init := (ws.1.getD 1 0).toNat
      let image := if init = 0 then .ok [] else
        ws.2.engBytes y.part 1 y.region (engineReader (slabOf (unitOf x.k)) x.k ws.2.mem.order) init (y.statesz * 4096)
      match image with
      | .ok bytes => both ((ws.2.modMem fun m => (span 0 12).foldl (fun m slab => m.setCopy slab o bytes) m).setObject o y) (some 0)
      | _ => none
  | .cpdefRel _ _ => some fun _ g s =>
    let o := g.av.toNat % 2 ^ 10
    match tabFind s.svc.book.objects o with
    | none => none
    | some y =>
      if 2 ^ 24 ≤ g.av.toNat ∨ g.av.toNat / 2 ^ 10 % 2 ^ 6 ≠ 0 ∨ y.part ≠ g.av.toNat / 2 ^ 16 ∨ y.minApplied < y.next - 1 ∨ s.objectWaits o then none
      else both (s.modBook fun b => { b with objects := tabDel b.objects o }) (some 0)
  | .cptrim _ _ => some fun x g s =>
    match ownObject x (g.av.toNat % 2 ^ 10) s with
    | none => none
    | some o =>
      let n := max o.trim (min g.bv.toNat (min o.next (1 + o.minApplied)))
      both (s.setObject (g.av.toNat % 2 ^ 10)
        { o with trim := n, log := o.log.filter fun e => decide (n ≤ e.1), results := o.results.filter fun e => decide (n ≤ e.1) })
        (some (BitVec.ofNat 64 n))
  | .cpwait _ _ c => some fun x g s =>
    let obj := g.av.toNat % 2 ^ 10
    let slab := slabOf (unitOf x.k)
    match ownObject x obj s with
    | none => none
    | some o =>
      if x.st.decl.chans ≤ c.toNat ∨ o.damaged.contains slab then none
      else if g.bv.toNat ≤ o.applied.getD slab 0 then both s (some 1)
      else
        both (s.arm { stroke := x.k, place := unitOf x.k * 64 + x.st.decl.chbase + c.toNat, key := none, obj, slab, value := g.bv }) (some 0)
  | .cpstat _ _ e => some fun x g s =>
    if e = 0 then both s (some x.st.regs.cpstat)
    else if e = 1 then both s (some x.st.regs.cplast)
    else if isScribe (unitOf x.k) then
      (tabFind s.svc.book.runs (unitOf x.k)).bind fun r => both s (some (BitVec.ofNat 64 (if r.ro then r.index else r.index - 1)))
    else
      (ownObject x (g.av.toNat % 2 ^ 10) s).bind fun o =>
        both s (some (BitVec.ofNat 64 (if e = 2 then o.applied.getD (slabOf (unitOf x.k)) 0 else if e = 3 then o.next - 1
          else if e = 4 then o.trim else o.minApplied)))
  | .cparg _ _ e => some fun x _ s =>
    (tabFind s.svc.book.runs (unitOf x.k)).bind fun r =>
      both s (some (if e = 6 then r.entry.getD 0 0 else if e = 7 then r.entry.getD 1 0 else r.entry.getD (2 + e.toNat) 0))
  | .cpret _ _ => some fun x g s =>
    (tabFind s.svc.book.runs (unitOf x.k)).bind fun r =>
      if r.retAt ≤ programOrder x then
        both (s.modBook fun b => { b with runs := tabPut b.runs (unitOf x.k) { r with result := g.av, retAt := programOrder x } }) (some 0)
      else none
  | _ => none

/-- R281, R295: CPCALL sends its call, with the caller's place and its arguments, to the object's home, and keeps its tokens. -/
def copybookCalls : Instr → Option Owed := fun i =>
  match i with
    | .cpcall _ _ nw r => some fun x g s =>
      match calleeOf false x g.av s with
      | none => none
      | some (_, m) =>
        let l := callArgs x g.bv.toNat m.args s
        if (nw = 1 ∧ x.st.decl.chans ≤ r.toNat) ∨ inWindow x g.bv.toNat 16 64 = false ∨ s.mem.poison ≠ [] then none
        else
          let c : CbCall :=
            { stroke := x.k, serial := x.ins.serial, slot := x.n, obj := g.av.toNat % 2 ^ 10, method := g.av.toNat / 2 ^ 10, nw := nw == 1,
              rch := r.toNat, args := l.1, place := BitVec.ofNat 64 (callerPlace x) }
          some (l.2.modBook fun b => { b with calls := b.calls ++ [c] })
    | _ => none

/-- R286, R296: CPREAD on a slab that has applied what it KNOWS, and runs no method that changes the copy, starts the method in a free context; KNOWN
and the arguments are those it read as it first fired. -/
def copybookReads : Instr → Option Owed
  | .cpread _ _ => some fun x g s =>
    let slab := slabOf (unitOf x.k)
    let obj := g.av.toNat % 2 ^ 10
    let mine : CbRead → Bool := fun c => c.stroke == x.k && c.serial == x.ins.serial && c.slot == x.n
    match calleeOf true x g.av s with
    | none => none
    | some (o, m) =>
      let known := s.load x.k (windowAt x g.bv.toNat) 8
      let args := callArgs x g.bv.toNat m.args known.2
      let read : Option (Nat × List Word × State) := match s.svc.book.reads.find? mine with
        | some c => some (c.known, c.args, s)
        | none => if inWindow x g.bv.toNat 16 64 = false ∨ s.mem.poison ≠ [] then none else some (known.1, args.1, args.2)
      match read with
      | none => none
      | some (known, args, s1) =>
        let now := o.applied.getD slab 0
        if now < known ∨ o.damaged.contains slab ∨ !((s1.runsOf slab obj).all (·.2.ro)) then none
        else
          (s1.freeContext slab).map fun u =>
            (s1.modBook fun b => { b with reads := s1.svc.book.reads.filter (!mine ·) }).startMethod u o
              { obj, method := g.av.toNat / 2 ^ 10, ro := true, index := now,
                entry := [0, BitVec.ofNat 64 (g.av.toNat / 2 ^ 10 * 2 ^ 32 + callerPlace x)] ++ args, reader := some (x.k, x.ins.serial, x.n) }
  | _ => none

/-! ## Layer pipeline (R302–R321) -/

/-- The record at an address on which an action may begin: aligned, on a page of format none, with an owner, with no action begun on it and none of the
stroke's that goes before (R306, R307). -/
def recordOf (x : Ctx) (a : Word) (s : State) : Option (Nat × State) :=
  match checkRecord x a s with
  | .ok r s1 => if s1.mayActOn x r then some (r, s1) else none
  | .bad _ => none

/-- An action that launches q with value v begins at the owner (R308). Without a squash it launches at once; with one, it waits until every
member nib has absorbed the squash. -/
def begun (x : Ctx) (r q v code : Nat) (squash : Bool) (s : State) : Option State :=
  if s.notLaunchable r q ≠ none then none
  else
    let members := if squash then s.memberWords r else []
    let a : PipeAct :=
      { id := s.net.nextId, stroke := x.k, serial := x.ins.serial, slot := x.n, record := r,
        result := BitVec.ofNat 64 (s.nextLseq r * 2 ^ 32 + code), squash := if squash then some (q, s.nextLseq r, s.lowPos r) else none,
        members, launch := (q, v), iter := x.me.done, todo := none, toSend := members.filter fun w => recordModule r w.toNat != 0xFF }
    let s := { s with net := { s.net with nextId := s.net.nextId + 1 }, svc := { s.svc with acts := s.svc.acts ++ [a] } }
    some (if squash = false then s.launchToken a else if members = [] then s.squashed a q else s)

/-- What a GUESS and a LAUNCH ask of the owner of a record, when their operands are legal: the tag is GENTAG, position in bits 31:0, LSEQ in bits
63:32. -/
def asked (i : Instr) (x : Ctx) (g : Args) : Option PipeOp :=
  match i with
  | .guess _ _ =>
    let l := x.ins.start.gentag.toNat / 2 ^ 32
    if 2 ^ 32 ≤ g.bv.toNat ∨ l = 0 then none else some (.guess (x.ins.start.gentag.toNat % 2 ^ 32) l g.bv.toNat)
  | .launch _ _ => some (.launch (g.bv.toNat / 2 ^ 32) (g.bv.toNat % 2 ^ 32))
  | _ => none

/-- R307: a GUESS or a LAUNCH that may not begin yet stands among the actions that have fired, and its slot keeps its tokens. -/
def pipelineWaits : Instr → Option Owed := fun i =>
  match i with
  | .guess _ _ => some (waits i)
  | .launch _ _ => some (waits i)
  | _ => none
where
  waits (i : Instr) : Owed := fun x g s =>
    match asked i x g, checkRecord x g.av s with
    | some op, .ok r s1 =>
      if s1.mayActOn x r then none
      else
        let a : PipeAct :=
          { id := s1.net.nextId, stroke := x.k, serial := x.ins.serial, slot := x.n, record := r, result := 0, squash := none, members := [],
            launch := (0, 0), iter := x.me.done, todo := some op }
        some { s1 with net := { s1.net with nextId := s1.net.nextId + 1 }, svc := { s1.svc with acts := s1.svc.acts ++ [a] } }
    | _, _ => none

/-- R308, R309, R314–R316: GUESS (result 0 for a stale tag, 2 for a standing equal guess, 1 or 3 with a launch), LAUNCH, the SQREG modes, and
an SQCHK that retires. The tag is GENTAG: position in bits 31:0, LSEQ in bits 63:32. -/
def pipelineActions : Instr → Option Owed
  | .guess _ _ => some fun x g s =>
    let p := x.ins.start.gentag.toNat % 2 ^ 32
    let l := x.ins.start.gentag.toNat / 2 ^ 32
    if 2 ^ 32 ≤ g.bv.toNat ∨ l = 0 then none
    else
      match recordOf x g.av s with
      | none => none
      | some (r, s1) =>
        let e := s1.ring r p
        let f := s1.ring r (p + 1)
        if e.valid = false ∨ e.pos ≠ p ∨ e.lseq ≠ l then some (s1.pushReply x.k x.ins.serial x.n (some 0))
        else if f.valid ∧ f.pos = p + 1 ∧ f.value = g.bv.toNat then
          some (s1.pushReply x.k x.ins.serial x.n (some (BitVec.ofNat 64 (f.lseq * 2 ^ 32 + 2))))
        else if f.valid ∧ f.pos = p + 1 then begun x r (p + 1) g.bv.toNat 3 true s1
        else begun x r (p + 1) g.bv.toNat 1 false s1
  | .launch _ _ => some fun x g s =>
    match recordOf x g.av s with
    | none => none
    | some (r, s1) =>
      if g.bv.toNat / 2 ^ 32 < s1.endPos r then none else begun x r (g.bv.toNat / 2 ^ 32) (g.bv.toNat % 2 ^ 32) 1 false s1
  | .sqregChan _ _ => some fun x g s =>
    if g.bv = 0 ∨ 2 ^ x.st.decl.chans ≤ g.bv.toNat then none
    else
      let chans := (span 0 x.st.decl.chans).filter fun c => g.bv.getLsbD c
      joins x g s (fun r p => { p with tokens := chans.foldl (fun t c => tabPut t (x.st.decl.chbase + c) (x.k, r)) p.tokens }) id
  | .sqregRows _ _ => some fun x g s =>
    let nreg := g.bv.toNat / 2 ^ 40 + 1
    let rgran := g.bv.toNat / 2 ^ 32 % 2 ^ 8
    let nrows := g.bv.toNat / 2 ^ 24 % 2 ^ 8 + 1
    let off := g.bv.toNat % 2 ^ 24
    let size := nrows * (rgran + 1) * 16
    let base := x.st.decl.wbase + off
    let regions := (s.unit (unitOf x.k)).pipe.regions
    let free := freeOf regions
    if 2 ^ 42 ≤ g.bv.toNat ∨ rgran = 0 ∨ 64 ≤ rgran ∨ 2 ^ 21 ≤ off ∨ off % 16 ≠ 0 ∨ off + nreg * size > x.st.decl.wsize ∨ free.length < nreg ∨
        (regions.any fun e => decide (base < e.2.offset + e.2.bytes ∧ e.2.offset < base + nreg * size)) then none
    else
      let mine := free.take nreg
      joins x g s (fun r p =>
        { p with regions := (mine.zip (span 0 nreg)).foldl (fun t e =>
            tabPut t e.1 { record := r, stroke := x.k, offset := base + e.2 * size, rgran, nrows }) p.regions })
        (fun _ => mine.headD 0)
  | .sqregRel _ _ => some fun x g s =>
    if (recordOf x g.av s).any fun r => (r.2.unit (unitOf x.k)).holds x.k r.1 then
      joins x g s (fun r p => p.release (fun e => e.stroke == x.k && e.record == r) (· == (x.k, r))) (fun _ => 0)
    else none
  | .sqchk _ _ r n => some fun x g s =>
    let u := s.unit (unitOf x.k)
    let p := g.av.toNat % 2 ^ 32
    let l := g.av.toNat / 2 ^ 32
    match tabFind u.pipe.slots n.toNat with
    | none => none
    | some k =>
      let alive := l ≠ 0 ∧ k.floor p ≤ l
      if u.holds x.k k.record = false ∨ !(r = 2 ∨ (r = 1 ∧ ¬alive)) ∨ x.earlierDone isPipe = false ∨ x.earlierDone isKvwr = false ∨
          s.mayActOn x k.record = false then none
      else some ((s.retire k.record p).pushReply x.k x.ins.serial x.n (some (if alive then 1 else 0)))
  | _ => none
where
  /-- The unit takes a slot for the record, and its owner counts it among the members. -/
  joins (x : Ctx) (g : Args) (s : State) (op : Nat → PipeUnit → PipeUnit) (result : Nat → Nat) : Option State :=
    match recordOf x g.av s with
    | none => none
    | some (r, s1) =>
      let u := unitOf x.k
      let slots := (s1.unit u).pipe.slots
      match (slots.find? (·.2.record == r)).map (·.1) <|> (freeOf slots).head?, s1.addMember r u with
      | some i, some s2 =>
        if s1.unit u ≠ s.unit u then none
        else
          let s3 := s2.modUnit u fun y =>
            { y with pipe := (op r { y.pipe with slots :=
                if (tabFind y.pipe.slots i).isSome then y.pipe.slots else tabPut y.pipe.slots i { record := r } }).tidy }
          some (s3.pushReply x.k x.ins.serial x.n (some (BitVec.ofNat 64 (result i))))
      | _, _ => none

/-- A KVWR whose tag, destination and source pass their checks (R318): the unit written to, the key of the row, the tag, the source's bytes and the
state after they are loaded, and whether the kill table and the row that stands there let the row be written (R317). -/
def rowWrite (x : Ctx) (g : Args) (s : State) : Option (Nat × Nat × List Byte × State × Bool) :=
  let p := x.ins.start.gentag.toNat % 2 ^ 32
  let l := x.ins.start.gentag.toNat / 2 ^ 32
  match s.rowAt x g.av.toNat with
  | .spad u off =>
    match (s.unit u).regionAt off with
    | none => none
    | some r =>
      let src := s.loadBytes x.k (windowAt x g.bv.toNat) (16 * r.rgran)
      let key := spadKey u off
      let h := src.2.mem.get key 8
      let floor := (((src.2.unit u).slotOf r.record).map (·.2.floor p)).getD 0
      if l = 0 ∨ off ≠ r.offset + p % r.nrows * 16 * (r.rgran + 1) ∨ inWindow x g.bv.toNat 16 (16 * r.rgran) = false ∨ s.mem.poison ≠ [] then none
      else
        some (u, key, toBytes (l * 2 ^ 32 + p) 8 ++ toBytes 0 8 ++ src.1, src.2,
          !decide (l < floor ∨ (h ≠ 0 ∧ (p < h % 2 ^ 32 ∨ (h % 2 ^ 32 = p ∧ l < h / 2 ^ 32 % 2 ^ 32)))))
  | _ => none

/-- R316–R321: TAGRD gives the tag; SQCHK that does not retire gives 1 for a live token and 0 for a killed one; SQREG.rel of a record of which the stroke
holds nothing gives 0; KVWR into the own scratchpad writes its row, header first, unless the kill table or a newer row forbids it. -/
def pipelineChecks : Instr → Option Effect
  | .tagrd _ _ => some fun x _ s => both s (some x.ins.start.gentag)
  | .sqchk _ _ r n => some fun x g s =>
    let u := s.unit (unitOf x.k)
    let l := g.av.toNat / 2 ^ 32
    match tabFind u.pipe.slots n.toNat with
    | none => none
    | some k =>
      let alive := l ≠ 0 ∧ k.floor (g.av.toNat % 2 ^ 32) ≤ l
      if u.holds x.k k.record = false ∨ !(r = 0 ∨ (r = 1 ∧ alive)) then none else both s (some (if alive then 1 else 0))
  | .sqregRel _ _ => some fun x g s =>
    match checkRecord x g.av s with
    | .ok r s1 => if (s1.unit (unitOf x.k)).holds x.k r then none else both s1 (some 0)
    | .bad _ => none
  | .kvwr _ _ => some fun x g s =>
    match rowWrite x g s with
    | some (u, key, row, s1, may) =>
      if u ≠ unitOf x.k then none
      else if may = false then both s1 (some 0)
      else if s1.heldFrom x.k x.st.bnd key row.length then none
      else both (s1.modMem fun m => (m.localWrite u key row).setFulls (key / 16 * 16) true (granules key row.length)) (some 1)
    | none => none
  | _ => none

/-- R318, R121: KVWR into another nib's scratchpad owes its result; once every earlier store of the stroke has been made, out-port stores among them, the row is a committed
write, and the stroke's earlier stores to that scratchpad are visible there. -/
def rowsSent : Instr → Option Owed
  | .kvwr _ _ => some fun x g s =>
    match rowWrite x g s with
    | some (u, key, row, s1, may) =>
      if u = unitOf x.k then none
      else if may = false then some (s1.pushReply x.k x.ins.serial x.n (some 0))
      else if x.pastDone = false ∨ (x.st.run.binds.any fun e => decide (64 ≤ e.1) && e.2.sent != []) then none
      else
        let s2 := (s1.spadBeats x.k u row.length 2).commitOwn x.k (some u) key row
        let s3 := s2.modMem fun m => (m.setFulls (key / 16 * 16) true (granules key row.length)).reveal x.k (spadKey u 0) (spadKey (u + 1) 0) [u]
        some (s3.pushReply x.k x.ins.serial x.n (some 1))
    | none => none
  | _ => none

/-! ## Sampler (R329–R341) and draft trees (R342) -/

/-- A sampler action on the context that word A names, with the key of its area; no granule is damaged. -/
def inContext (f : Ctx → Args → Nat → State → Option (State × Option Token × Option Token)) : Effect := fun x g s =>
  match s.context x g.av with
  | none => none
  | some c => if s.mem.poison ≠ [] then none else f x g c s

/-- A word of an area is replaced, with a committed write. -/
def put (s : State) (c off v : Nat) : State := s.modMem fun m => m.commitWrite (c + off) (toBytes v 8)

/-- A word of an area. -/
def area (s : State) (c off : Nat) : Nat := s.mem.get (c + off) 8

/-- R333, R335–R341: the sampler's instructions on a context of the stroke's partition. Offsets of an area: word 0 holds CCOUNT (6:0) and
JCOUNT (24:16), 0x100 the random registers, 0x200 the candidates, 0x800 the journal. -/
def samplerInstructions : Instr → Option Effect
  | .candld _ _ => some fun x g s => candidate x g s fun key => both s (some (BitVec.ofNat 64 (s.mem.get key 8)))
  | .candst _ _ => some fun x g s => candidate x g s fun key =>
    both (s.modMem fun m => m.commitWrite key (toBytes g.bv.toNat 8)) (some 0)
  | .rngseed _ _ n => some (inContext fun _ g c s =>
    let q := 0x100 + 32 * n.toNat
    let h := area s c (q + 16)
    both (put (s.modMem fun m => m.commitWrite (c + q) (toBytes g.bv.toNat 8 ++ toBytes 0 8)) c (q + 16) (h - h % 2)) (some 0))
  | .rngnext _ _ n => some (inContext fun _ _ c s =>
    let q := 0x100 + 32 * n.toNat
    let z := fmix ((area s c (q + 8) + area s c q) % 2 ^ 64)
    let h := area s c (q + 16)
    if h % 2 = 0 then both (put s c (q + 16) (h + 1)) (some (BitVec.ofNat 64 (z % 2 ^ 32)))
    else both (put (put s c (q + 16) (h - 1)) c (q + 8) (area s c (q + 8) + 1)) (some (BitVec.ofNat 64 (z / 2 ^ 32))))
  | .jrnl _ _ => some (inContext fun _ g c s =>
    let n := area s c 0 / 2 ^ 16 % 2 ^ 9
    if 2 ^ 36 ≤ g.bv.toNat ∨ g.bv.toNat / 2 ^ 18 % 2 ^ 14 ≠ 0 ∨ 256 ≤ n then none
    else
      let s1 := put s c (0x800 + 8 * n) g.bv.toNat
      both (put s1 c 0 (area s1 c 0 - n * 2 ^ 16 + (n + 1) * 2 ^ 16)) (some (BitVec.ofNat 64 n)))
  | .jcommit _ _ => some (inContext fun _ g c s =>
    let entries := (s.journal c).filter (inMask g.bv.toNat)
    let toks := distinct (entries.map fun e => e % 2 ^ 18)
    let new := toks.filter fun t => !usedFor (area s c (s.probed c t)) t
    let room := (wordsAt 0x4000 2048).filter fun o => !bit (area s c o) 31
    if 2 ^ 16 ≤ g.bv.toNat ∨ (room.take new.length).length < new.length then none
    else
      both ((entries.foldl (fun s e => s.countToken c (e % 2 ^ 18)) s).keepEntries c ((s.journal c).filter fun e => !inMask g.bv.toNat e))
        (some (BitVec.ofNat 64 entries.length)))
  | .jdrop _ _ => some (inContext fun _ g c s =>
    if 2 ^ 16 ≤ g.bv.toNat then none
    else
      both (s.keepEntries c ((s.journal c).filter fun e => !inMask g.bv.toNat e))
        (some (BitVec.ofNat 64 ((s.journal c).filter (inMask g.bv.toNat)).length)))
  | .pen _ _ sf r p q => some (inContext fun x g c s =>
    let rep := fp32 (area s c 0x10 % 2 ^ 32)
    let pres := fp32 (area s c 0x10 / 2 ^ 32 % 2 ^ 32)
    let freq := fp32 (area s c 0x18 % 2 ^ 32)
    let some? (b : BitVec 1) (n : Sys2Proof.Machine.Num) : Option Sys2Proof.Machine.Num := if b = 1 then some n else none
    let cands := (wordsAt 0x200 (s.ccount c)).map fun o =>
      let w := area s c o
      let n := s.pathCount c g.bv.toNat (w / 2 ^ 32)
      (o, w, n, penalise (some? r rep) (some? p pres) (some? q freq) n (w % 2 ^ 32))
    let hit := cands.filter fun e => decide (e.2.2.1 ≠ 0)
    if 2 ^ 16 ≤ g.bv.toNat ∨ (r = 1 ∧ rep.positive = false) ∨ (p = 1 ∧ pres.isFinite = false) ∨ (q = 1 ∧ freq.isFinite = false) then none
    else
      let s1 := cands.foldl (fun s e => put s c e.1 (if e.2.2.1 = 0 then e.2.1 else e.2.1 - e.2.1 % 2 ^ 32 + e.2.2.2.1 % 2 ^ 32)) s
      both (if sf = 1 then s1 else s1.raise x.k (hit.foldl (fun f e => f ||| e.2.2.2.2) 0)) (some (BitVec.ofNat 64 hit.length)))
  | .gsnap _ _ => some (inContext fun _ g c s =>
    if 16 ≤ g.bv.toNat then none
    else (grammarBlock ((wordsAt 0x40 8).map (area s c))).bind fun l =>
      both (s.modMem fun m => m.commitWrite (c + (0x400 + 64 * g.bv.toNat)) (l.flatMap fun v => toBytes v 8)) (some 0))
  | .grest _ _ => some (inContext fun _ g c s =>
    if 16 ≤ g.bv.toNat then none
    else (grammarBlock ((wordsAt (0x400 + 64 * g.bv.toNat) 8).map (area s c))).bind fun l =>
      both (s.modMem fun m => m.commitWrite (c + 0x40) (l.flatMap fun v => toBytes v 8)) (some (BitVec.ofNat 64 (l.headD 0 % 2 ^ 32))))
  | .draw _ _ sf greedy => some (inContext fun x g c s =>
    let vals := (wordsAt 0x200 (s.ccount c)).map fun o => fp32 (area s c o % 2 ^ 32)
    let nums := vals.filter fun v => !v.isNan
    let best := maxNum nums (.inf true)
    let nv : Flags := if vals.any Sys2Proof.Machine.Num.isSig then 16 else 0
    let scale := fp32 (area s c 8 % 2 ^ 32)
    let us := vals.map (drawWeight scale best)
    let fr := us.map fun u => (fp32 u.1).frac
    let pick (j : Nat) : Option Token := some (some (BitVec.ofNat 64 (area s c (0x200 + 8 * j) / 2 ^ 32 + j * 2 ^ 32)))
    let after (f : Flags) : State := if sf = 1 then s else s.raise x.k f
    if 2 ^ 32 ≤ g.bv.toNat then none
    else if nums.all (· == .inf true) then some (after nv, some (some (0x8000000000000000 : Word)), some (some (0x8000000000000000 : Word)))
    else if greedy = 1 then
      let j := (findIdx (fun v => !v.isNan && cmpNum v best == 0) vals 0).getD 0
      some (after nv, pick j, pick j)
    else if scale.positive = false then none
    else
      let j := pickIndex g.bv.toNat (fr.foldl addFrac (0, 1)) fr (0, 1) 0
      some (after (us.foldl (fun f u => f ||| u.2) nv), pick j, pick j))
  | _ => none
where
  candidate (x : Ctx) (g : Args) (s : State) (f : Nat → Option (State × Option Token × Option Token)) : Option (State × Option Token × Option Token) :=
    match s.contextOf x (g.av.toNat / 2 ^ 16) with
    | none => none
    | some c =>
      if 2 ^ 24 ≤ g.av.toNat ∨ g.av.getLsbD 15 ∨ g.av.toNat % 8 ≠ 0 ∨ s.mem.poison ≠ [] then none else f (c + g.av.toNat % 2 ^ 15)

/-- Logits of `z` bytes that the stroke loads one after the other from its window, as FP32 codes with their index. -/
def logits (k : Nat) (bf : Bool) (key i : Nat) : Nat → State → List Logit × State
  | 0, s => ([], s)
  | n + 1, s =>
    let z := if bf then 2 else 4
    let r := s.load k (key + z * i) z
    let l := logits k bf key (i + 1) n r.2
    ({ index := i, code := if bf then widen .bf16 r.1 else r.1 } :: l.1, l.2)

/-- R334, R339: TOPK on N logits of the own window keeps the best K, larger keys first and equal ones in order of arrival, as candidates, and
owes their number; GMASK puts −∞ in every candidate whose bit of the bitmap is 0, and owes how many. -/
def samplerReads : Instr → Option Owed
  | .topk _ _ sp => some fun x g s =>
    let b := g.bv.toNat
    let n := b % 2 ^ 19
    let bf := g.bv.getLsbD 28
    let z := if bf then 2 else 4
    match s.contextOf x (b / 2 ^ 32) with
    | none => none
    | some c =>
      let l := logits x.k bf (windowAt x g.av.toNat) 0 n s
      let best := l.1.foldl (fun best v => insertLogit (b / 2 ^ 20 % 2 ^ 6 + 1) v best) []
      if sp ≠ 0 ∨ 2 ^ 40 ≤ b ∨ b / 2 ^ 29 % 2 ^ 3 ≠ 0 ∨ b / 2 ^ 26 % 2 ^ 2 ≠ 0 ∨ g.bv.getLsbD 19 ∨ n = 0 ∨ 262144 < n ∨
          inWindow x g.av.toNat z (n * z) = false ∨ s.mem.poison ≠ [] ∨ l.2.mem.poison ≠ [] then none
      else
        let s1 := l.2.modMem fun m => m.commitWrite (c + 0x200) (best.flatMap fun v => toBytes (v.index * 2 ^ 32 + quiet v.code) 8)
        let s2 := put s1 c 0 (area s1 c 0 - area s1 c 0 % 2 ^ 7 + best.length)
        let s3 := if l.1.any fun v => (fp32 v.code).isSig then s2.raise x.k 16 else s2
        some (s3.pushReply x.k x.ins.serial x.n (some (BitVec.ofNat 64 best.length)))
  | .gmask _ _ sp => some fun x g s =>
    match s.context x g.av with
    | none => none
    | some c =>
      let cands := wordsAt 0x200 (s.ccount c)
      if g.bv.toNat % 8 ≠ 0 ∨ s.mem.poison ≠ [] then none
      else
        match readBits x (sp == 3) g.bv.toNat (cands.map fun o => area s c o / 2 ^ 32 % 2 ^ 18) s with
        | .ok l s1 =>
          let hit := (cands.zip l).filter fun e => !e.2
          some ((hit.foldl (fun s e => put s c e.1 (area s c e.1 - area s c e.1 % 2 ^ 32 + 0xFF800000)) s1).pushReply x.k x.ins.serial x.n
            (some (BitVec.ofNat 64 hit.length)))
        | .bad _ => none
  | _ => none

/-- Node `i` of a draft tree under parents `a`: its depth, and its row of ancestors with itself, in at most `fuel` steps to the root. -/
def treeNode (a : Word) : Nat → Nat → Nat × Nat
  | 0, _ => (0, 0)
  | _ + 1, 0 => (0, 1)
  | fuel + 1, i + 1 =>
    let r := treeNode a fuel (a.toNat / 2 ^ (4 * (i + 1)) % 16)
    (r.1 + 1, r.2 + 2 ^ (i + 1))

/-- R342: of N nodes, each parent below its node, TMASK gives four rows of the ancestor matrix, and TDEPTH sixteen depths, or with POS two
positions. -/
def treeInstructions : Instr → Option Effect
  | .tmask _ _ q => some fun _ g s => tree g fun node =>
    let row (i : Nat) : Nat := (node (4 * q.toNat + i)).2
    both s (some (BitVec.ofNat 64 (row 0 + row 1 * 2 ^ 16 + row 2 * 2 ^ 32 + row 3 * 2 ^ 48)))
  | .tdepth _ _ pos q => some fun _ g s => tree g fun node =>
    let at_ (i : Nat) : Nat := if i < g.bv.toNat % 32 then (g.bv.toNat / 2 ^ 32 + (node i).1) % 2 ^ 32 else 0
    if pos = 1 then both s (some (BitVec.ofNat 64 (at_ (2 * q.toNat) + at_ (2 * q.toNat + 1) * 2 ^ 32)))
    else both s (some (BitVec.ofNat 64 ((List.range 16).foldl (fun acc i => acc + (node i).1 * 2 ^ (4 * i)) 0)))
  | _ => none
where
  tree (g : Args) (f : (Nat → Nat × Nat) → Option (State × Option Token × Option Token)) : Option (State × Option Token × Option Token) :=
    let n := g.bv.toNat % 32
    if n = 0 ∨ 16 < n ∨ g.bv.toNat / 2 ^ 5 % 2 ^ 27 ≠ 0 ∨
        (List.range n).any (fun i => decide (i ≠ 0 ∧ i ≤ g.av.toNat / 2 ^ (4 * i) % 16)) then none
    else f fun i => if i < n then treeNode g.av 16 i else (0, 0)

/-! ## System instructions (R348–R376, R395–R397) -/

/-- The register that a selector names for a stroke of unit `u` is open to it, for reading or for writing. -/
def openTo (write : Bool) (x : Ctx) (a : Word) : Option Selected :=
  match selected (unitOf x.k) a.toNat with
  | none => none
  | some c =>
    match if write then c.shape.write else some c.shape.read with
    | some p => if unitPriv (unitOf x.k) < p then none else some c
    | none => none

/-- Table 14-11: what a register of the stroke reads as: the general ones at their values as the instance started, those of its declaration, and its privilege. -/
def strokeRegister (x : Ctx) (code : Nat) : Word :=
  let r := x.ins.start
  let d := x.st.decl
  match code with
  | 0x01 => r.flags.setWidth 64
  | 0x02 => r.aregion.setWidth 64
  -- Table 9-3: the phase number, and the pending writes above it
  | 0x03 => BitVec.ofNat 64 (x.ins.pend0 % 2 ^ 13 * 2 ^ 32 + r.phaseNumber.toNat)
  | 0x04 => r.gentag
  | 0x05 => r.wstat
  | 0x06 => r.cpstat
  | 0x07 => r.cplast
  | 0x08 => BitVec.ofNat 64 d.chbase
  | 0x09 => BitVec.ofNat 64 d.frank
  | 0x0A => BitVec.ofNat 64 d.srank
  | 0x0B => d.inst.setWidth 64
  | 0x0C => BitVec.ofNat 64 r.curch
  | 0x0D => r.trapcause
  | 0x0E => r.trapslot
  | 0x0F => r.trapval
  | 0x10 => r.resumeidx
  | _ => BitVec.ofNat 64 (unitPriv (unitOf x.k))

/-- LFLAGS0, LFLAGS1 and MFLAGS of a nib. -/
def nibRegister (u : UnitSt) (code index : Nat) : Word :=
  if code = 0x20 then (if index = 0 then u.lane.lflags0 else u.lane.lflags1) else u.matrix.mflags.setWidth 64

/-- R197, R222; log entry 42: a CSRW of LFLAGS or MFLAGS keeps the flags that its value holds, and sets none. -/
def nibFlags (s : State) (u code index : Nat) (v : Word) : State :=
  s.modUnit u fun x =>
    if code = 0x20 then
      { x with lane := if index = 0 then { x.lane with lflags0 := x.lane.lflags0 &&& v } else { x.lane with lflags1 := x.lane.lflags1 &&& v } }
    else { x with matrix := { x.matrix with mflags := x.matrix.mflags &&& v.setWidth 5 } }

/-- R373, R376, R398, R414: what a system register reads as: ROUND the number of the last marker issued, an unstated value before the first; JOBKILL and the
key staging 0; TLBMISS its count; any other what it holds. -/
def systemRegister (s : State) (code slab i : Nat) : Word × State :=
  if code = 0x40 then (if s.rounds.issued = 0 then s.drawWord else (BitVec.ofNat 64 (s.rounds.issued - 1), s))
  else if code = 0x45 ∨ code = 0x4B then (0, s)
  else if code = 0x51 then (tabGet s.mem.misses slab 0, s)
  else (BitVec.ofNat 64 (s.csrGet code slab i), s)

/-- The bits that a system register holds; the others are reserved and are not written (R7). -/
def heldBits (code i : Nat) (v : Nat) : Nat :=
  let pick (hi lo : Nat) : Nat := v / 2 ^ lo % 2 ^ (hi + 1 - lo) * 2 ^ lo
  match code with
  | 0x41 => if i % 2 = 0 then pick 63 60 + pick 56 16 else pick 56 16 + pick 8 0
  | 0x42 => pick 14 8 + pick 5 0
  | 0x43 => pick 63 63 + pick 17 0
  | 0x44 => pick 63 63 + pick 7 0
  | 0x46 | 0x48 => pick 7 0
  | 0x47 => pick 63 62 + pick 55 0
  | 0x49 | 0x60 => pick 31 0
  | 0x4A => if i % 2 = 0 then pick 63 63 + pick 15 0 else pick 8 0
  | 0x4D => if i % 4 = 0 then pick 63 63 + pick 59 0 else if i % 4 = 3 then v else pick 56 12
  | 0x50 => pick 63 63 + pick 56 20
  | 0x52 => pick 63 63 + pick 56 12
  | 0x61 => pick 56 0
  | 0x62 => pick 8 0
  | 0x63 => if i = 0 then pick 63 62 + pick 31 0 else pick 56 0
  | 0x64 => pick 3 0
  | 0x65 => pick 15 0
  | _ => v

/-- R374–R376, R398, R401, R410, R417, R423, R424: the value breaks no rule of the register's layout. `v` is what the register would hold. -/
def legalValue (s : State) (code slab i v : Nat) : Bool :=
  match code with
  | 0x41 =>
    let t := s.csrPut 0x41 0 i v
    (if i % 2 = 0 then v / 2 ^ 60 % 4 ≠ 3 else v / 2 ^ 5 % 16 ≤ 11 ∧ v % 32 ≤ 23) && !t.lastBelow (i / 2) && rangesOk t.ownRanges
  | 0x42 => decide (v % 64 ≤ 32 ∧ v % 64 + v / 2 ^ 8 ≤ 128 ∧ s.logBytes slab i ≤ v / 2 ^ 8 * 65536)
  | 0x43 => decide (v < 2 ^ 63 ∨ (v / 2 ^ 14 % 16 ≤ 11 ∧ (v / 2 ^ 6 % 256 = 160 ∨ v / 2 ^ 6 % 256 = 161)))
  | 0x46 => (s.unit (unitNum slab i)).windows.isEmpty && s.strokes.all fun e => unitOf e.1 != unitNum slab i
  | 0x4A => decide (i % 2 = 1 ∨ v < 2 ^ 63 ∨ v % 2 ^ 16 ≠ 0)
  | 0x4D => if i % 4 = 0 then decide (v < 2 ^ 63 ∨ v / 2 ^ 48 % 2 ^ 12 ≠ 0) else decide (i % 4 = 3 ∨ v < tierOne)
  | 0x50 => decide (v % 2 ^ 57 + 2 ^ 20 ≤ tierOne)
  | 0x52 => decide (v % 2 ^ 57 + 4096 ≤ tierOne)
  | 0x62 => decide (v % 2 ^ 8 < 168)
  | 0x63 => decide (i ≠ 0 ∨ v / 2 ^ 62 ≠ 3)
  | 0x64 => decide (v ≠ 0)
  | _ => true

/-- R374, R375, R417: the write holds as a waiting instance: an update is bound to the range, more granules are pending than would fit, a swap command is
outstanding. -/
def writeWaits (s : State) (code slab i v : Nat) : Bool :=
  match code with
  | 0x41 => i % 2 == 0 && (s.ownRange (i / 2)).any s.boundTo
  | 0x42 => decide (v % 64 * 4096 < s.mem.pendGranules.length ∧ v % 64 * 4096 < s.pendAt slab i)
  | 0x4D => decide (0 < s.outstanding slab (i / 4))
  | _ => false

/-- R373–R376, R398, R401, R414, R417, R423, R424: the state after a legal write of a system register: it holds the value, and besides ROUND requests a
marker; OWNRNG frees the sequence contexts of a well whose range changes; SMPCTX zeroes the context it assigns; JOBKILL marks the job; KEYSLOT takes the staged
key, or is erased; ROLETAB gives a nib another site, whose spare is used up, with no decoded image; LOGTAIL frees the ring. -/
def afterWrite (s : State) (code slab i : Nat) (val : Word) : State :=
  let v := heldBits code i val.toNat
  let held (s : State) : State := s.csrPut code slab i v
  match code with
  | 0x40 => { s with rounds := { s.rounds with requested := true } }
  | 0x41 =>
    let t := held s
    match s.ownRange (i / 2) with
    | none => t
    | some r =>
      if t.ownRange (i / 2) = some r then t else { t with net := { t.net with afctx := t.net.afctx.filter fun c => decide (c.node ≠ r.well) } }
  | 0x44 =>
    let key := candKey (unitNum slab (0xF0 + i / 256)) (i % 256 * 32768)
    held (if v < 2 ^ 63 then s else
      s.modMem fun m => ({ m with cells := m.cells.filter fun c => !(decide (key ≤ c.1) && decide (c.1 < key + 32768)) } : Memory).heal key 32768)
  | 0x45 =>
    { s with eng := { s.eng with jobs := s.eng.jobs.map fun j => if j.id = val.toNat % 2 ^ 12 then { j with killed := true } else j } }
  | 0x4C =>
    if val.getLsbD 63 then
      ((span 0 8).foldl (fun (q : State) j => (q.csrPut 0x80 0 (i * 8 + j) (s.csrGet 0x4B 0 j)).csrPut 0x4B 0 j 0) s).csrPut 0x4C 0 i (2 ^ 63)
    else ((span 0 8).foldl (fun (q : State) j => q.csrPut 0x80 0 (i * 8 + j) 0) s).csrPut 0x4C 0 i 0
  | 0x51 => s.modMem fun m => { m with misses := tabPut m.misses slab val }
  | 0x62 =>
    let u := unitNum slab i
    let old := s.csrGet 0x62 slab i
    held (if old % 2 ^ 8 = v % 2 ^ 8 then
        (if v.testBit 8 ∧ old.testBit 8 = false then s.modUnit u fun x => { x with moved := false } else s)
      else
        let t := s.modUnit u fun x => { x with images := [], badImages := [], moved := true, lane := { x.lane with spareFor := none } }
        { t with plat := { t.plat with spares := tabPut t.plat.spares (slab * 256 + v % 2 ^ 8) true } })
  | 0x63 =>
    let room := (v % 2 ^ 12 + s.log.ring.length + 4096 - s.log.written % 4096) % 4096
    held (if i = 1 then { s with log := { s.log with ring := s.log.ring.drop room } } else s)
  | _ => held s

/-- What the write sends: the value it replaced; ROUND sends the number the marker will carry, JOBKILL and the key staging 0. -/
def replaced (s : State) (code slab i : Nat) : Word :=
  if code = 0x40 then BitVec.ofNat 64 s.rounds.issued
  else if code = 0x45 ∨ code = 0x4B then 0
  else if code = 0x51 then tabGet s.mem.misses slab 0
  else BitVec.ofNat 64 (s.csrGet code slab i)

def written (s : State) (code slab i : Nat) (val : Word) : Option State :=
  let v := heldBits code i val.toNat
  if legalValue s code slab i v ∧ writeWaits s code slab i v = false then some (afterWrite s code slab i val) else none

/-- R355, Table 14-6: RETRY (0) of a slot trap: a TRAP's slot resolves with its token; an instance with two exits keeps the first; any other slot fires again with
the tokens it holds, a RECV's faulted element read again. A WLD that trapped with WASHPOIS is complete (log entry 44). -/
def retried (s : State) (k n code : Nat) (i : Instance) : State :=
  if code = 0x34 then s
  else if code = 0x01 then s.resolveSlot k n (((i.slots[n]?).bind (·.stash)).getD none)
  else if code = 0x04 then s.modInst k fun i => { i with fired := i.fired.take 1 }
  else s.clearAhead k (i.instr n)

/-- R355, Table 14-6: SKIP (1) of a slot trap: the slot resolves with null to each target, a vector atomic with RESUMEIDX 0; the second exit of two, or an exit with a bad PC, as if
it had not fired; nothing is left to resolve of a WASHPOIS, or of a TOKENCLASH at a slot that has acted. Null does not leave by the out-port that
raised the trap (log entry 44). -/
def skipped (s : State) (k n code : Nat) (i : Instance) : State :=
  if code = 0x04 then
    (s.modInst k fun i => { i with fired := i.fired.take 1 }).resolveSlot k (((i.fired[1]?).map (·.slot)).getD n) none
  else if code = 0x08 then s.modInst k fun i => { i with fired := i.fired.filter (·.slot != n) }
  else if code = 0x34 ∨ (code = 0x03 ∧ (i.slots[n]?).any (·.begun)) then s
  else
    let t := s.clearAhead k (i.instr n)
    let t := if (i.instr n).any isVectorAtomic then t.modRegs k fun r => { r with resumeidx := 0 } else t
    let val : Nat := ((t.stroke k).map (·.regs.trapval.toNat)).getD 0
    t.resolveSlot k n none ((code == 0x07 && decide (val < 64)) || (code == 0x17 && decide (64 ≤ val)))

/-- R355: RETRY or SKIP of the trap of stroke `k` takes effect: the stroke is as it was before the trap, READY where it had no region or its page has come; a block
trap's instance is discarded; a slot trap's slot is retried or skipped; then the next of the traps that the stroke holds is taken (R351; log entry 44). -/
def resumedFrom (s : State) (k : Nat) (t : Stroke) (act : Nat) : State :=
  let slot := t.regs.trapslot.toNat
  let code := t.regs.trapcause.toNat % 256
  let ready := (t.run.before = .run ∧ t.run.region = none) ∨ (t.run.before = .pagewait ∧ t.run.waitPage.any fun p => !s.eng.pageReqs.contains p)
  let s1 := s.modRun k fun r =>
    { r with state := if ready then .ready else r.before, rftAct := none, inst := if slot = 64 then none else r.inst,
             later := if slot = 64 then [] else r.later }
  let s2 := match (if slot < 64 then t.run.inst else none) with
    | none => s1
    | some i => if act = 0 then retried s1 k slot code i else skipped s1 k slot code i
  let runs := (s2.stroke k).any fun t => t.run.state == .run && !t.run.frozen
  let s3 := s2.takeLater k
  (if act = 0 ∧ (slot ≠ 65 ∨ runs = false) ∧ (s3.stroke k).any (·.run.state == .trapped) = false then s3.takeDeferred k else s3).flush k

/-- R355, R369–R373, R396, R397, R359: what the system instructions do for operands that pass their checks. TLBINV posts the arrival words of the pages it names,
sends back what has not left its unit, lets what is on its way arrive, and removes the range's translations. -/
def systemInstructions : Instr → Option Effect
  | .csrr _ _ => some fun x g s =>
    match openTo false x g.av with
    | none => none
    | some c =>
      match c.shape.holder with
      | .stroke => both s (some (strokeRegister x c.code))
      | .nib => both s (some (nibRegister (s.unit (unitOf x.k)) c.code c.index))
      | _ => both (systemRegister s c.code c.slab c.index).2 (some (systemRegister s c.code c.slab c.index).1)
  | .csrw _ _ => some fun x g s =>
    match openTo true x g.av with
    | none => none
    | some c =>
      match c.shape.holder with
      | .stroke =>
        both (s.modInst x.k fun i => { i with csrw := i.csrw ++ [{ slot := x.n, code := c.code, value := g.bv }] }) (some (strokeRegister x c.code))
      | .nib => both (nibFlags s (unitOf x.k) c.code c.index g.bv) (some (nibRegister (s.unit (unitOf x.k)) c.code c.index))
      | _ => (written s c.code c.slab c.index g.bv).bind fun s1 => both s1 (some (replaced s c.code c.slab c.index))
  | .rft _ _ => some fun _ g s =>
    match s.named g.av.toNat with
    | none => none
    | some (k, t) =>
      if t.run.state ≠ .trapped ∨ 3 ≤ g.bv.toNat ∨ (g.bv = 1 ∧ 64 ≤ t.regs.trapslot.toNat) then none
      else if s.folioFrozen k then both (s.modRun k fun r => { r with rftAct := some g.bv.toNat }) (some 0)
      else both (if g.bv = 2 then s.endStroke k 0 true else resumedFrom s k t g.bv.toNat) (some 0)
  | .tlbinv _ _ all => some fun _ g s =>
    let region := g.bv.toNat / 2 ^ 48
    let count := g.bv.toNat % 2 ^ 32
    let first := g.av.toNat / 65536
    let hit (r lo n : Nat) : Bool := all == 1 || (r == region && (count == 0 || decide (lo < first + count ∧ first < lo + n)))
    if (all = 0 ∧ (g.av.toNat % 65536 ≠ 0 ∨ g.bv.toNat / 2 ^ 32 % 2 ^ 16 ≠ 0 ∨ 2 ^ 64 < g.av.toNat + 65536 * count)) ∨ s.inFlight hit then none
    else
      let s1 := s.postArrivals fun r p => hit r p 1
      both (((s1.withdrawUnsent hit).drainMoves hit).forget hit) (some 0)
  | .tlbprobe _ _ shadow => some fun _ g s =>
    if 65536 ≤ g.bv.toNat then none
    else
      match s.walk g.bv.toNat g.av.toNat fun _ _ => true with
      | .fault code level => both s (some (BitVec.ofNat 64 (level * 2 ^ 58 + code)))
      | .poison _ => none
      | .leaf l =>
        let v := if shadow = 1 then l.w1 else l.w0
        both s (some (BitVec.ofNat 64 (v / 2 ^ 61 % 2 ^ 3 * 2 ^ 61 + l.level * 2 ^ 58 + v % 2 ^ 58)))
  | .cfginv _ _ all => some fun x g s =>
    if 2 ^ 64 < g.av.toNat + g.bv.toNat then none
    else
      both { s with units := s.units.map fun e =>
        if all = 1 ∨ slabOf e.1 = slabOf (unitOf x.k) then
          let keep (i : Image) : Bool := !inRange i.addr (i.words.length + 1) (x.st.region false) g.av.toNat g.bv.toNat
          (e.1, { e.2 with images := e.2.images.filter keep })
        else e } (some 0)
  | .halt _ => some fun x _ s => some (s.modInst x.k fun i => { i with halting := true }, none, none)
  | .freeze _ _ => some fun _ g s =>
    match (s.named g.av.toNat).bind fun e => s.folio e.2.decl.folio with
    | none => none
    | some f => if f.frozen then both s (some 0) else none
  | .thaw _ _ => some fun _ g s =>
    match (s.named g.av.toNat).bind fun e => s.folio e.2.decl.folio with
    | none => none
    | some f =>
      if f.frozen = false ∨ f.away ≠ 0 then none
      else
        both (f.strokes.foldl (fun s k => s.thawStroke k) (s.modFolio f.id fun h => { h with frozen := false })) (some 0)
  | _ => none

/-- R357: FREEZE of a folio that is not frozen requests a marker, freezes its strokes that hold no region, and owes its result. -/
def freezeRequests : Instr → Option Owed := fun i => match i with
    | .freeze _ _ => some fun x g s =>
      match (s.named g.av.toNat).bind fun e => s.folio e.2.decl.folio with
      | none => none
      | some f =>
        if f.frozen then none
        else
          let s1 := f.strokes.foldl (fun s k => if (s.stroke k).any (·.run.region.isNone) then s.freezeStroke k else s) s
          let q : FreezeReq := { folio := f.id, round := s1.rounds.issued, stroke := x.k, serial := x.ins.serial, slot := x.n }
          some { s1 with rounds := { s1.rounds with requested := true, freezes := s1.rounds.freezes ++ [q] } }
    | _ => none

/-- A trap that a level-stopped access gives is refused for a privileged register: R371, Table 14-10. A selector that names no register traps
with CSRBAD (0x0B), one whose register is not open to the stroke's privilege with PRIVCSR (0x0A); TRAPVAL is the selector. A value that breaks the register's layout
traps with CSRBAD; a TLBPROBE that reads an entry with an uncorrectable error traps with UNCORR (0x0E; log entry 77). -/
def registerTraps : Instr → Option (Ctx → Args → State → Option (Nat × Word)) := fun i => match i with
    | .csrr _ _ => some fun x g _ =>
      match selected (unitOf x.k) g.av.toNat with
      | none => some (0x0B, g.av)
      | some c => if unitPriv (unitOf x.k) < c.shape.read then some (0x0A, g.av) else none
    | .csrw _ _ => some fun x g s =>
      match selected (unitOf x.k) g.av.toNat with
      | none => some (0x0B, g.av)
      | some c =>
        match c.shape.write with
        | some p =>
          if unitPriv (unitOf x.k) < p then some (0x0A, g.av)
          else if (c.shape.holder = .slab ∨ c.shape.holder = .module) ∧ legalValue s c.code c.slab c.index (heldBits c.code c.index g.bv.toNat) = false then
            some (0x0B, g.av)
          else none
        | none => some (if unitPriv (unitOf x.k) < c.shape.read then 0x0A else 0x0B, g.av)
    | .tlbprobe _ _ _ => some fun _ g s =>
      match s.walk (g.bv.toNat % 65536) g.av.toNat fun _ _ => true with
      | .poison e => if g.bv.toNat < 65536 then some (0x0E, granuleVal e) else none
      | _ => none
    | _ => none

/-- R363–R368: CTXOUT of a stroke that is frozen, or TRAPPED and alone in its folio, and owes nothing writes its area, and its window when bit W asks for it, and gives the bytes
written; CTXOUT.drop ends the stroke; CTXIN of an area that stands as it was written places the stroke and gives its stroke word. -/
def contextInstructions : Instr → Option Effect
  | .ctxout _ _ w f => some fun x g s =>
    match s.named g.av.toNat with
    | none => none
    | some (k, t0) =>
      let s1 := s.freezeStroke k
      match s1.stroke k with
      | none => none
      | some t =>
        let a := areaWords k t (w == 1) (f == 1) s1
        let pieces := (a.1.map fun e => (e.1, toBytes e.2.toNat 8)) ++ (if w = 1 then windowPieces s1 k t else [])
        if mayLeave s k t0 = false ∨ g.bv.toNat % 4096 ≠ 0 ∨ s.owesNothing k = false ∨ s.updatesOut k ∨ s1.mem.poison ≠ [] ∨
            (f = 1 ∧ (!(s.folioOf k).all (·.single) ∨ (s.unit (unitOf k)).registered k ∨ t0.decl.shared)) ∨
            (w = 1 ∧ t0.decl.shared) then none
        else
          match writePieces x g.bv.toNat pieces a.2 with
          | .bad _ => none
          | .ok _ s3 =>
            let id := s3.rounds.nextSave
            let u := s3.unit (unitOf k)
            let entry : SavedCtx :=
              { id, home := k, free := f == 1, win := w == 1, rows := rowMask k t, area := a.1, stroke := t.saved,
                handlers := if f = 1 then UnitSt.relative t (u.handlers.filter (·.2.stroke == k)) else [],
                inboxes := if f = 1 then UnitSt.relative t u.inboxes else [] }
            both (State.leaveUnit { s3 with rounds := { s3.rounds with nextSave := id + 1, saved := s3.rounds.saved ++ [entry] } } k id t
              (w == 1) (f == 1)) (some (BitVec.ofNat 64 (areaBytes k t (w == 1) (f == 1))))
  | .ctxoutDrop _ _ _ _ => some fun _ g s =>
    match s.named g.av.toNat with
    | none => none
    | some (k, t0) => if mayLeave s k t0 = false ∨ g.bv.toNat % 4096 ≠ 0 then none else both (s.endStroke k 0 true) (some 0)
  | .ctxin _ _ => some fun x g s =>
    if g.av.toNat % 4096 ≠ 0 then none
    else
      match areaWord x g.av.toNat 0 s with
      | .bad _ => none
      | .ok _ s1 =>
        match findSaved x g.av.toNat s1.candidatesSaved s1 with
        | .ok (some c) s2 =>
          let u := if c.free then unitNum (g.bv.toNat / 2 ^ 14 % 2 ^ 4) (g.bv.toNat / 2 ^ 6 % 2 ^ 8) else unitOf c.home
          match restore x g.av.toNat c u s2 with
          | .send s3 r1 r2 => some (s3, r1, r2)
          | _ => none
        | _ => none
  | _ => none
where
  -- frozen, or TRAPPED and alone in its folio
  mayLeave (s : State) (k : Nat) (t : Stroke) : Bool :=
    s.folioFrozen k || (t.run.state == .trapped && (s.folioOf k).all (·.single))

/-! ## Blocks, regions and rounds (R33–R49, R149–R162) -/

/-- The stroke runs in its region and its unit issues. -/
def issuing (s : State) (k : Nat) (t : Stroke) : Bool := t.running && !(s.unit (unitOf k)).still

/-- What the exit of an instance does (R48): a branch sets the offset of the PC and, with YIELD or once a yield was forced, leaves the region READY; a PARK leaves it PARKED,
its offset unstated (R185); an EXIT leaves a boundary of folio scope behind it, at which the stroke ends (R156), and in a scribe context ends the method (R284). -/
def leaves (s : State) (k : Nat) (i : Instance) (e : ExitKind) : State :=
  let out (r : StrokeRun) (st : StrokeState) : StrokeRun :=
    { r with state := st, region := none, lastRegion := r.region.getD r.lastRegion, forced := false }
  let at_ (pc : BitVec 80) (a : Word) : BitVec 80 := (pc &&& ~~~(0xFFFFFFFFFFFFFFFF : BitVec 80)) ||| a.setWidth 80
  match e with
  | .goto a => s.modStroke k fun t =>
    { t with regs := { t.regs with pc := at_ t.regs.pc a },
             run := if (i.header.getLsbD 23 ∨ t.run.forced) ∧ isScribe (unitOf k) = false then out t.run .ready else t.run }
  | .park => s.drawWord.2.modStroke k fun t =>
    { t with regs := { t.regs with pc := at_ t.regs.pc s.drawWord.1 }, run := out t.run .parked }
  | .exit st =>
    if isScribe (unitOf k) then
      let t := s.modRun k fun r => { r with state := .parked }
      match tabFind t.svc.book.runs (unitOf k) with
      | some r => t.modBook fun b => { b with runs := tabPut b.runs (unitOf k) { r with exit := some st.toNat } }
      | none => t
    else
      s.modRun k fun r =>
        { out r .parked with
          ending := some st, boundaries := r.boundaries ++ [{ scope := 5, kind := 2, serial := r.serial, slot := 0, upto := s.mem.order }] }

/-- R48, R72, R372: an instance that has done what R47 asks commits: the PUT registers are written, then the recorded CSRWs of FLAGS and AREGION, of each the one of the
highest slot, then FLAGS; moves that have fired and WLDSs that wait go on (R118, R272); HALT stops the nib (R370); its one exit takes effect; and the oldest deferred
trap of the stroke is taken (R351). -/
def commits (s : State) (k : Nat) (t : Stroke) (i : Instance) (e : ExitKind) : State :=
  let late := i.lateWashes k t.run.washes t.bnd
  let recorded (flags : Bool) : Option Word := (((sortRecs i.csrw).filter fun c => (c.code == 1) == flags).getLast?).map (·.value)
  let flags : Flags := match recorded true with
    | some v => v.setWidth 5
    | none => t.regs.flags
  let regs := { t.regs with
    g := putAll t.regs.g i.words i.slots, flags := (flags &&& ~~~i.clear) ||| i.raised ||| t.run.lateFlags,
    aregion := match recorded false with
      | some v => v.setWidth 16
      | none => t.regs.aregion }
  let s1 := s.modStroke k fun t =>
    { t with regs, run := { t.run with
        inst := none, lateFlags := 0, moves := t.run.moves ++ i.slots.filterMap (·.move), waiting := t.run.waiting ++ late,
        washes := t.run.washes + late.length } }
  let s2 := if i.header.toNat / 2 ^ 24 % 4 = 1 then s1.leavesStream k else s1
  let s3 := if i.halting then s2.modUnit (unitOf k) fun u => { u with halted := true } else s2
  let s4 := leaves s3 k i e
  match ((s4.stroke k).map (·.run.deferred)).getD [] with
  | (code, val) :: l => (s4.modRun k fun r => { r with deferred := l }).takeTrap k 65 code val
  | [] => s4

/-- R36, R45, R47, R48, R149–R152, R159–R162, R229: a fetched block starts an instance with empty ports; an instance that
has done what R47 asks commits, and one whose exits have all resolved without firing, or whose exit names a PC off a multiple of 4, traps with NOEXIT (0x06) or
PCALIGN (0x08); a region that has settled with R47 unmet traps with NOCOMMIT (0x09); the selector places the
winning candidate; a waiting candidate ages; a forced yield is noted; markers and edges count, the choices of a recording module written
to its log first (R424); a stalled store, of a slot or of an out-port, traps with PHASEOVF (0x2B). -/
def blockEvents : Instr → State → Option State
  | .blockFetch k, s =>
    match s.stroke k with
    | none => none
    | some t =>
      if issuing s k t = false ∨ t.run.inst ≠ none ∨ t.run.ending ≠ none ∨ s.mayReplace k = false ∨
          (s.unit (unitOf k)).badImages.contains t.regs.pc.toNat ∨ isScribe (unitOf k) then none
      else if (s.unit (unitOf k)).badRegs.contains k then some (s.drawWord.2.takeTrap k 64 0x0E s.drawWord.1)
      else
        match s.image k t.regs.pc.toNat with
        | (.ok i, s1) =>
          match imageCheck (t.decl.regs * 8) i.bad i.header i.words with
          | some (c, n) => some (s1.takeTrap k n 0x02 (BitVec.ofNat 64 c))
          | none =>
            if tabFind s1.svc.book.runs (unitOf k) ≠ none then none
            else if t.run.startCh.isSome ∧ i.header.toNat / 2 ^ 24 % 4 ≠ 2 then some (s1.takeTrap k 64 0x18 (BitVec.ofNat 64 t.regs.pc.toNat))
            else
              some ((s1.replaced k).modRun k fun r =>
                { r with serial := r.serial + 1, startCh := none,
                         inst := some { serial := t.run.serial + 1, addr := i.addr, header := i.header, words := i.words, start := t.regs,
                                        slots := i.words.map fun _ => {}, emitted := if i.header.toNat / 2 ^ 24 % 4 = 1 then 0 else 1,
                                        pend0 := s1.mem.pendCount k } })
        | (.error (.fault c v), s1) => some (s1.takeTrap k 64 c v)
        | (.error (.absent r p), s1) => some (s1.pageWait k r p)
        | _ => none
  | .blockCommit k, s =>
    match s.stroke k with
    | none => none
    | some t =>
      match t.run.inst with
      | none => none
      | some i =>
        if issuing s k t = false then none
        else if i.noExit then some (s.takeTrap k 64 0x06 0)
        else if s.readyToEnd k i = false then none
        else
          match i.fired with
          | [⟨n, .goto a⟩] =>
            if a.toNat % 4 ≠ 0 then some (s.takeTrap k n 0x08 (BitVec.ofNat 64 (a.toNat % 2 ^ 32))) else some (commits s k t i (.goto a))
          | [⟨_, e⟩] => some (commits s k t i e)
          | _ => none
  | .nocommit k, s =>
    match s.stroke k with
    | none => none
    | some t =>
      match t.run.inst with
      | none => none
      | some i =>
        let n := i.total.getD 1
        if issuing s k t = false ∨ i.noExit ∨ s.readyToEnd k i ∨ s.settled k t i = false then none
        else
          some (s.takeTrap k 64 0x09 (BitVec.ofNat 64 ((if i.allResolved n isPut then 0 else 1) + (if i.allResolved n isCounted then 0 else 2) +
            (if i.allResolved n isExit then 0 else 4))))
  | .selector u, s =>
    match bestOf (s.unit u).lastChosen (s.candidates u), s.freeRegions u with
    | some c, r :: rest =>
      if (s.unit u).still ∨ isScribe u then none
      else
        let last := ((s.stroke c.stroke).filter fun t => t.run.waitPage.isNone).map (·.run.lastRegion)
        some (s.place u (if c.entry = none then (last.filter (r :: rest).contains).getD r else r) c)
    | _, _ => none
  | .handlerAging k ch, s =>
    if (s.candidates (unitOf k)).any fun c => decide (c.stroke = k ∧ c.key = ch ∧ c.level < 7) then
      some (s.modRun k fun r => { r with age := tabPut r.age ch (tabGet r.age ch 0 + 1) })
    else none
  | .forcedYield k, s =>
    match s.stroke k with
    | none => none
    | some t =>
      if t.running = false ∨ s.freeRegions (unitOf k) ≠ [] ∨ s.candidates (unitOf k) = [] then none
      else
        some (match t.run.inst with
          | none => s.modRun k fun r => r.leave .ready
          | some i =>
            if s.onlyWaits k t i ∨ betweenIterations k t i then (s.withdrawWaits k).modRun k fun r => r.leave .ready
            else s.modRun k fun r => { r with forced := true })
  | .roundMarkerIssue, s =>
    if s.rounds.requested ∨ s.replayMode ≠ 0 then
      let s1 := s.pushMarkers s.rounds.issued
      some { s1 with rounds := { s1.rounds with issued := s1.rounds.issued + 1, requested := false } }
    else none
  | .regionRoundEdge u r, s =>
    let n := (s.unit u).edges.getD r 0
    if s.rounds.issued ≤ n ∨ regionsOf u ≤ r ∨ s.writeLog.logStalls ∨ s.mayPass u r n = false then none
    else
      let s1 := s.writeLog.modUnit u fun x => { x with edges := listSet x.edges r (n + 1) }
      match s1.holder u r with
      | some (k, t) => some (if s1.rounds.freezes.any fun q => q.folio == t.decl.folio && decide (q.round ≤ n) then s1.freezeStroke k else s1)
      | none => some s1
  | .phaseovf k n, s =>
    if n < 64 then (if (s.stroke k).any fun t => t.running then (s.stalled k n).map fun a => s.takeTrap k n 0x2B a else none)
    else
      match (s.stroke k).bind fun t => tabFind t.run.binds n with
      | none => none
      | some b =>
        if s.outStalled k (n - 64) = false then none
        else
          some ((s.modRun k fun q => { q with binds := tabPut q.binds n { b with sent := [], stopped := true } }).deferTrap k 0x2B
            (BitVec.ofNat 64 b.pos))
  | _, _ => none

/-! ## Words and streams (R48, R130–R138, R145, R148, R176) -/

/-- Word `n` of the network without its entry. -/
def without (s : State) (n : Nat) : State := { s with net := { s.net with words := listDrop s.net.words n } }

/-- A plain word that comes to a place of this module through no gateway. -/
def plainWord (s : State) (n : Nat) : Option NetWord :=
  match s.net.words[n]? with
  | none => none
  | some w =>
    if s.headOfLine n ∧ w.kind = 0 ∧ w.module = 0xFF ∧ w.gate = none ∧ s.absorber w = none then some w else none

/-- R145, R48: an inbox of fewer than eight words takes the word, and the sender's result goes out; a full one refuses it. -/
def wordArrives (s : State) (n : Nat) : Option State :=
  match plainWord s n with
  | none => none
  | some w =>
    let u := w.place / 64
    let ch := w.place % 64
    let q := (s.unit u).inbox ch
    if 8 ≤ q.length then some { s with net := { s.net with words := listSet s.net.words n { w with refused := true } } }
    else if tabFind (s.unit u).handlers ch = none then none
    else
      some (((without s n).modUnit u fun x =>
        { x.setInbox ch (q ++ [{ word := w.word, round := w.round }]) with halted := false }).delivered w)

/-- R48, R130, R133–R138, R145, R163, R177: arrival, retry, absorption and replication of words, of two multicasts
of a stroke that share a channel the earlier first; replies; stream elements read ahead and stored on the own window; a null token uses up its element with no access,
and a binding that a fault has stopped drops what it is sent. -/
def wordEvents : Instr → State → Option State
  | .channelWordArrival n, s => if (s.net.words[n]?).any (·.refused) then none else wordArrives s n
  | .inboxRetry n, s => if (s.net.words[n]?).any (·.refused) then wordArrives s n else none
  | .updateWordAbsorb n, s =>
    match s.net.words[n]? with
    | none => none
    | some w =>
      match s.absorber w with
      | none => none
      | some (k, i, h) =>
        if s.headOfLine n = false ∨ ((s.stroke k).any fun t => t.run.region.isSome && decide (s.edgeOf k t < w.round)) then none
        else
          let c := BitVec.ofNat 32 (w.word.toNat % 2 ^ 9)
          some ((((without s n).unhalt (w.place / 64)).setHandle k i
            (if w.word.getLsbD 55 then { h with tail := h.tail + c } else { h with head := h.head + c })).testArmed k i)
  | .pageArrivalAbsorb n, s =>
    match s.net.words[n]? with
    | none => none
    | some w =>
      if w.kind ≠ 2 then none
      else
        let s1 := (without s n).unhalt (w.place / 64)
        match s1.channelOwner (w.place / 64) (w.place % 64) with
        | none => some s1
        | some k =>
          some (match (s.stroke k).map (·.run) with
            | some r =>
              if r.state = .pagewait ∧ (r.waitPage.any fun p => arrivalWord p.1 p.2 == w.word) then
                s1.modRun k fun r => { r with state := .ready }
              else s1
            | none => s1)
  | .mcastReplicate n, s =>
    match s.net.mcasts[n]? with
    | none => none
    | some m =>
      if m.sent ∨ s.castMayGo m = false then none
      else
        some ((m.places.zip m.gates).foldl (fun t w => t.sendWord (.mcast m.id) m.round w.2 w.1.toNat m.word)
          { s with net := { s.net with mcasts := listSet s.net.mcasts n { m with sent := true } } })
  | .memoryReply n, s =>
    match s.net.replies[n]? with
    | none => none
    | some r =>
      match s.inst r.stroke with
      | none => none
      | some i =>
        match i.slots[r.slot]? with
        | none => none
        | some y =>
          if isSaved r.stroke ∨ r.cp ≠ none ∨ i.serial ≠ r.serial ∨ y.kept then none
          else
            some ((({ s with net := { s.net with replies := listDrop s.net.replies n } } : State).modSlot r.stroke r.slot fun y =>
              { y with mode := .ready, out1 := if y.to1 = 0 then none else some r.tok, out2 := if y.to2 = 0 then none else some r.tok }).flush
                r.stroke)
  | .streamReadAhead k port, s =>
    match s.stroke k with
    | none => none
    | some t =>
      match tabFind t.run.binds port with
      | none => none
      | some b =>
        let a := b.addr b.pos
        if 64 ≤ port ∨ t.run.frozen ∨ t.run.state = .pagewait ∨ b.count ≤ b.pos ∨ 64 ≤ (b.ahead.filter isTok).length ∨ b.ahead.any isFault ∨ b.skip ∨ b.raw ∨
            b.space ≠ 0 ∨ isScribe (unitOf k) ∨ a % 2 ^ b.size ≠ 0 ∨ a + 2 ^ b.size > t.decl.wsize ∨ s.mem.poison ≠ [] then none
        else
          let v := s.load k (spadKey (unitOf k) (t.decl.wbase + a)) (2 ^ b.size)
          let b' := { b with ahead := b.ahead ++ [.tok (BitVec.ofNat 64 v.1) false], pos := b.pos + 1 }
          some (v.2.modRun k fun q => { q with binds := tabPut q.binds port b' })
  | .streamOutStore k port, s =>
    match s.stroke k with
    | none => none
    | some t =>
      match tabFind t.run.binds (64 + port) with
      | none => none
      | some b =>
        let put (c : Binding) (s : State) : State := s.modRun k fun q => { q with binds := tabPut q.binds (64 + port) c }
        let next : Binding := { b with sent := b.sent.drop 1, pos := b.pos + 1, nibble := none }
        match b.sent with
        | some w :: _ =>
          let a := b.addr b.pos
          if b.stopped then some (put { b with sent := [] } s)
          else if b.raw ∨ b.space ≠ 0 ∨ isScribe (unitOf k) ∨ a % 2 ^ b.size ≠ 0 ∨ a + 2 ^ b.size > t.decl.wsize ∨ !unhindered s then none
          else
            some (put next (s.modMem fun m => m.localWrite (unitOf k) (spadKey (unitOf k) (t.decl.wbase + a)) (toBytes w.toNat (2 ^ b.size))))
        | none :: _ =>
          if b.stopped then some (put { b with sent := [] } s)
          else if s.perElement k b b.pos = 2 ∨ (b.nibble.getD none).isSome then none
          else some (put next s)
        | [] => none
  | _, _ => none

/-! ## Chains and engines (R165–R184, R384–R391, R404, R416, R417) -/

/-- The chain at a key, of the kind given, when it waits for no page. -/
def chainAt (s : State) (c kind : Nat) : Option Chain :=
  match tabFind s.eng.chains c with
  | some x => if x.kind = kind ∧ x.waiting = none then some x else none
  | none => none

/-- The state with entry `e` replaced in its chain. -/
def withEntry (s : State) (c : Nat) (e : ChainEntry) : State :=
  s.modChain c fun y => { y with entries := y.entries.map fun d => if d.num == e.num then e else d }

/-- The CODE of an entry, in bits 63:56 of its word, is written, and the entry is finished (R173); none while the page waits. -/
def finished (s : State) (c : Nat) (x : Chain) (e : ChainEntry) (code : Nat) : Option State :=
  match s.engWrite x (x.privOf e.priv) e.region (e.addr + 8 * codeWord x.kind + 7) [BitVec.ofNat 8 code] with
  | .ok t => some (t.modChain c fun y =>
      { y with entries := y.entries.map fun d => if d.num == e.num then { d with finished := true, code } else d })
  | _ => none

/-- R173, R170: the lowest entry is complete: it leaves the chain, which counts it, and stops after one that is not DONE where the entry asks for it; the wake
word of an entry that is no task goes out. -/
def counted (s : State) (c : Nat) (x : Chain) (e : ChainEntry) (rest : List ChainEntry) : State :=
  let stop := x.kind = 0 ∧ e.code ≠ 1 ∧ (e.words.getD 2 0).getLsbD 28
  let t := s.modChain c fun y => { y with entries := rest, completed := e.num, stopped := y.stopped || (y.kind == 0 && decide stop) }
  let w := (e.words.getD 7 0).toNat
  if x.kind ≠ 0 ∧ w / 2 ^ 63 = 1 then
    t.post (.engine (2 ^ 32 + c)) (placeOfWord (w % 2 ^ 18)) (BitVec.ofNat 64 (0x5E * 2 ^ 56 + e.num % 2 ^ 48))
  else t

/-- R169–R173, R183, R184, R388: an instance of a task is placed on nibs with room; a waiting chain ages; a task whose folios have all
ended with status 0 completes with CODE 1; the lowest finished entry is counted; halted and waiting chains go on; watchers wake. -/
def chainEvents : Instr → State → Option State
  | .taskDispatch c slab nibs, s =>
    match tabFind s.eng.chains c with
    | none => none
    | some x =>
      match x.entries.find? (·.waiting) with
      | none => none
      | some e =>
        if x.kind ≠ 0 ∨ x.stopped ∨ x.waiting ≠ none ∨ s.jobKilled x.job ∨ 11 < slab ∨ bit (taskAffinity e) slab = false ∨
            nibs.length ≠ taskNibs e ∨ ascending (nibs.map (s.nibSiteOf slab)) = false ∨ (nibs.any fun n => decide (160 ≤ n)) ∨ s.outranked c x ∨
            s.seamsPlaceable e slab nibs = false ∨ !(nibs.all fun n => s.nibFits x e (unitNum slab n)) then none
        else
          (s.placeFolio c x e slab nibs).map fun t =>
            let t := withEntry t c { e with toPlace := e.toPlace - 1, live := e.live + 1 }
            if e.toPlace = 1 then t.modChain c fun y => { y with age := 0 } else t
  | .chainAging c, s =>
    match tabFind s.eng.chains c with
    | none => none
    | some x =>
      if (x.kind = 0 ∧ x.entries.any (·.waiting) ∧ x.level < 7) ∨ (x.kind = 3 ∧ x.posted ≠ [] ∧ x.prio + x.age < 7) then
        some (s.setChain c { x with age := x.age + 1 })
      else none
  | .taskComplete c num, s =>
    match chainAt s c 0 with
    | none => none
    | some x =>
      match x.entries.find? (·.num == num) with
      | none => none
      | some e =>
        if e.finished ∨ e.words.length ≤ 8 ∨ e.toPlace ≠ 0 ∨ e.live ≠ 0 ∨ s.jobKilled x.job ∨ e.killed ∨ e.firstErr ≠ none then none
        else finished s c x e 1
  | .completionWrite c, s =>
    match tabFind s.eng.chains c with
    | none => none
    | some x =>
      match x.entries with
      | [] => none
      | e :: rest =>
        let seq := (e.words.getD (seqWord x.kind) 0).toNat
        let w1 := (e.words.getD 1 0).toNat
        let region := if x.kind = 0 then x.region else if x.kind = 3 then w1 / 2 ^ 32 % 2 ^ 16 else w1 / 2 ^ 16 % 2 ^ 16
        if e.finished = false ∨ e.num ≠ x.completed + 1 ∨ x.waiting ≠ none then none
        else if seq = 0 ∨ seq % 8 ≠ 0 then some (counted s c x e rest)
        else
          match s.engWrite x (x.privOf e.priv) region seq (toBytes e.num 8) with
          | .ok t => some (counted t c x e rest)
          | _ => none
  | .chainEntryReread c, s => (tabFind s.eng.chains c).map fun x => s.setChain c { x with halted := false }
  | .enginePageRewalk c, s =>
    match tabFind s.eng.chains c with
    | none => none
    | some x => if x.waiting = none ∨ x.links ≠ [] then none else some (s.setChain c { x with waiting := none, links := [] })
  | .seqWatcherWake n, s =>
    match s.eng.watchers[n]? with
    | none => none
    | some w =>
      if w.overflow ∨ (w.latched = false ∧ s.reached w = false) then none
      else
        let v := match w.key with
          | some _ => 0x5E * 2 ^ 56 + w.value.toNat % 2 ^ 48
          | none => 0xC0 * 2 ^ 56 + w.obj * 2 ^ 46 + s.applied w.obj w.slab % 2 ^ 46
        some (({ s with eng := { s.eng with watchers := listDrop s.eng.watchers n } } : State).post (.engine (w.place / 64)) w.place
          (BitVec.ofNat 64 v))
  | .seqOverflowScan slab, s =>
    let hit (w : Watcher) : Bool := w.overflow && w.slab == slab && (w.latched || s.reached w)
    some ((s.eng.watchers.filter hit).foldl (fun t w => t.post (.engine (w.place / 64)) w.place (t.watchWord w))
      { s with eng := { s.eng with watchers := s.eng.watchers.filter fun w => !hit w } })
  | _, _ => none

/-- The entry that an engine of a kind has taken up and not finished. -/
def running (s : State) (c kind : Nat) : Option (Chain × ChainEntry) :=
  match chainAt s c kind with
  | none => none
  | some x =>
    match x.entries with
    | e :: _ => if e.finished then none else some (x, e)
    | [] => none

/-- R416, R417: the next command of a swap entry, or none while an earlier one has failed. -/
def nextCommand (s : State) (c op : Nat) (x : Chain) (e : ChainEntry) : Issue :=
  let l := tabGet s.eng.swapCmds c []
  if l.any (·.status == some false) then .none
  else if op = 0 then s.nextWrite (engCtx x e) x e l else s.nextRead (engCtx x e) x e l

/-- R417: bytes are stored as entry `p`, of `n` bytes, of the queue whose base stands in word `i` of a queue pair's description. -/
def queueEntry (s : State) (slab q i n p : Nat) (bs : List Byte) : State :=
  s.modMem fun m => m.commitWrite (physKey 0 (s.csrGet 0x4D slab (4 * q + i) / 2 ^ 12 % 2 ^ 45 * 4096 + n * p)) (bs.take n)

/-- The entries that each queue of a pair holds: DEPTH, bits 59:48 of word 0, and 1. -/
def queueDepth (s : State) (slab q : Nat) : Nat := s.csrGet 0x4D slab (4 * q) / 2 ^ 48 % 2 ^ 12 + 1

/-- R416, R417: a command of 64 bytes is stored at the tail of its pair's submission queue, the tail goes on around the queue and is rung at the doorbell whose
address is word 3, and the pair has taken its turn. The command's bytes are open (log entry 82). -/
def commandSent (s : State) (c op : Nat) (x : Chain) (e : ChainEntry) (y : SwapCmd) : State :=
  let k := x.slab * 16 + y.pair
  let p := tabGet s.eng.swapQueues k (0, 0)
  let tail := (p.1 + 1) % queueDepth s x.slab y.pair
  (queueEntry s x.slab y.pair 1 64 p.1 (Config.swapCommand op p.1 (entryWord e 5) y.lba y.count)).modEng fun g =>
    { g with
      swapLast := tabPut g.swapLast x.slab y.pair, swapQueues := tabPut g.swapQueues k (tail, p.2),
      swapBells := tabPut g.swapBells (s.csrGet 0x4D x.slab (4 * y.pair + 3)) tail,
      swapCmds := tabPut g.swapCmds c (tabGet g.swapCmds c [] ++ [y]) }

/-- R417: command `n` of an entry has a completion of 16 bytes at the head of its pair's completion queue, which goes on, and has its status. -/
def commandDone (s : State) (c : Nat) (x : Chain) (n : Nat) (y : SwapCmd) (ok : Bool) : State :=
  let k := x.slab * 16 + y.pair
  let p := tabGet s.eng.swapQueues k (0, 0)
  let nsid := s.csrGet 0x4D x.slab (4 * y.pair) / 2 ^ 32 % 2 ^ 16
  (queueEntry s x.slab y.pair 2 16 p.2 (Config.swapCompletion nsid n ok)).modEng fun g =>
    { g with
      swapQueues := tabPut g.swapQueues k (p.1, (p.2 + 1) % queueDepth s x.slab y.pair),
      swapCmds := tabPut g.swapCmds c (listSet (tabGet s.eng.swapCmds c []) n { y with status := some ok }) }

/-- R390, R416, R417: one action of a swap engine. It sends the next command; when none can be sent, command `n` completes with a status, a Write
having put its image on the drive and a Read its page into the shadow page; when all have completed, an entry with a failed command finishes with CODE 6. -/
def swapAction (s : State) (c op n : Nat) (ok : Bool) (x : Chain) (e : ChainEntry) : Option State :=
  let l := tabGet s.eng.swapCmds c []
  match nextCommand s c op x e with
  | .cmd t y => some ((commandSent t c op x e y).engineBeats x (if op = 0 then 65536 else 0))
  | .none =>
    if l.all (·.status.isSome) then
      if l.any (·.status == some false) then some ((s.finishEntry c x e 6).dropCmds c) else none
    else
      match l[n]? with
      | none => none
      | some y =>
        if y.status.isSome then none
        else if ok then
          (if op = 0 then some (s.modMem fun m => m.setBytes (lbaKey x e y.lba) y.data) else swapRead (engCtx x e) x e y s).map
            fun t => commandDone t c x n y true
        else some (commandDone s c x n y false)
  | _ => none

/-- The commands of an entry have all succeeded and none is left to send, no update of its pages is in flight, and its CODE can be written. -/
def swapOver (s : State) (c op : Nat) (x : Chain) (e : ChainEntry) : Bool :=
  (match nextCommand s c op x e with | .none => true | _ => false) && (tabGet s.eng.swapCmds c []).all (·.status == some true) &&
    !((op == 1 || swapEvict e) && s.inFlight (inPages (engCtx x e).region (entryWord e 2) (entryWord e 3))) && !(s.finishEntry c x e 1).chainWaits c

/-- R175, R176, R250, R390, R416: a copy entry that runs to its end finishes with CODE 1 and sends its partner's update word; one that
breaks its layout finishes with CODE 7. A swap entry that breaks its layout does too; one whose commands have all succeeded finishes with CODE 1: a
swap-out that evicts clears P in the leaves, a swap-in publishes its pages and posts their arrival words. -/
def engineEntries : Instr → State → Option State
  | .copyEntry c, s =>
    match running s c 1 with
    | none => none
    | some (x, e) =>
      if copyBad e then finished s c x e 7
      else
        match if e.progress = 0 then s.decodesPast (engCtx x e) e else .ok false with
        | .ok true => finished s c x e 7
        | .ok false =>
          if s.copyStalls (engCtx x e) e then none
          else match copyRun (engCtx x e) e s with
          | (.done t, n) =>
            let all := if copyDecode e then copyProgress (2 * entryWord e 4) (2 * n) else entryWord e 4 / 16
            let t := withEntry (t.engineBeats x (entryWord e 4)) c { e with progress := all }
            if (t.finishEntry c x e 1).chainWaits c then none
            else if copyPublish e then
              match t.publishRange (engCtx x e) (entryWord e 3) n with
              | .ok (some t) => some (copyPartner c e (t.finishEntry c x e 1))
              | _ => none
            else some (copyPartner c e (t.finishEntry c x e 1))
          | (.fault t, _) => some (t.finishEntry c x e 6)
          | _ => none
        | _ => none
  | .swapOut c (n, ok), s =>
    match running s c 2 with
    | none => none
    | some (x, e) =>
      if s.swapBad x e then finished s c x e 7
      else if swapOp e ≠ 0 then none
      else if swapOver s c 0 x e then
        let t := (s.finishEntry c x e 1).dropCmds c
        let region := (engCtx x e).region
        some (if swapEvict e then (t.evictPages (engCtx x e) (entryWord e 2) (span 0 (entryWord e 3))).invalidate
          (inPages region (entryWord e 2) (entryWord e 3)) else t)
      else swapAction s c 0 n ok x e
  | .swapIn c (n, ok), s =>
    match running s c 2 with
    | none => none
    | some (x, e) =>
      let k := engCtx x e
      if s.swapBad x e then finished s c x e 7
      else if swapOp e ≠ 1 then none
      else if swapOver s c 1 x e then
        match s.checkPages k.part k.priv k.region (entryWord e 2) (entryWord e 3) 2 (entryWord e 3) 0 [] with
        | .ok leaves =>
          let t := (s.exchange k.region leaves).invalidate (inPages k.region (entryWord e 2) (entryWord e 3))
          some ((((t.finishEntry c x e 1).dropCmds c).engineBeats x (65536 * entryWord e 3)).arrivals k.region (entryWord e 2 / 65536)
            (entryWord e 3))
        | _ => some ((s.finishEntry c x e 6).dropCmds c)
      else swapAction s c 1 n ok x e
  | _, _ => none

/-! ## Lane runs, matrix entries and tile-tasks (R201, R204, R213, R224–R226) -/

/-! ### A lane stage (R190–R194) -/

/-- R193: the head of lane `i`: the highest lane at or below it whose head flag is set. -/
def laneHead (heads i : Nat) : Option Nat := ((span 0 (i + 1)).filter heads.testBit).getLast?

/-- The lanes of a beat in the segment of lane `i`. -/
def segment (heads i : Nat) : List Nat := (span 0 16).filter fun j => laneHead heads j == laneHead heads i

/-- −0 is below +0. -/
def lessNum (x y : Sys2Proof.Machine.Num) : Bool := (x == .zero true && y == .zero false) || decide (cmpNum x y < 0)

/-- RMAX of R193: the largest code of a segment under the number policy. NV is 16, UF with NX 3. -/
def largest (fi fo : Bool) (l : List Nat) : Flagged Nat :=
  let v (c : Nat) := operand .f32 fi c
  if l.any fun c => (v c).isSig then (0x7FC00000, 16)
  else
    let numbers := l.filter fun c => !(v c).isNan
    match numbers.find? fun c => numbers.all fun d => !lessNum (v c) (v d) with
    | none => (0x7FC00000, 0)
    | some c =>
      if isSubnormal .f32 c && (fi || fo) then (c % 2 ^ 32 / 2 ^ 31 * 2 ^ 31, if fi then 0 else 3) else (c % 2 ^ 32, 0)

/-- SIGM, 1 / (1 + e^−a): the values of R192, and for a finite nonzero operand the exact value rounded where its enclosure decides the rounding; else the
free value of the model's function (log entry 1). The series gives e^|a| as a number of 400 binary places times a power of two. -/
def logistic (rm : BitVec 2) (fi fo : Bool) (a : Nat) : Flagged Nat :=
  let o := BitVec.ofBool fo
  match operand .f32 fi a with
  | .nan sig => (0x7FC00000, if sig then 16 else 0)
  | .inf neg => (if neg then 0 else 0x3F800000, 0)
  | .zero _ => (0x3F000000, 0)
  | .fin neg n d =>
    if 200 * d ≤ n then
      roundNum .f32 (.ofBits rm.toNat) fo (if neg then .fin false (2 ^ 40 + 1) (2 ^ 240) else .fin false (2 ^ 100 - 1) (2 ^ 100))
    else if n * 2 ^ 40 < d then roundNum .f32 (.ofBits rm.toNat) fo (.fin false (if neg then 2 ^ 100 - 1 else 2 ^ 100 + 1) (2 ^ 101))
    else
      let e := (expSplit n d).1 * 2 ^ (expSplit n d).2
      let v := (if neg then 2 ^ 400 else e) * 2 ^ 700 / (2 ^ 400 + e)
      (between rm o false (v - 2 ^ 340) (v + 2 ^ 340) (2 ^ 700)).getD (fpFunction 5 rm.toNat fi fo a)

/-- Table 7-3: what lane `i` of a beat delivers at a stage whose field has the operation `op`, BSRC `src` and KSEL `k`. `a` is the beat as the stage
receives it, `x` and `y` the beats of X and Y, `cy` the stage's carry, `ks` the constants, `bn` the permutation sets; 0x00 is PASS. -/
def laneDelivers (rm : BitVec 2) (fi fo : Bool) (op src k heads cy : Nat) (ks bn x y a : List Nat) (i : Nat) : Flagged Nat :=
  let round := Round.ofBits rm.toNat
  let i1 := BitVec.ofBool fi
  let o1 := BitVec.ofBool fo
  let ai := a.getD i 0
  let b := if src = 2 then y.getD i 0 else if src = 3 then x.getD i 0 else ks.getD k 0
  let c := ks.getD (if op = 0x04 ∧ src ≠ 1 then k else (k + 1) % 8) 0
  let v (n : Nat) := operand .f32 fi n
  let pick (larger : Bool) (q o : BitVec 1) (p r : Nat) : Flagged Nat :=
    let t := minMax larger q i1 o (BitVec.ofNat 64 p) (BitVec.ofNat 64 r)
    (t.1.toNat, t.2)
  match op with
  | 0x01 => fpSum .f32 round fo [] [v ai, v b]
  | 0x02 => fpSum .f32 round fo [] [v ai, (v b).negate]
  | 0x03 => fpMul .f32 round fo (v ai) (v b)
  | 0x04 => fpSum .f32 round fo [(v ai, v b)] [v c]
  | 0x05 => pick false 0 o1 ai b
  | 0x06 => pick true 0 o1 ai b
  | 0x07 => (ai % 2 ^ 31, 0)
  | 0x08 => (ai ^^^ 2 ^ 31, 0)
  | 0x09 => fpFunction 0 rm.toNat fi fo ai
  | 0x0A => fpFunction 1 rm.toNat fi fo ai
  | 0x0B => fpFunction 2 rm.toNat fi fo ai
  | 0x0C => fpFunction 3 rm.toNat fi fo ai
  | 0x0D => fpFunction 4 rm.toNat fi fo ai
  | 0x0E => logistic rm fi fo ai
  | 0x0F =>
    let low := pick true 1 0 ai b
    let high := pick false 1 o1 low.1 c
    (high.1, low.2 ||| high.2)
  | 0x10 =>
    match Fmt.ofCode k with
    | some f =>
      let t := converted .f32 f rm i1 o1 (BitVec.ofNat 64 ai)
      (widen f t.1.toNat, t.2)
    | none => (ai, 0)
  | 0x11 =>
    match laneHead heads i with
    | some j => fpSum .f32 round fo [] ((span j (i + 1 - j)).map fun n => v (a.getD n 0))
    | none => fpSum .f32 round fo [] (decodeNum .f32 cy :: (span 0 (i + 1)).map fun n => v (a.getD n 0))
  | 0x12 => fpSum .f32 round fo [] ((segment heads i).map fun n => v (a.getD n 0))
  | 0x13 => largest fi fo ((segment heads i).map fun n => a.getD n 0)
  | 0x14 => ((benes a (bn.getD k 0)).getD i 0, 0)
  | 0x15 => (if i = 0 then cy else a.getD (i - 1) 0, 0)
  | 0x16 => (match laneHead heads i with | some j => a.getD j 0 | none => cy, 0)
  | 0x17 =>
    if (v ai).isNan || (v b).isNan then (0, 16) else (if cmpNum (v ai) (v b) > 0 then 0x3F800000 else 0, 0)
  | _ => (ai, 0)

/-- The carries of the six stages, and the flags of the sixteen lanes. -/
abbrev Tally := List Nat × List Flags

/-- The stages named, in order, over one beat: each keeps a carry, what lane 15 delivers, or for SHUP what it receives. -/
def throughStages (c m : Nat) (ks bn : List Nat) (b : Beat) : List Nat → List Nat → Tally → List Nat × Tally
  | [], a, t => (a, t)
  | st :: rest, a, (cy, fl) =>
    let f := c / 2 ^ (10 * st) % 2 ^ 10
    let out := (span 0 16).map
      (laneDelivers (BitVec.ofNat 2 m) (m.testBit 3) (m.testBit 4) (f / 32) (f / 8 % 4) (f % 8) b.heads (cy.getD st 0) ks bn b.x b.y a)
    let cy := listSet cy st (if f / 32 = 0x15 then a.getD 15 0 else (out.getD 15 (0, 0)).1)
    throughStages c m ks bn b rest (out.map (·.1)) (cy, List.zipWith (· ||| ·) fl (out.map (·.2)))

/-- The flags of some results. -/
def raisedBy (l : List (Flagged Nat)) : Flags := l.foldl (fun f r => f ||| r.2) 0

/-- R196, softmax of a row: 2^(z − m) over their sum, m the largest z. -/
def softmaxRow (z : List Nat) : List Nat × Flags :=
  let num := decodeNum .f32
  let m := (largest false false z).1
  if (z.any fun c => (num c).isNan) || m == 0x7F800000 then (z.map fun _ => 0x7FC00000, 16)
  else if m = 0xFF800000 then (z.map fun _ => 0, 0)
  else
    let d := z.map fun c => fpSum .f32 .rne false [] [num c, (num m).negate]
    let u := d.map fun t => fpFunction 2 0 false false t.1
    let sum := fpSum .f32 .rne false [] (u.map fun t => num t.1)
    let r := fpFunction 0 0 false false sum.1
    let y := u.map fun t => fpMul .f32 .rne false (num t.1) (num r.1)
    (y.map (·.1), raisedBy d ||| raisedBy u ||| sum.2 ||| r.2 ||| raisedBy y)

/-- The `n`-th part of a number. -/
def partOf (n : Nat) : Sys2Proof.Machine.Num → Sys2Proof.Machine.Num
  | .fin neg a b => .fin neg a (b * n)
  | x => x

/-- R196, RMS normalisation of a row: z / √(mean of z² + K7), the mean with K7 rounded once. -/
def rmsRow (k7 : Nat) (z : List Nat) : List Nat × Flags :=
  let v := z.map (decodeNum .f32)
  let mean := sumNum .rne (v.map (fun x => partOf z.length (mulNum x x).1) ++ [decodeNum .f32 k7])
  let w := roundNum .f32 .rne false mean.1
  let r := fpFunction 1 0 false false w.1
  let y := v.map fun x => fpMul .f32 .rne false x (decodeNum .f32 r.1)
  (y.map (·.1), mean.2 ||| w.2 ||| r.2 ||| raisedBy y ||| if v.any (·.isSig) then 16 else 0)

/-- R196, layer normalisation of a row: (z − μ) / √(mean of (z − μ)² + K7), the differences exact. -/
def layerRow (k7 : Nat) (z : List Nat) : List Nat × Flags :=
  let v := z.map (decodeNum .f32)
  let mean := sumNum .rne (v.map (partOf z.length))
  let mu := roundNum .f32 .rne false mean.1
  let d := v.map fun x => sumNum .rne [x, (decodeNum .f32 mu.1).negate]
  let q := sumNum .rne (d.map (fun t => partOf z.length (mulNum t.1 t.1).1) ++ [decodeNum .f32 k7])
  let w := roundNum .f32 .rne false q.1
  let r := fpFunction 1 0 false false w.1
  let y := d.map fun t => fpMul .f32 .rne false t.1 (decodeNum .f32 r.1)
  (y.map (·.1), mean.2 ||| mu.2 ||| (d.foldl (fun f t => f ||| t.2) 0) ||| q.2 ||| w.2 ||| r.2 ||| raisedBy y)

/-- R192: the output conversion, which keeps a NaN's payload in FP32 only. -/
def outCode (f : Fmt) (rm : BitVec 2) (fo : Bool) (c : Nat) : Flagged Nat :=
  let x := decodeNum .f32 c
  if x.isNan then (if f = .f32 then (c, 0) else (f.nan, if x.isSig then 16 else 0)) else roundNum f (.ofBits rm.toNat) fo x

/-- R187, R195: the beats of one row pass stages 0 and 1, the scaling of its mode, stages 2 to 5 and the output conversion; the flags of the statistics
path go to lane 0. -/
def laneRowOut (c m : Nat) (ks bn : List Nat) (f : Fmt) (row : List Beat) (t : Tally) : List (List Nat) × Tally :=
  let front := row.foldl (fun (p : List (List Nat) × Tally) b =>
    let r := throughStages c m ks bn b [0, 1] b.x p.2
    (p.1 ++ [r.1], r.2)) ([], t)
  let z := front.1.flatten
  let mode := c / 2 ^ 61 % 4
  let y := if mode = 0 then (z, 0) else if mode = 1 then softmaxRow z else if mode = 2 then rmsRow (ks.getD 7 0) z else layerRow (ks.getD 7 0) z
  let t := if mode = 0 then front.2 else (front.2.1, List.zipWith (· ||| ·) front.2.2 (y.2 :: List.replicate 15 0))
  let back := row.foldl (fun (p : List (List Nat) × Tally × List Nat) b =>
    let r := throughStages c m ks bn b [2, 3, 4, 5] (p.2.2.take 16) p.2.1
    let o := r.1.map (outCode f (BitVec.ofNat 2 m) (m.testBit 4))
    (p.1 ++ [o.map (·.1)], (r.2.1, List.zipWith (· ||| ·) r.2.2 (o.map (·.2))), p.2.2.drop 16)) ([], t, y.1)
  (back.1, back.2.1)

/-- R201: the rows of a run in ascending order, `n` of them from beat `b` on; each reads its streams after the beats before it have been written. -/
def laneRowsOut (s : State) (u : Nat) (r : LaneRun) (per : Nat) : Nat → Nat → Tally → List (List Nat) → List (List Nat) × Tally
  | 0, _, t, out => (out, t)
  | n + 1, b, t, out =>
    let inp := s.laneBeats u r { beats := out, turn := s.fresh } b per
    let f : Fmt := if descOut r.desc = 0 then .f32 else if descOut r.desc = 1 then .f16 else .bf16
    let row := laneRowOut r.config.toNat r.modifier (descKs r.desc) (r.bn.map (·.toNat)) f inp.1 (t.1, List.zipWith (· ||| ·) t.2 inp.2)
    laneRowsOut s u r per n (b + per) row.2 (out ++ row.1)

/-- The beats that a run writes, and the flags of its lanes: a carry is +0 at the start of the run. -/
def laneOutput (s : State) (u : Nat) (r : LaneRun) : List (List Nat) × List Flags :=
  let per := if r.config.toNat / 2 ^ 61 % 4 = 0 then 1 else descRow r.desc
  let o := laneRowsOut s u r per (descBeats r.desc / per) 0 (List.replicate 6 0, List.replicate 16 0) []
  (o.1, o.2.2)

/-! ### A matrix entry (R209, R213, R217–R219, R221, R344) -/

/-- Nibbles of an element of FP16 or BF16, D8 or INT8, and D4. -/
def elemNibbles (fmt : Nat) : Nat := if fmt = 1 ∨ fmt = 2 then 4 else if fmt = 3 ∨ fmt = 5 then 2 else if fmt = 4 then 1 else 0

/-- The number of element `k` of a line whose bytes, as one number, are `v`. -/
def elemNum (fmt v k : Nat) : Sys2Proof.Machine.Num :=
  let n := elemNibbles fmt
  decodeNum ((Fmt.ofCode fmt).getD .f16) (v / 2 ^ (4 * n * k) % 2 ^ (4 * n))

/-- R209: where line `m` of step `j` of an operand lies: in the tile registers, or in the window. -/
def lineKey (u : Nat) (e : MatrixEntry) (w0 w1 m j : Nat) : Nat :=
  let line := 16 * elemNibbles (w1 / 2 ^ 24 % 16)
  if w1 / 2 ^ 28 % 4 = 1 then
    let q := 4096 / (64 * line)
    tileKey u ((w0 % 8 + j / q) * 4096 + j % q * 64 * line + m * line)
  else
    let o : Int := (w0 % 2 ^ 21 : Nat) + m * toSigned (w0 / 2 ^ 32 % 2 ^ 16) 16 + (16 * (m * (w1 / 2 ^ 32 % 8) % 32) + j * (w1 % 2 ^ 21) : Nat)
    spadKey u (e.wbase + o.toNat)

/-- R213: the 32 numbers of a line; a damaged element is the default NaN, or 0 for INT8. -/
def operandLine (s : State) (u : Nat) (e : MatrixEntry) (w0 w1 m j : Nat) : List Sys2Proof.Machine.Num :=
  let fmt := w1 / 2 ^ 24 % 16
  let n := elemNibbles fmt
  let key := lineKey u e w0 w1 m j
  let v := s.mem.engineGet (e.reader u) key (16 * n)
  (span 0 32).map fun k =>
    if (s.mem.poisoned (key + k * n / 2) ((n + 1) / 2)).isSome then (if fmt = 5 then .zero false else .nan false) else elemNum fmt v k

/-- R76, R217: one word of a step: the accumulator and the exact sum of 32 products, rounded once to FP32, or for INT8 saturated to INT32 (OF with NX, 5). NV
(16) is for a NaN operand, or a product or sum that is invalid. -/
def mmaWord (int : Bool) (acc : Nat) (l : List (Sys2Proof.Machine.Num × Sys2Proof.Machine.Num)) : Flagged Nat :=
  if int then
    let t := l.foldl (fun a p => a + p.1.frac.1 * p.2.frac.1) (toSigned acc 32)
    let r := max (-2 ^ 31) (min (2 ^ 31 - 1) t)
    ((r % 2 ^ 32).toNat, if r = t then 0 else 5)
  else
    let products := l.map fun p => mulNum p.1 p.2
    let sum := sumNum .rne (decodeNum .f32 acc :: products.map (·.1))
    let c := roundNum .f32 .rne false sum.1
    (c.1, sum.2 ||| c.2 ||| if (l.any fun p => p.1.isNan || p.2.isNan) || products.any (·.2) then 16 else 0)

/-- The 4,096 words of a tile in row order after one step on the lines of its operands, and the flags raised. -/
def mmaStep (int : Bool) (t : List Nat) (as bs : List (List Sys2Proof.Machine.Num)) : List Nat × Flags :=
  let r := t.zipIdx.map fun w => mmaWord int w.1 (List.zip (as.getD (w.2 / 64) []) (bs.getD (w.2 % 64) []))
  (r.map (·.1), raisedBy r)

/-- The steps named, in order. -/
def mmaSteps (int : Bool) (as bs : Nat → List (List Sys2Proof.Machine.Num)) : List Nat → List Nat → Flags → List Nat × Flags
  | [], t, f => (t, f)
  | j :: rest, t, f =>
    let r := mmaStep int t (as j) (bs j)
    mmaSteps int as bs rest r.1 (f ||| r.2)

/-- R26: where row `r` of tile `t` begins in the accumulator store of a unit: rows 64 (t div 4) on, columns 64 (t mod 4) on, of 256 words each. -/
def tileRowKey (u t r : Nat) : Nat := accKey u (4 * (256 * (64 * (t / 4) + r) + 64 * (t % 4)))

/-- The words of a tile; `lost` is taken for a damaged one (R213). -/
def tileWords (m : Memory) (u t lost : Nat) : List Nat :=
  (span 0 4096).map fun i =>
    let key := tileRowKey u t (i / 64) + 4 * (i % 64)
    if (m.poisoned key 4).isSome then lost else ofBytes (m.bytes key 4)

/-- A tile takes the words `l`. -/
def withTile (m : Memory) (u t : Nat) (l : List Nat) : Memory :=
  (span 0 64).foldl (fun m r => m.commitWrite (tileRowKey u t r) (((l.drop (64 * r)).take 64).flatMap (toBytes · 4))) m

/-- R343, R344: row `m`, column `c` of a drain lies in the block's square of nodes and its bit there is 0, or right of it and bit 24 says so. -/
def maskedAt (b : List Word) (m c : Nat) : Bool :=
  let w := (b.getD 4 0).toNat
  let n := w / 2 ^ 16 % 2 ^ 5
  let row := w % 2 ^ 6
  let col := w / 2 ^ 8 % 2 ^ 6
  decide (row ≤ m ∧ m < row + n ∧ col ≤ c) &&
    if c < col + n then !((b.getD ((m - row) / 4) 0).toNat / 2 ^ (16 * ((m - row) % 4)) % 2 ^ 16).testBit (c - col) else w.testBit 24

/-- R221: the code that a drain writes for a word: as it stands for FP32 (0) and INT32 (7), clamped for INT8 (5), else rounded. -/
def drainedCode (f : Nat) (rm : Round) (v : Nat) : Flagged Nat :=
  if f = 0 ∨ f = 7 then (v, 0)
  else if f = 5 then
    let t := toSigned v 32
    let r := max (-128) (min 127 t)
    ((r % 2 ^ 8).toNat, if r = t then 0 else 5)
  else
    let x := decodeNum .f32 v
    let r := roundNum ((Fmt.ofCode f).getD .f16) rm false x
    (r.1, r.2 ||| if x.isSig then 16 else 0)

/-- The bytes of a drained row: 4, 2 or 1 bytes an element, or for D4 two elements a byte, the low nibble first. -/
def drainedRow (f : Nat) (l : List Nat) : List Byte :=
  if f = 4 then pairNibbles l else l.flatMap (toBytes · (if f = 0 ∨ f = 7 then 4 else if f = 1 ∨ f = 2 then 2 else 1))

/-- A list in rows of 64, `n` of them. -/
def inRows (n : Nat) (l : List Nat) : List (List Nat) := (span 0 n).map fun r => (l.drop (64 * r)).take 64

/-- What an entry does when it executes: the memory, the flags, and the block that TMLOAD places. A damaged word of ACCRD, ACCWR or a floating-point tile is the
default NaN, of an INT8 or INT32 one 0 (log entry 63). -/
def entryEffect (s : State) (u : Nat) (e : MatrixEntry) : Memory × Flags × Option (List Word) :=
  match e.op with
  | .mma a0 a1 b0 b1 ctl sf =>
    let c := ctl.toNat
    let int := decide (a1.toNat / 2 ^ 24 % 16 = 5)
    let t := if c.testBit 11 then List.replicate 4096 0 else tileWords s.mem u (c % 16) (if int then 0 else 0x7FC00000)
    let lines (w0 w1 : Word) (j : Nat) := (span 0 64).map fun m => operandLine s u e w0.toNat w1.toNat m j
    let r := mmaSteps int (lines a0 a1) (lines b0 b1) (span 0 (c / 2 ^ 4 % 2 ^ 7 + 1)) t 0
    (withTile s.mem u (c % 16) r.1, if sf then 0 else r.2, none)
  | .kld k off => (s.mem.commitWrite (tileKey u (4096 * k)) (s.mem.engineBytes (e.reader u) (spadKey u (e.wbase + off)) 4096), 0, none)
  | .accz mask => (((span 0 16).filter mask.testBit).foldl (fun m t => withTile m u t (List.replicate 4096 0)) s.mem, 0, none)
  | .accrd ctl off =>
    let t := tileWords s.mem u (ctl.toNat % 16) 0x7FC00000
    (s.mem.writeRows (spadKey u (e.wbase + off)) (ctl.toNat / 2 ^ 16 % 2 ^ 16) ((inRows 64 t).map fun l => l.flatMap (toBytes · 4)), 0, none)
  | .accwr ctl off =>
    let row (r : Nat) : List Nat :=
      let key := spadKey u (e.wbase + off + r * (ctl.toNat / 2 ^ 16 % 2 ^ 16))
      let bs := s.mem.engineBytes (e.reader u) key 256
      (span 0 64).map fun i => if (s.mem.poisoned (key + 4 * i) 4).isSome then 0x7FC00000 else ofBytes ((bs.drop (4 * i)).take 4)
    (withTile s.mem u (ctl.toNat % 16) ((span 0 64).flatMap row), 0, none)
  | .drain ctl _ r1 dst =>
    let w := r1.toNat
    let f := w / 2 ^ 32 % 2 ^ 4
    let rows := w / 2 ^ 42 % 2 ^ 6 + 1
    let t := ctl.toNat % 16
    let l := (tileWords s.mem u t (if f = 5 ∨ f = 7 then 0 else 0x7FC00000)).take (64 * rows)
    let out := l.zipIdx.map fun v =>
      drainedCode f (.ofBits (w / 2 ^ 40 % 4)) (if w.testBit 38 && maskedAt (s.unit u).matrix.mask (v.2 / 64) (v.2 % 64) then 0xFF800000 else v.1)
    let m := s.mem.writeRows dst.toNat (w % 2 ^ 16) ((inRows rows (out.map (·.1))).map (drainedRow f))
    (if w.testBit 37 then withTile m u t (List.replicate 4096 0) else m, if w.testBit 39 then 0 else raisedBy out, none)
  | .tmload b => (s.mem, 0, some b)

/-! ### A tile-task (R224, R225) -/

/-- The entry breaks Table 8-8: a reserved field, its formats, its bases or its pitches. -/
def taskMalformed (e : ChainEntry) : Bool :=
  let w := entryWord e
  let a := w 1 / 2 ^ 24 % 16
  let b := w 1 / 2 ^ 20 % 16
  let f := w 1 / 2 ^ 28 % 16
  let pair := (a == b && (a == 1 || a == 2 || a == 5)) || ((a == 3 || a == 4) && (b == 3 || b == 4))
  let size := if f = 0 ∨ f = 7 then 256 else if f = 1 ∨ f = 2 then 128 else if f = 4 then 32 else 64
  let pitches := [w 6 % 2 ^ 21, w 6 / 2 ^ 21 % 2 ^ 21, w 6 / 2 ^ 42 % 2 ^ 21]
  decide (w 1 / 2 ^ 53 % 8 ≠ 0 ∨ w 1 % 2 ^ 9 ≠ 0 ∨ w 6 / 2 ^ 63 ≠ 0 ∨ w 7 / 2 ^ 18 % 2 ^ 45 ≠ 0) || !pair || !(f ≤ 5 || f == 7) ||
    ([w 2, w 3, w 4] ++ pitches).any (fun p => decide (p % 16 ≠ 0)) || decide (w 6 / 2 ^ 42 % 2 ^ 21 < size) || ((w 1).testBit 10 && !(w 1).testBit 9)

/-- R225: the 64 lines, from line `m` on, of an operand in step `j`, read raw; a fault or an absent page ends the reading. -/
def taskLines (s : State) (k : EngCtx) (base pitch fmt j m : Nat) : Nat → Eng (List (List Sys2Proof.Machine.Num))
  | 0 => .ok []
  | n + 1 =>
    let line := 16 * elemNibbles fmt
    (s.engBytes k.part k.priv k.region k.rd (base + m * pitch + j * line) line).andThen fun bs =>
      (taskLines s k base pitch fmt j (m + 1) n).andThen fun l => .ok ((span 0 32).map (elemNum fmt (ofBytes bs)) :: l)

/-- The steps from `j` on: both operands are read, and the step is that of an MMA. -/
def taskSteps (s : State) (k : EngCtx) (e : ChainEntry) (j : Nat) : Nat → List Nat → Flags → Eng (List Nat × Flags)
  | 0, t, f => .ok (t, f)
  | n + 1, t, f =>
    let w1 := entryWord e 1
    (taskLines s k (entryWord e 2) (entryWord e 6 % 2 ^ 21) (w1 / 2 ^ 24 % 16) j 0 64).andThen fun as =>
      (taskLines s k (entryWord e 3) (entryWord e 6 / 2 ^ 21 % 2 ^ 21) (w1 / 2 ^ 20 % 16) j 0 64).andThen fun bs =>
        let r := mmaStep (decide (w1 / 2 ^ 24 % 16 = 5)) t as bs
        taskSteps s k e (j + 1) n r.1 (f ||| r.2)

/-- The granules of the result, in order: row `r` is at DBASE + r DPITCH. -/
def taskGranules (e : ChainEntry) (rows : List (List Byte)) : List (Nat × List Byte) :=
  rows.zipIdx.flatMap fun r =>
    (span 0 (r.1.length / 16)).map fun g => (entryWord e 4 + r.2 * (entryWord e 6 / 2 ^ 42 % 2 ^ 21) + 16 * g, (r.1.drop (16 * g)).take 16)

/-- The granules are written in order, to the shadow pages where SHADOW says so; a fault (CODE 6) leaves what has been written, and an absent page leaves the rest for
later. Then PUBLISH makes the shadow pages the primary ones (CODE 1). -/
def taskStores (k : EngCtx) (e : ChainEntry) (f : Flags) : List (Nat × List Byte) → State → TileRan
  | [], s =>
    if (entryWord e 1).testBit 10 then
      match s.publishRange k (entryWord e 4) (63 * (entryWord e 6 / 2 ^ 42 % 2 ^ 21) + rowBytes (entryWord e 1 / 2 ^ 28 % 16)) with
      | .ok (some t) => .code t 1 f
      | .ok none => .later s
      | .absent r p => .wait s r p (some ([], f))
      | .fault _ => .code s 6 f
    else .code s 1 f
  | (a, bs) :: t, s =>
    match s.writeAt k 1 a ((entryWord e 1).testBit 9) with
    | .fault _ => .code s 6 f
    | .absent r p => .wait s r p (some ((a, bs) :: t, f))
    | .ok d => taskStores k e f t (s.putAt d bs)

/-- R225: a tile-task starts, or goes on with what it has computed: CODE 7 for a malformed entry, 6 for a fault; else it reads, computes as an MMA with ZERO, converts as a drain
without a mask, and stores. -/
def taskRuns (x : Chain) (e : ChainEntry) (begun : Option (List (Nat × List Byte) × Flags)) (s : State) : TileRan :=
  let k : EngCtx := { engCtx x e with region := entryWord e 1 / 2 ^ 32 % 2 ^ 16 }
  let w1 := entryWord e 1
  match begun with
  | some (l, f) => taskStores k e f l s
  | none =>
    if taskMalformed e then .code s 7 0
    else
      match taskSteps s k e 0 (w1 / 2 ^ 13 % 2 ^ 7 + 1) (List.replicate 4096 0) 0 with
      | .fault _ => .code s 6 0
      | .absent r p => .wait s r p none
      | .ok (t, f) =>
        let fmt := w1 / 2 ^ 28 % 16
        let out := t.map (drainedCode fmt (.ofBits (w1 / 2 ^ 11 % 4)))
        taskStores k e (f ||| raisedBy out) (taskGranules e ((inRows 64 (out.map (·.1))).map (drainedRow fmt))) s

/-- R225: at completion the FLAGS are written, in bits 52:48 of word 1, and then the CODE. -/
def taskFinished (s : State) (c : Nat) (x : Chain) (e : ChainEntry) (code : Nat) (f : Flags) : State :=
  (match s.engWrite x e.priv e.region (e.addr + 14) [BitVec.ofNat 8 f.toNat] with
    | .ok t => t
    | _ => s).finishEntry c x e code

/-! ### The events -/

/-- R226: another chain of tile-tasks of the slab stands at a higher level, its head can be read, and a local queue takes it. -/
def tileOutranked (s : State) (c : Nat) (x : Chain) : Bool :=
  s.eng.chains.any fun y => y.1 != c && y.2.kind == 3 && y.2.slab == x.slab && decide (min 7 (x.prio + x.age) < min 7 (y.2.prio + y.2.age)) &&
    !y.2.posted.isEmpty && !y.2.halted && y.2.waiting.isNone && (s.tileChoice y.2.slab y.2.part).isSome

/-- R226: the entries of a local queue that have not started. -/
def unstarted (s : State) (u : Nat) : List (Nat × Nat × Nat) :=
  let q := (s.unit u).matrix
  q.tiles.drop (if q.tileRunning then 1 else 0)

/-- The head of a local queue has been run. -/
def tilesLeft (s : State) (u : Nat) (rest : List (Nat × Nat × Nat)) : State :=
  s.modUnit u fun z => { z with matrix := { z.matrix with tiles := rest, tileAged := false, tileRunning := false, tileRows := none } }

/-- R201, R204, R213, R225, R226, R425: the head run of a lane pipe starts, reading its streams, and completes: its beats and flags are written, its
ticket is counted and its wake word is posted; the head entry of a matrix queue executes whole and completes, its ticket counted and sent. A tile-task goes to
a local queue, an idle engine takes the oldest unstarted entry of the longest other queue, and the head of a queue runs. -/
def unitEvents : Instr → State → Option State
  | .laneRunStart u, s =>
    match (s.unit u).lane.queue with
    | [] => none
    | r :: rest =>
      if r.started then none
      else
        let out := laneOutput s u r
        let r' := { r with
          started := true, beats := out.1.map fun b => b.map fun v => BitVec.ofNat 64 v,
          flags := if r.modifier.testBit 2 then List.replicate 16 0 else out.2 }
        some { s.modUnit u (fun x => { x with lane := { x.lane with queue := r' :: rest } }) with fresh := s.fresh + 48 * descBeats r.desc }
  | .laneRunComplete u, s =>
    match (s.unit u).lane.queue with
    | [] => none
    | r :: rest =>
      let size := beatBytes (descOut r.desc)
      let wake := (r.desc.getD 7 0).toNat
      if r.started = false ∨ s.heldFrom r.stroke r.bnd (spadKey u (r.wbase + descD r.desc)) (size * r.beats.length) then none
      else
        let t := (s.modMem fun m => m.writeBeats u (r.wbase + descD r.desc) size r.beats).modUnit u fun x =>
          ({ x with lane := { x.lane with
              queue := rest, completed := BitVec.ofNat 64 r.ticket,
              lflags0 := x.lane.lflags0 ||| BitVec.ofNat 64 (lflagsWord (r.flags.take 12)),
              lflags1 := x.lane.lflags1 ||| BitVec.ofNat 64 (lflagsWord (r.flags.drop 12)) } } : UnitSt).releaseWindows
        some (match t.stroke r.stroke with
          | none => t
          | some y =>
            if wake / 2 ^ 63 = 1 ∧ y.run.serial / 2 ^ 64 = r.serial / 2 ^ 64 then
              t.post (.engine (unitOf r.stroke)) (unitOf r.stroke * 64 + y.decl.chbase + wake % 64)
                (BitVec.ofNat 64 (0x1A * 2 ^ 56 + r.ticket % 2 ^ 56))
            else t)
  | .matrixEntryExecute u, s =>
    let q := (s.unit u).matrix
    match q.queue with
    | [] => none
    | e :: rest =>
      if e.executed ∨ s.slewHolds u ∨ s.entryHeld u e ∨ q.tileRunning ∨ (q.tileAged ∧ q.tiles ≠ []) then none
      else
        let r := entryEffect s u e
        some ((s.modMem fun m => kldMarks u e m r.1).modUnit u fun x =>
          { x with matrix := { x.matrix with
              queue := { e with executed := true } :: rest, mflags := x.matrix.mflags ||| r.2.1, mask := r.2.2.getD x.matrix.mask } })
  | .matrixEntryComplete u, s =>
    match (s.unit u).matrix.queue with
    | [] => none
    | e :: rest =>
      if e.executed = false then none
      else
        some ((s.modUnit u fun x =>
          ({ x with matrix := { x.matrix with queue := rest, mdone := BitVec.ofNat 64 e.ticket } } : UnitSt).releaseWindows).pushReply
            e.stroke e.serial e.slot (some (BitVec.ofNat 64 e.ticket)))
  | .tileDispatch c, s =>
    match tabFind s.eng.chains c with
    | none => none
    | some x =>
      if x.kind ≠ 3 ∨ tileOutranked s c x then none
      else
        match s.tileChoice x.slab x.part, s.takeHead c x with
        | some u, .entry t y e =>
          let cancelled := t.finishEntry c y e 2
          if t.jobKilled y.job ∧ cancelled.chainWaits c = false then some cancelled
          else
            some (((if t.jobKilled y.job then cancelled else t.modChain c fun z => { z with age := 0 }).modEng fun g => { g with tileLast := tabPut g.tileLast y.slab (nibOf u) }).modUnit u
              fun z => { z with matrix := { z.matrix with tiles := z.matrix.tiles ++ [(c, e.num, e.addr)] } })
        | _, _ => none
  | .tileSteal u, s =>
    match s.unitPart u with
    | none => none
    | some part =>
      let q := (s.unit u).matrix
      let others := (s.tileNibs (slabOf u) part).filter fun v => v != u && decide (unstarted s v ≠ [])
      match others.find? fun v => others.all fun w => decide ((unstarted s w).length ≤ (unstarted s v).length) with
      | none => none
      | some v =>
        match unstarted s v with
        | [] => none
        | t :: rest =>
          if q.queue ≠ [] ∨ q.tiles ≠ [] ∨ q.tileRunning ∨ (s.tileNibs (slabOf u) part).contains u = false then none
          else
            some ((s.modUnit v fun z =>
              { z with matrix := { z.matrix with
                  tiles := z.matrix.tiles.take (if (s.unit v).matrix.tileRunning then 1 else 0) ++ rest, tileAged := false } }).modUnit u fun z =>
                { z with matrix := { z.matrix with tiles := [t], tileAged := false } })
  | .tileTask u, s =>
    let q := (s.unit u).matrix
    match q.tiles with
    | [] => none
    | (c, num, _) :: rest =>
      match tabFind s.eng.chains c with
      | none => none
      | some x =>
        match x.entries.find? (·.num == num) with
        | none => none
        | some e =>
          if !(q.queue.isEmpty || q.tileRunning || (q.tileAged && !(q.queue.any (·.executed)))) ∨ x.waiting ≠ none then none
          else if s.jobKilled x.job ∧ q.tileRunning = false then
            if (s.finishEntry c x e 2).chainWaits c then none else some (tilesLeft (s.finishEntry c x e 2) u rest)
          else if (s.finishEntry c x e 1).chainWaits c then none
          else
            match taskRuns x e q.tileRows s with
            | .code t code f => some (taskFinished (tilesLeft t u rest) c x e code f)
            | .wait t r p left =>
              some ((t.modUnit u fun z => { z with matrix := { z.matrix with tileRunning := true, tileRows := left } }).chainWait c r p)
            | .later _ => none
  | .tileTaskAged u, s =>
    if (s.unit u).matrix.tiles = [] then none
    else some (s.modUnit u fun z => { z with matrix := { z.matrix with tileAged := true } })
  | _, _ => none

/-! ## Services (R272, R281, R283, R288, R289, R311, R389) -/

/-- The state after wash `w` has read its member `j`. -/
def washRead (w : Wash) (j : Nat) (s : State) : Wash :=
  let l := s.readMember w j
  { w with left := w.left.filter (· ≠ j), leaves := w.leaves ++ [(j, l.map fun y => BitVec.ofNat 64 y.val, l.map (·.cause))] }

/-- R267, R272: wash `n` leaves the list of outstanding ones and completes, once no other wash holds the bytes that it writes. -/
def ended (s : State) (n : Nat) (w : Wash) : Option State :=
  if s.washHeld w then none else some (({ s with svc := { s.svc with washes := listDrop s.svc.washes n } } : State).finishWash w)

/-- R267, R272, R281–R283, R287–R289, R311, R323, R389: a wash reads a member whose mark has passed K and, after the last, writes its result; the home
appends a call at NEXT while the log has room; a scribe starts the next entry's method; a damaged copy becomes an undamaged one's equal; a
member absorbs a squash; a page request is written to its ring's free slot and reported. -/
def serviceEvents : Instr → State → Option State
  | .washMemberRead n j, s =>
    match s.svc.washes[n]? with
    | none => none
    | some w =>
      let w' := washRead w j s
      if w.left = [] then ended s n w
      else if w.withdrawn ∨ w.left.contains j = false ∨ markPassed (s.mark w.group j) w.k = false ∨ s.memberAway w j then none
      else
        -- the bytes of the answer leave by the port of the member's nib
        let q := s.portBeat (placeOfWord (w.members.getD j 0).toNat / 64) (beatsOf w.bytes)
        let t : State := { q with svc := { q.svc with washes := listSet s.svc.washes n w' } }
        some (if w'.left = [] then (ended t n w').getD t else t)
  | .copybookAppend n, s =>
    match s.svc.book.calls[n]? with
    | none => none
    | some c =>
      match s.object c.obj with
      | none => none
      | some o =>
        if c.index ≠ none ∨ !((s.inst c.stroke).any (·.serial == c.serial)) ∨ s.callBefore n c ∨ o.full then none
        else
          let o' := { o with next := o.next + 1, log := tabPut o.log o.next (c.entry o.next) }
          some (((s.setObject c.obj o').modBook fun b => { b with calls := listSet b.calls n { c with index := some o.next } }).appended c)
  | .scribeApply slab obj, s =>
    match s.object obj, s.freeContext slab with
    | some o, some u =>
      match tabFind o.log (o.applied.getD slab 0 + 1) with
      | none => none
      | some entry =>
        if 11 < slab ∨ o.damaged.contains slab ∨ s.runsOf slab obj ≠ [] then none
        else
          some (s.startMethod u o { obj, method := (entry.getD 1 0).toNat / 2 ^ 32 % 2 ^ 5, ro := false,
                                    index := o.applied.getD slab 0 + 1, entry })
    | _, _ => none
  | .copyRebuilt slab obj, s =>
    match s.object obj with
    | none => none
    | some o =>
      if o.damaged.contains slab = false ∨ s.runsOf slab obj ≠ [] then none
      else
        match (span 0 12).find? fun b => !o.damaged.contains b && decide (o.applied.getD slab 0 ≤ o.applied.getD b 0) with
        | none => none
        | some b =>
          let t := s.modMem fun m => (s.mem.copyCells b obj).foldl
            (fun m c => m.setByte (c.1 - copyKey b obj 0 + copyKey slab obj 0) c.2) (m.setCopy slab obj [])
          let t := t.setObject obj
            { o with applied := listSet o.applied slab (o.applied.getD b 0), damaged := o.damaged.filter (· != slab) }
          if t.runsOf slab obj = [] then some (t.deliver slab obj) else none
  | .squashAbsorb n member, s =>
    match s.svc.acts[n]? with
    | none => none
    | some a =>
      match a.squash, a.members[member]? with
      | some (q, t, low), some w =>
        if a.toSend.contains w then none
        else
          let s := if recordModule a.record w.toNat = 0xFF then s.absorb (placeOfWord w.toNat / 64) a.record q t low else s
          let a := { a with members := listDrop a.members member }
          let s := s.modSvc fun v => { v with acts := listSet v.acts n a }
          some (if a.members = [] then s.squashed a q else s)
      | _, _ => none
  | .pageRequest n, s =>
    match s.eng.pageQueue[n]? with
    | none => none
    | some (part, region, page, eng, slab) =>
      let w := s.csrGet 0x52 0 part
      let head := w % 256
      let slot := w / 2 ^ 12 % 2 ^ 45 * 4096 + 16 * head
      if w.testBit 63 = false ∨ (s.mem.get (slot + 8) 8).testBit 63 ∨ (s.eng.pageQueue.take n).any (fun r => r.1 == part) then none
      else
        let s := s.modMem fun m => m.commitWrite slot
          (toBytes (page * 2 ^ 16) 8 ++ toBytes (2 ^ 63 + (if eng then 2 ^ 62 else 0) + region * 2 ^ 32 + slab) 8)
        let s := (s.csrPut 0x52 0 part (w - head + (head + 1) % 256)).modEng fun e => { e with pageQueue := listDrop e.pageQueue n }
        some (s.post (.engine (unitNum slab 255)) (s.reportPlace (unitNum slab 0) (some part)) (BitVec.ofNat 64 (0x7D * 2 ^ 56 + head)))
  | _, _ => none

/-! ## Register events (R373–R376, R398, R401, R414, R417, R423, R424) -/

/-- R373–R376, R398, R401, R414, R417, R423, R424: a register that an event names and that exists is written as a CSRW writes it: a legal value is held, reserved bits read
zero; ROUND requests a marker; SMPCTX zeroes the context it assigns; OWNRNG frees the sequence contexts of a well whose range changes; JOBKILL marks the job;
ROLETAB gives a nib another site, whose spare is used up; LOGTAIL frees the ring; KEYSLOT moves the staged key, or erases a slot. -/
def registerEvents : Instr → State → Option State
  | .roundWrite, s => written s 0x40 0 0 0
  | .ownrngWrite i val, s => if i < 512 then written s 0x41 0 i val else none
  | .wellshareWrite slab i val, s => if slab < 12 ∧ i < 24 then written s 0x42 slab i val else none
  | .smpctxAssign slab i part, s => if slab < 12 ∧ i < 512 then written s 0x44 slab i (BitVec.ofNat 64 (2 ^ 63 + part.toNat)) else none
  | .smpctxUnassign slab i, s => if slab < 12 ∧ i < 512 then written s 0x44 slab i 0 else none
  | .jobkill job, s => written s 0x45 0 0 (BitVec.ofNat 64 job)
  | .prqWrite i val, s => if i < 256 then written s 0x52 0 i val else none
  | .nibpartWrite slab i val, s => if slab < 12 ∧ i < 160 then written s 0x46 slab i val else none
  | .keyslotLoad i, s => if 1 ≤ i ∧ i < 256 then written s 0x4C 0 i (BitVec.ofNat 64 (2 ^ 63)) else none
  | .keyslotErase i, s => if 1 ≤ i ∧ i < 256 then written s 0x4C 0 i 0 else none
  | .swqWrite slab i val, s => if (slab = 0 ∨ slab = 11) ∧ i < 64 then written s 0x4D slab i val else none
  | .roletabWrite slab i val, s => if slab < 12 ∧ i < 168 then written s 0x62 slab i val else none
  | .replayWrite i val, s => if i < 2 then written s 0x63 0 i val else none
  | _, _ => none

/-! ## Links, power, errors and reset (R17, R404–R406, R411, R418–R428) -/

/-- R419, R420: ERRADDR takes the location, and the error is reported to channel 1 of the slab's management nib. -/
def reported (s : State) (ue : Bool) (kind slab unit : Nat) : State :=
  s.post (.engine (unitNum slab unit)) (placeNum slab 162 1)
    (BitVec.ofNat 64 (0xEE * 2 ^ 56 + (if ue then 2 ^ 55 else 0) + kind * 2 ^ 51 + slab * 2 ^ 47 + unit * 2 ^ 39))

/-- The link end at a key is replaced. -/
def withLink (s : State) (key : Nat) (x : LinkEnd) : State := { s with plat := { s.plat with links := tabPut s.plat.links key x } }

/-- R418, R420: one more corrected error of a kind: every 256th is reported. -/
def corrected (s : State) (kind slab unit : Nat) : State :=
  let n := (s.csrGet 0x60 slab kind % 2 ^ 32 + 1) % 2 ^ 32
  let t := s.csrPut 0x60 slab kind n
  if n % 256 = 0 then reported t false kind slab unit else t

/-- R420: an uncorrectable error: ERRADDR takes its location, and it is reported. -/
def lost (s : State) (kind slab unit loc : Nat) : State := reported (s.csrPut 0x61 slab 0 (loc % 2 ^ 57)) true kind slab unit

/-- R411, R418: a flit comes to the link end at a key: one whose CRC holds is taken when its number is due; a failed CRC is a corrected error of the
link, the sixteenth in a row an uncorrectable one. -/
def flitAt (s : State) (key kind slab port seq : Nat) (ok : Bool) : State :=
  let x := tabGet s.plat.links key {}
  if ok then (if seq = x.next then withLink s key { x with next := (x.next + 1) % 4096, bad := 0 } else s)
  else
    let t := withLink s key { x with bad := x.bad + 1 }
    if x.bad = 15 then lost t kind slab port port else corrected t kind slab port

/-- R411, R413: the flits of a replay buffer up to the acknowledged one, whose words have arrived, and those that are kept. -/
def arrivedFlits (ack : Nat) (l : List (Nat × List LinkMsg)) : List (Nat × List LinkMsg) × List (Nat × List LinkMsg) :=
  match l.findIdx? (·.1 == ack) with
  | some i => (l.take (i + 1), l.drop (i + 1))
  | none => ([], l)

/-- The link ends in this module that a link joins, with the spare lanes it has (R422): the n-th die link, its slabs counted by rows and each slab's
east edge before its south one, or a Wydal port. -/
def endsOf : LinkId → List Nat × Nat
  | .die n =>
    -- edges: west 0, north 1, east 2, south 3
    let all := (List.range 12).flatMap fun s => (if s % 4 = 3 then [] else [(s * 4 + 2, (s + 1) * 4)]) ++ (if s / 4 = 2 then [] else [(s * 4 + 3, (s + 4) * 4 + 1)])
    match all[n]? with
    | some (a, b) => ([a, b], 4)
    | none => ([], 0)
  | .wydal port => (if port < 16 then [4096 + port] else [], 1)

/-- R405: the share `a` of a partition goes to its buckets in equal parts, the remainder to the first ones, and no bucket holds more than 1,024. -/
def shared (a : Nat) (l : List Nat) (tab : Table Nat) : Table Nat :=
  (l.zip (span 0 l.length)).foldl
    (fun t e => tabPut t e.1 (min (a / l.length + if e.2 < a % l.length then 1 else 0) 1024)) tab

/-- The `n` bytes around a memory key, which share a code word, hold an uncorrectable error. -/
def poisonedAt (s : State) (key n : Nat) : State :=
  { s with mem := (List.range (n / 4)).foldl (fun (m : Memory) i => { m with poison := tabPut m.poison (key / n * n / 4 + i) true }) s.mem }

/-- R421: an image that a unit holds is lost: the instances that run it stand until it is loaded again. -/
def imageLost (s : State) (u addr : Nat) : State :=
  if (s.unit u).images.any (fun i => i.addr == addr) = false then s
  else
    let t := s.modUnit u fun x => { x with badImages := if x.badImages.contains addr then x.badImages else x.badImages ++ [addr] }
    (s.strokes.map (·.1)).foldl (fun t k =>
      if unitOf k = u then t.modInst k fun i => if i.addr = addr then { i with reloading := true } else i else t) t

/-- R17, R404–R407, R411, R418–R422, R425–R428: budgets and buckets refill; engines are admitted and step up; routers are gated and wake; flits
are taken or asked again, and the messages they carry come next; spares take over; the clock and the host link change; errors are counted, located and reported and poison what they
strike; an image is loaded again; reset leaves every register at its reset value and FWSTAT as the check came out. -/
def platformEvents : Instr → State → Option State
  | .bandwidthRefill slab, s =>
    if 12 ≤ slab then none
    else
      let sent (p : Nat) : Bool := (engineBucket slab p :: s.portsOf slab p).any fun q => decide (0 < tabGet s.plat.beats q 0)
      let all := (span 1 255).filter fun p => !(s.bucketsOf slab p).isEmpty || sent p
      let act := all.filter sent
      let b := s.csrGet 0x49 slab 0 % 2 ^ 32
      let w (p : Nat) : Nat := s.csrGet 0x48 slab p % 2 ^ 8
      let total := (act.map w).sum
      let share (p : Nat) : Nat :=
        if act.contains p = false then 0 else if total = 0 then b / act.length else b * w p / total
      some { s with plat := { s.plat with
        buckets := all.foldl (fun tab p => shared (share p) (s.bucketsOf slab p) tab) (s.plat.buckets.filter fun e => bucketSlab e.1 != slab),
        beats := s.plat.beats.filter fun e => bucketSlab e.1 != slab } }
  | .gatewayRefill, s => some { s with plat := { s.plat with spent := [] } }
  | .slewStep slab, s =>
    if 12 ≤ slab then none
    else
      let lone := tabGet s.plat.slewLone slab []
      let grant (r : SlewRelease) : Nat := s.csrGet 0x64 slab (min r.step 7) % 2 ^ 4
      -- an engine that was idle is admitted alone; else each release admits its next engines (log entry 81)
      let admitted := if lone = [] then (s.plat.slewing.filter (·.slab == slab)).flatMap fun r => r.wait.take (grant r) else lone.take 1
      let later (r : SlewRelease) : SlewRelease :=
        if r.slab = slab then { r with step := r.step + 1, wait := if lone = [] then r.wait.drop (grant r) else r.wait } else r
      let busy (u : Nat) : Bool := !(s.unit u).matrix.queue.isEmpty
      -- an engine's rate: 1 to 3 as it ramps up and runs, 4 to 6 as it winds down
      let next (u n : Nat) : Option Nat :=
        if busy u then some (if n < 3 then n + 1 else 3) else if n ≤ 3 then some 4 else if n < 6 then some (n + 1) else none
      let up := s.plat.ramp.filterMap fun e => if slabOf e.1 = slab then (next e.1 e.2).map fun n => (e.1, n) else some e
      some { s with plat := { s.plat with
        slewing := (s.plat.slewing.map later).filter fun r => !r.wait.isEmpty, slewLone := tabPut s.plat.slewLone slab (lone.drop 1),
        ramp := admitted.foldl (fun t u => tabPut t u 1) up,
        idle := (s.slewUnits slab).foldl (fun t u => if busy u then tabDel t u else tabPut t u (tabGet t u 0 + 1)) s.plat.idle } }
  | .routerPowerGate slab site, s =>
    if 12 ≤ slab ∨ 192 ≤ site then none
    else if s.csrGet 0x65 slab 0 % 2 ^ 16 = 0 then some s
    else some { s with plat := { s.plat with gated := tabPut s.plat.gated (slab * 256 + site) true } }
  | .routerWake slab site, s =>
    if 12 ≤ slab ∨ 192 ≤ site then none
    else some { s with plat := { s.plat with gated := tabDel s.plat.gated (slab * 256 + site) } }
  | .dieLinkFlit (slab, port) seq ok, s => if (neighbour slab port).isSome then some (flitAt s (slab * 4 + port) 8 slab port seq ok) else none
  | .wydalFlit port f crc, s =>
    if 16 ≤ port then none
    else
      let slab := [4, 8, 3, 7].getD (port / 4) 0
      let ok := crc == Config.crc64 f
      let t := flitAt s (4096 + port) 9 slab port f.seq.toNat ok
      let x := tabGet t.plat.links (4096 + port) {}
      if ok = false ∨ f.seq.toNat ≠ (tabGet s.plat.links (4096 + port) {}).next then some t
      else
        let b := arrivedFlits f.ack.toNat x.buffer
        let t1 := withLink t (4096 + port) { x with buffer := b.2, credits := f.credits, kind := f.kind }
        let t2 : State := { t1 with plat := { t1.plat with peerVia := tabPut t1.plat.peerVia f.peer port } }
        let t3 := ((b.1.flatMap (·.2)).filterMap (·.word)).foldl State.delivered t2
        some { t3 with agenda := f.msgs.map (Pick.message f.peer) ++ t3.agenda }
  | .linkLaneRetrain link, s =>
    let e := endsOf link
    if e.1.all fun k => decide ((tabGet s.plat.links k {}).lanes < e.2) then
      some (e.1.foldl (fun t k => withLink t k { tabGet t.plat.links k {} with bad := 0, lanes := (tabGet t.plat.links k {}).lanes + 1 }) s)
    else some s
  | .laneSpareRemap u lane, s =>
    if isNib u = false ∨ 16 ≤ lane ∨ (s.unit u).lane.queue ≠ [] ∨ (s.unit u).lane.spareFor ≠ none then none
    else some (s.modUnit u fun x => { x with lane := { x.lane with spareFor := some lane } })
  | .wellRowRemap slab well row, s =>
    if 12 ≤ slab ∨ 24 ≤ well ∨ tabFind s.plat.wellRows (slab * 32 + well) ≠ none then none
    else some { s with plat := { s.plat with wellRows := tabPut s.plat.wellRows (slab * 32 + well) row } }
  | .clockChange mhz, s => if 1 ≤ mhz ∧ mhz ≤ 2250 then some { s with plat := { s.plat with clock := mhz } } else none
  | .ucieLinkTraining n, s => if n = 1 ∨ n = 2 ∨ n = 4 then some { s with plat := { s.plat with ucie := n } } else none
  | .correctableError kind slab unit, s =>
    if 11 ≤ kind ∨ 12 ≤ slab then none else some (corrected s kind slab unit)
  | .uncorrectableError kind slab unit loc, s =>
    if 12 ≤ slab then none
    else
      let u := unitNum slab unit
      let hit : Option State :=
        if kind = 0 ∨ kind = 1 then some (poisonedAt s (physKey kind (loc % 2 ^ 57)) 64)
        else if kind = 2 then some (poisonedAt s (physKey (loc / 2 ^ 57 % 4) (loc % 2 ^ 57)) 16)
        else if kind = 5 then some (poisonedAt s (if loc < 2 ^ 18 then accKey u loc else tileKey u (loc % 2 ^ 15)) 4)
        else if kind = 4 then
          let k := u * 32 + loc % 32
          some (s.modUnit u fun x => { x with badRegs := if x.badRegs.contains k then x.badRegs else x.badRegs ++ [k] })
        else if kind = 3 then some (poisonedAt s (spadKey u (loc % 2 ^ 21)) 16)
        else if kind = 6 then some (imageLost s u loc)
        else if kind = 7 then some (poisonedAt s (candKey u (loc % 2 ^ 23)) 8)
        else if kind = 10 then some (s.damageCopy slab (loc / 2 ^ 18 % 1024))
        else if kind = 8 ∨ kind = 9 then some s
        else none
      hit.map fun t => lost t kind slab unit loc
  | .configStoreError u addr, s =>
    if (s.unit u).images.any (fun i => i.addr == addr) = false then none
    else some (lost (imageLost s u addr) 6 (slabOf u) (nibOf u) addr)
  | .configImageReloaded u addr, s =>
    if (s.unit u).badImages.contains addr = false then none
    else
      let t := s.modUnit u fun x => { x with images := x.images.filter (·.addr != addr), badImages := x.badImages.filter (· != addr) }
      match s.strokes.filter fun e => unitOf e.1 == u && e.2.onBlock addr with
      | [] => some t
      | [(k, _)] =>
        match t.image k addr with
        | (.ok new, t1) =>
          match t1.inst k with
          | none => none
          | some i =>
            let back := t1.modInst k fun j => { j with reloading := false }
            some (if Config.imageSignature (i.header :: i.words) = new.sig then back else back.takeTrap k 64 0x02 0x0D)
        | _ => none
      | _ => none
  | .moduleReset (some boot) version, s =>
    some ((bringUp boot { State.reset with fresh := s.fresh }).csrPut 0x66 0 0 (2 ^ 63 + version.toNat))
  | .moduleReset none version, s =>
    some (({ State.reset with fresh := s.fresh, inReset := true } : State).csrPut 0x66 0 0 (2 ^ 62 + version.toNat))
  | _, _ => none

/-! ## The host and peer modules (R408–R410, R412, R413, R428) -/

/-- `n` bytes at `pa` lie in device memory of the tier. -/
abbrev inDevice (tier pa n : Nat) : Prop := (tier = 0 ∧ pa + n ≤ tierOne) ∨ (tier = 1 ∧ pa + n ≤ tierTwo)

/-- R408: where `n` bytes of a host physical address lie: the decoder at HDM0 maps tier one, that at HDM1 tier two. -/
def decoded (s : State) (hpa n : Nat) : Option Nat :=
  if s.plat.hdm0 ≤ hpa ∧ inDevice 0 (hpa - s.plat.hdm0) n then some (physKey 0 (hpa - s.plat.hdm0))
  else if s.plat.hdm1 ≤ hpa ∧ inDevice 1 (hpa - s.plat.hdm1) n then some (physKey 1 (hpa - s.plat.hdm1))
  else none

/-- The data that the host reads. -/
def toHost (s : State) (l : List Byte) : State := { s with plat := { s.plat with hostData := l } }

/-- R411, R413: the reply to a peer's access leaves by a port: 0 and the data of one that is served, or the code that its issuer traps with and a value. -/
def toPeer (s : State) (e pa code : Nat) (l : List Byte) : State := s.sendPeer e (BitVec.ofNat 64 pa) { msg := .reply code l }

/-- R245–R247, R413; log entry 79: a peer's request for `n` bytes waits at the well that owns them: a range of the SC ring where `sc` is true. It is refused with BADPA (0x66)
outside device memory or misaligned, with ATOMOWN (0x28) outside every range, or SCRANGE (0x2A) where an access of the SC ring is outside its ranges. -/
def peerAsks (s : State) (e tier pa n : Nat) (sc : Option Bool) (kind : AtomKind) : State :=
  let refused (code : Nat) : State := toPeer s e pa code (toBytes (pa % 2 ^ 64) 8)
  if ¬ inDevice tier pa n ∨ pa % n ≠ 0 then refused trBADPA
  else
    match s.owner tier pa with
    | none => refused (if sc = some true then trSCRANGE else trATOMOWN)
    | some r =>
      if sc = some true ∧ r.sc = false then refused trSCRANGE
      else
        let q : AtomReq := { stroke := 2 ^ 52 + e, serial := 0, slot := 0, node := r.well, key := physKey tier pa, addr := BitVec.ofNat 64 pa,
                             sc := sc.getD r.sc, kind }
        { s with net := { s.net with atoms := s.net.atoms ++ [q] } }

/-- R408–R410, R412, R413, R428: host writes are committed and host reads return committed values; a doorbell stages an address, appends the entry
or refuses the chain word, and tells the last number and the refusal; a peer's words and accesses are admitted under IPART, gateways and MEMOK, its atomics sent to
the well that owns the range. -/
def hostEvents : Instr → State → Option State
  | .hostMemWrite line off data, s => (decoded s (64 * line + off) data.length).map fun key => { s with mem := s.mem.commitWrite key data }
  | .hostMemRead line off n, s => (decoded s (64 * line + off) n).map fun key => toHost s (s.mem.committedBytes key n)
  | .hostSnoop hpa data, s => if hpa + data.length ≤ 2 ^ 57 then some { s with mem := s.mem.commitWrite (physKey 2 hpa) data } else none
  | .doorbellAddress job val, s =>
    if job ≤ 4096 then
      some { s with eng := { s.eng with doorbells := tabPut s.eng.doorbells job (val, (tabGet s.eng.doorbells job (0, 0, false)).2) } }
    else none
  | .doorbellAppend job val, s =>
    if 4096 < job then none
    else
      match tabGet s.eng.doorbells job (0, 0, false) with
      | (a, last, _) =>
        let put (t : State) (d : Word × Word × Bool) : State := { t with eng := { t.eng with doorbells := tabPut t.eng.doorbells job d } }
        match chainOf val.toNat job with
        | none => some (put s (a, last, true))
        | some c =>
          match s.chain c with
          | none => some (put s (a, last, true))
          | some y =>
            if y.job ≠ job ∨ a.toNat % 64 ≠ 0 then some (put s (a, last, true))
            else some (put (s.append c y a.toNat y.region 1 noStroke) (a, BitVec.ofNat 64 (y.appended + 1), false))
  | .doorbellResultRead job, s => some (toHost s (toBytes (tabGet s.eng.doorbells job (0, 0, false)).2.1.toNat 8))
  | .doorbellStatusRead job, s =>
    some (toHost s (if (tabGet s.eng.doorbells job (0, 0, false)).2.2 then [1, 0, 0, 0, 0, 0, 0, 0] else [0, 0, 0, 0, 0, 0, 0, 0]))
  | .attestNonce nonce, s =>
    if nonce.length = 32 then
      let items := sha256 Config.firmware ++ sha256 s.roleBytes ++ s.keyMask ++ nonce
      some { s with plat := { s.plat with nonce := nonce, report := items ++ Config.signature items } }
    else none
  | .peerWordArrival e place w, s =>
    if s.peerOk e = false ∨ 2 ^ 32 ≤ place.toNat then some s
    else
      let p := 0xFF000000 + place.toNat % 2 ^ 24
      match s.reach (s.csrGet 0x4A 0 (2 * e + 1) % 2 ^ 8) p with
      | none => some s
      | some gate => some (s.sendWord (.engine (2 ^ 20 + e)) s.rounds.issued gate p w)
  | .peerMemoryAccess e access tier pa n data, s =>
    let key := physKey tier pa
    if s.peerOk e = false ∨ (s.csrGet 0x4A 0 (2 * e + 1)).testBit 8 = false then some (toPeer s e pa trBADPA [])
    else
      match access with
      | .write =>
        if ¬ inDevice tier pa n then some (toPeer s e pa trBADPA [])
        else if (s.owner tier pa).any (·.sc) then some (toPeer s e pa trSCRANGE [])
        else if (s.mem.partPoisoned key n).isSome then some (toPeer s e pa trUNCORR [])
        else some (toPeer { s with mem := s.mem.commitWrite key (data.take n) } e pa 0 [])
      | .read =>
        if ¬ inDevice tier pa n then some (toPeer s e pa trBADPA [])
        else if (s.mem.poisoned key n).isSome then some (toPeer s e pa trUNCORR [])
        else some (toPeer s e pa 0 (s.mem.committedBytes key n))
      | .atomic op b c =>
        if 7 < op ∨ 3 < n then some (toPeer s e pa trBADPA []) else some (peerAsks s e tier pa (atomBytes n) none (.scalar op n b c))
      | .afadd i b => some (peerAsks s e tier pa 4 none (.afadd (i % 2 ^ 32) b false))
      | .afinit rel base => some (peerAsks s e tier pa 4 (some false) (.afinit rel base))
      | .scRead =>
        if n = 0 ∨ 8 < n then some (toPeer s e pa trBADPA []) else some (peerAsks s e tier pa n (some true) (.scLoad n 15 none false true))
      | .scWrite =>
        if n = 0 ∨ 8 < n then some (toPeer s e pa trBADPA [])
        else some (peerAsks s e tier pa n (some true) (.scStore n (ofBytes (data.take n)) none))
  | _, _ => none

/-! ## Every instruction: ports, predicates and null (R42, R44) -/

/-- The slot at the cursor fires as its form says: the root counter of a stream-mode block and a CARRY that still has a feedback token to
discard do not (R46, R90). -/
def ordinary (i : Instr) (x : Ctx) : Bool :=
  isWord i && (match i with
    | .ctr .. => !(x.n == 0 && x.ins.stream)
    | .carry .. => !(x.me.drop && x.me.portB.isSome)
    | _ => true)

/-- A predicate token is true when it is a nonzero value, false when it is zero; null is neither. -/
def isTrueTok (t : Token) : Bool := t.any (· ≠ 0)
def isFalseTok (t : Token) : Bool := t == some 0

/-- Table 2-5, for a slot whose port P holds `t` when its mode has one. -/
inductive Outcome25 where
  | fires | nothing | null
  deriving DecidableEq, Repr

def table25 (mode : BitVec 2) (t : Token) : Outcome25 :=
  if mode = 0 then .fires
  else if mode = 1 then (if isTrueTok t then .fires else .nothing)
  else if mode = 2 then (if isFalseTok t then .fires else .nothing)
  else (if isTrueTok t then .fires else .null)

/-! ## Frames -/

/-- R35, R47: an instance has a slot for each of its words, at most 64, and the exits that have fired are among them. -/
def numbered (i : Instance) : Prop := i.slots.length = i.words.length ∧ i.words.length ≤ 64 ∧ ∀ f ∈ i.fired, f.slot < i.slots.length

/-- Every instance of a stroke, resident or saved, and every image of a config store is of at most 64 slots. -/
def Numbered (s : State) : Prop :=
  (∀ e ∈ s.strokes, ∀ i, e.2.run.inst = some i → numbered i) ∧
    (∀ c ∈ s.rounds.saved, ∀ i, c.stroke.run.inst = some i → numbered i) ∧ ∀ e ∈ s.units, ∀ m ∈ e.2.images, m.words.length ≤ 64

/-- The registers of a stroke but for those that a trap sets (R348). -/
def plainRegs (t : Stroke) : StrokeRegs := { t.regs with trapcause := 0, trapslot := 0, trapval := 0 }

/-- No stroke's registers change, but for those that a trap sets. -/
def registersKept (s t : State) : Prop := ∀ k, (t.stroke k).map plainRegs = (s.stroke k).map plainRegs

/-- The instructions that move tokens, choose exits and compute values. -/
def computes : Instr → Bool
  | .get .. | .put .. | .movi .. | .movx .. | .mov .. | .null .. | .sel .. | .gate .. | .bra .. | .bri .. | .call .. | .ret .. | .exit .. => true
  | .add .. | .sub .. | .addi .. | .mul .. | .mulh .. | .div .. | .rem .. | .neg .. | .and .. | .or .. | .xor .. | .andn .. => true
  | .andi .. | .ori .. | .xori .. | .not .. | .shl .. | .shr .. | .asr .. | .shli .. | .shri .. | .asri .. | .clz .. | .popc .. => true
  | .cmp .. | .min .. | .max .. | .bfx .. | .bfi .. | .lea .. | .adds .. | .subs .. | .fadd .. | .fsub .. | .fmul .. | .ffma .. => true
  | .fmin .. | .fmax .. | .fneg .. | .fabs .. | .fcmp .. | .fclass .. | .padd .. | .pmul .. | .pfma .. | .pdot .. | .rcp .. | .rsq .. => true
  | .exp2 .. | .log2 .. | .tanh .. | .cvt .. | .srnd .. | .rdflg .. | .clrflg .. | .rngn .. | .steer .. | .merge .. | .invar .. => true
  | .rrmerge .. => true
  | _ => false

/-- Bytes that a store of size code `z` and qualifier `q` writes on the page of `p` (R113, R115): on a formatted page those of one element. -/
def scalarBytes (p : Phys) (z q : Nat) : Nat := if q = 2 ∨ p.fmt = 15 then 2 ^ z else if p.fmt = 4 then 1 else fmtBytes p.fmt

/-- Bytes that a vector store writes on the page of `p` (R116, R117): 4-byte values are encoded on a formatted page. -/
def vectorBytes (p : Phys) (z q : Nat) : Nat :=
  if 4 ≤ q ∨ decodes p.fmt = false then 16 * 4 ^ z else 16 * 4 ^ z / 4 * fmtBits p.fmt / 8

/-- Where a load or store at the cursor stores: key and byte count. -/
def storedAt (i : Instr) (s : State) : Option (Nat × Nat) :=
  match firing i s with
  | none => none
  | some (x, g) =>
    match i with
    | .st _ _ _ sp z q =>
      match (s.locateScalar x.k x.stale (q == 2) sp.toNat g.av.toNat z.toNat 2).1 with
      | .mem p => some (p.key, scalarBytes p z.toNat q.toNat)
      | .spad u off => some (spadKey u off, 2 ^ z.toNat)
      | _ => none
    | .ldv _ _ _ _ z _ =>
      match x.st.window x.k g.bv.toNat (16 * 4 ^ z.toNat) with
      | .spad u off => some (spadKey u off, 16 * 4 ^ z.toNat)
      | _ => none
    | .stv _ _ _ sp z q =>
      match (s.locateVec x.k x.stale (q.toNat / 4 == 1) sp.toNat g.av.toNat (16 * 4 ^ z.toNat) 2).1 with
      | .mem p => some (p.key, vectorBytes p z.toNat q.toNat)
      | .spad u off => some (spadKey u off, 16 * 4 ^ z.toNat)
      | _ => none
    | _ => none

/-- The instructions that read and write memory and full bits. -/
def accesses : Instr → Bool
  | .ld .. | .st .. | .ldv .. | .stv .. | .feset .. => true
  | _ => false

/-! ## Traps (R348–R353) -/

/-- The place of a trap report (R353): TRAPPL of the partition for a user stroke, else place (slab, 162, 0). -/
def reportsTo (s : State) (k part : Nat) : Nat :=
  let w := s.csrGet 0x43 0 part
  if unitPriv (unitOf k) = 0 ∧ w.testBit 63 = true then placeNum (w / 2 ^ 14 % 16) (w / 2 ^ 6 % 256) (w % 64)
  else placeNum (slabOf (unitOf k)) 162 0

/-! ## Decoding (R40, R52–R55) -/

/-- Words of the spec's listings, and what they say. -/
def listed : List (Nat × Instr) :=
  [(0x06823FFF, .movi 0x82 0 (-1)), (0x08830040, .mov 0x83 0 2), (0x0B060000, .null 0x106 0), (0x0C840003, .recv 0x84 0 3),
   (0x0E850000, .sel 0x85 0), (0x10830000, .gate 0x83 0 0), (0x1E88000C, .movx 0x88 0 12), (0x04000186, .put 3 6),
   (0x126FFFF8, .bra 1 2 (-8)), (0x14500000, .bri 1 1 0), (0x18000000, .ret 0 0 0), (0x1A000005, .exit 0 0 5),
   (0x1C824200, .ctr 0x82 0x84 0 0), (0x02800001, .get 0x80 0 1), (0x08838180, .mov 0x83 0x103 0), (0x27070000, .mul 0x107 0 0 0 0),
   (0x0986C480, .mov 0x186 0x189 0), (0xE4870000, .carry 0x87 0), (0x21064400, .add 0x106 0x88 0 0 0)]

/-- Extended opcodes that Tables 2-7 to 2-10 list for a group. -/
def usedExt (major e : Nat) : Bool :=
  match major with
  | 0x78 => 1 ≤ e && e ≤ 0x00C
  | 0x79 => (1 ≤ e && e ≤ 4) || (0x040 ≤ e && e ≤ 0x047)
  | 0x7A => (1 ≤ e && e ≤ 6) || (0x040 ≤ e && e ≤ 0x04F)
  | 0x7B => 1 ≤ e && e ≤ 0x00C
  | _ => true

/-- Major opcodes that Table 2-6 marks reserved. -/
def dashMajor (m : Nat) : Bool :=
  [0x00, 0x46, 0x47, 0x54, 0x55, 0x56, 0x57, 0x6C, 0x6D, 0x6E, 0x6F, 0x75, 0x76, 0x77, 0x7C, 0x7D, 0x7E, 0x7F].contains m

/-- The lowest privilege of an instruction (Tables 2-7 to 2-10): 1 is S, 2 is M. -/
def lowestPriv : Instr → Nat
  | .wgrpDef .. | .wgrpPresent .. | .wgrpRel .. | .cpdef .. | .cpdefRel .. => 1
  | .rft .. | .freeze .. | .thaw .. | .ctxout .. | .ctxoutDrop .. | .ctxin .. | .tlbinv .. | .tlbprobe .. | .cfginv .. => 1
  | .halt .. => 2
  | _ => 0

/-! ## Fetching and stepping (R6, R33, R36) -/

/-- The state in which word `n` of a block is fetched: after those before it (R6, R33). -/
def beforeWord (s : State) (k addr : Nat) : Nat → State
  | 0 => s
  | n + 1 => ((beforeWord s k addr n).fetchWord k (wordAddr addr n)).2

/-- Nothing of a state waits for the end of a step: no watcher, no pipeline action, no move or wash of a committed instance, no message for a flit. -/
def nothingWaits (s : State) : Prop :=
  s.eng.watchers = [] ∧ s.svc.acts = [] ∧ (∀ e ∈ s.strokes, e.2.run.moves = [] ∧ e.2.run.waiting = []) ∧ ∀ e ∈ s.plat.links, e.2.queue = []

end Sys2Proof.Claim

section

open Sys2Proof Sys2Proof.Machine Sys2Proof.Claim

/-- After reset no stroke is resident, no translation is cached, no word is under way and no marker has been issued; on every slab WELLSHARE
holds PEND 32 and LOG 0 for each of its 24 wells, SHARE 1 for each partition, BUDGET 131,072, RAMP 2 at each of its 8 steps and ROUTERPG 4;
every GATEWAY and NIBPART is 0; the lane configuration words, LFLAGS, the lane and matrix tickets and MFLAGS of every unit are 0. (That
nothing is resident or under way is the model's own reading of a reset, log entry 6.) -/
def Obligations.ResetLeaves : Prop :=
  State.reset.strokes = [] ∧ State.reset.mem.tlb = [] ∧ State.reset.net.words = [] ∧ State.reset.rounds.issued = 0 ∧
    (∀ slab < 12, (∀ well < 24, State.reset.csrGet 0x42 slab well = 32) ∧ (∀ p < 256, State.reset.csrGet 0x48 slab p = 1) ∧
      State.reset.csrGet 0x49 slab 0 = 131072 ∧ (∀ i < 8, State.reset.csrGet 0x64 slab i = 2) ∧ State.reset.csrGet 0x65 slab 0 = 4 ∧
      ∀ n < 160, State.reset.csrGet 0x46 slab n = 0) ∧
    (∀ e < 256, State.reset.csrGet 0x47 0 e = 0) ∧
    ∀ u, let x := State.reset.unit u
      (∀ c ∈ x.lane.lc, c = 0) ∧ x.lane.lflags0 = 0 ∧ x.lane.lflags1 = 0 ∧ x.lane.completed = 0 ∧ x.matrix.mdone = 0 ∧ x.matrix.mflags = 0

/-- Inv holds at State.reset: the list of bytes that memory holds rises strictly in address and lists no byte that equals what an unlisted
one reads as (the form is the model's own, log entry 3). No instance and no image stands there, so Numbered (O60) holds as well. -/
def Obligations.ResetInv : Prop := Sys2Proof.Inv State.reset ∧ Numbered State.reset

/-- For every state s with Inv s, reached or not: if step s answers a next state t, then Inv t. So after every instruction and every event
equal memories are equal data, each byte has one value, and a write of what an unlisted byte reads as leaves no entry (the form is the
model's own, log entry 3). -/
def Obligations.StepKeepsInv : Prop := ∀ s t, Sys2Proof.Inv s → step s = .next t → Sys2Proof.Inv t

/-- Every instruction that is well formed (the checks of Table 2-11 on one word) has a 32-bit encoding, and decoding it gives the
instruction back, with every operand at every value. -/
def Obligations.DecodesEncoded : Prop :=
  ∀ i, WellFormed i = true → ∃ w, encode i = some w ∧ decodeWord w = .ok i

/-- Whenever a 32-bit word decodes to an instruction, the instruction is well formed and its encoding is that word: no bit of a word is
ignored, reserved bits included. -/
def Obligations.EncodesDecoded : Prop := ∀ w i, decodeWord w = .ok i → WellFormed i = true ∧ encode i = some w

/-- The assembled words of R86, R87 and of the sqsum listing (MOVI #-1, MOV.f, NULL, RECV in3, SEL, GATE, MOVX #12, PUT.n g6, BRA.f, BRI.t,
RET, EXIT #5, CTR, GET, MOV, MUL, CARRY, ADD) decode to those instructions. -/
def Obligations.ListedWords : Prop := listed.all (fun e => decodeTableWord 32 e.1 == some e.2) = true

/-- A word whose major opcode is marked reserved in Table 2-6, or whose extended opcode is not listed in Tables 2-7 to 2-10, decodes to the
refusal RSVOP. Each word of a block that passes every check of Table 2-11 on a unit decodes to an instruction, of no higher privilege than
the unit's; HALT only on the management nib. -/
def Obligations.ReservedAndPrivilegedWords : Prop :=
  (∀ w : BitVec 32, (dashMajor (w.toNat / 2 ^ 25) = true ∨ usedExt (w.toNat / 2 ^ 25) (w.toNat / 2 ^ 7 % 2 ^ 9) = false) →
    decodeWord w = .error .rsvOp) ∧
  (∀ (u : Nat) (ro : Bool) (h : BitVec 32) (ws : List (BitVec 32)) (n : Nat) (w : BitVec 32), blockCheck u ro h ws = none → ws[n]? = some w →
    ∃ i, decodeWord w = .ok i ∧ lowestPriv i ≤ unitPriv u ∧ ((∃ p, i = .halt p) → nibOf u = 162))

/-- When the config store of the unit holds no image for an address and fetching the block there answers one, the image has the block's
address and COUNT + 1 words, and its header and each word n are the four little-endian bytes, undamaged and as committed at module scope, at
the address to which block + 4 n is translated in the state that the fetch has reached for word n: by a walk, or by a cached leaf where an
older value differs and the model chooses so. That state is the one the fetch began in but for cached translations, the count of walks, the
free values drawn and the requests that have left for a peer (log entries 1, 61 and 78). -/
def Obligations.ImagesComeFromMemory : Prop :=
  ∀ (s : State) (k addr : Nat) (i : Image) (s' : State), (s.unit (unitOf k)).images.find? (·.addr == addr) = none → s.image k addr = (.ok i, s') →
    i.addr = addr ∧ i.words.length = i.header.toNat / 2 ^ 26 + 1 ∧
      ∀ (n : Nat) (w : BitVec 32), (i.header :: i.words)[n]? = some w →
        let s1 := beforeWord s k addr n
        let old := s1.drawStale k (addr / 2 ^ 64) ((addr + 4 * n) % 2 ^ 64) 4
        ∃ p : Phys, (old.2.translateFor k old.1 (addr / 2 ^ 64) ((addr + 4 * n) % 2 ^ 64) 4).1 = .ok p ∧
          s.mem.poisoned p.key 4 = none ∧ w = BitVec.ofNat 32 (s.mem.get p.key 4) ∧
          s1 = { s with fresh := s1.fresh, mem := { s.mem with tlb := s1.mem.tlb, misses := s1.mem.misses },
                        plat := { s.plat with links := s1.plat.links } }

/-- When the agenda names a slot of a resident instance whose word decodes to i, and the module is out of reset and not replaying, step is
exec of i at the state with that choice taken from the agenda and the cursor on the slot; when it names an event, step is exec of it; when
the agenda is empty, step performs the model's own choice and counts it, and with none to make it counts the turn; a module that replays
performs the oldest choice of its log ring with the free values that it drew as it was made. What follows exec settles the state
(State.after): watchers are latched, pipeline actions, moves and washes that may go on do so, ports send flits, and a recording module
records the choice; with none of these pending it changes nothing else. A word loaded with withFetchWord is run by the next step (agenda,
cursor, log and load are the model's own, log entries 4, 6 and 62). -/
def Obligations.StepRunsInstruction : Prop :=
  (∀ (s : State) (k n : Nat) (stale : Bool) (rest : List Pick) (i : Instr) (ins : Instance) (w : BitVec 32),
    s.agenda = .slot k n stale :: rest → s.replaying = false → s.inReset = false → s.inst k = some ins → ins.words[n]? = some w →
    decodeWord w = .ok i →
      step s = State.after (.slot k n stale) s.fresh (exec i { s with agenda := rest, cur := { stroke := k, slot := n, stale := stale } })) ∧
  (∀ (s : State) (i : Instr) (rest : List Pick), s.agenda = .event i :: rest → s.replaying = false → s.inReset = false → isWord i = false →
    step s = State.after (.event i) s.fresh (exec i { s with agenda := rest })) ∧
  (∀ (s : State) (p : Pick), s.agenda = [] → s.replaying = false → s.choose = some p →
    step s = State.after p s.fresh (perform p { s with turn := s.turn + 1 })) ∧
  (∀ s : State, s.agenda = [] → s.replaying = false → s.choose = none →
    step s = .next (if s.inReset then s else { s with turn := s.turn + 1 })) ∧
  (∀ (s : State) (p : Pick) (f : Nat) (rest : List (Pick × Nat)), s.replaying = true → s.log.ring = (p, f) :: rest →
    step s = State.after p f (perform p { s with fresh := f, log := { s.log with ring := rest, drawn := max s.log.drawn s.fresh } })) ∧
  (∀ (s : State) (p : Pick) (f : Nat), State.after p f (.next s) = .next (s.settle p f)) ∧
  (∀ (s : State) (p : Pick) (f : Nat), nothingWaits s → s.inReset = false →
    s.settle p f = (if s.replayMode = 1 then { s with log := { s.log with made := s.log.made ++ [(p, f)] } }
      else if s.replayMode = 2 then { s with fresh := max s.fresh s.log.drawn } else s)) ∧
  (∀ nbits w i, decodeTableWord 32 w = some i →
    ∃ s x p f, step (State.reset.withFetchWord nbits w) = State.after p f (exec i s) ∧ s.ctx = some x)

/-- While the module stays in reset, a step whose choice is not a reset leaves the state as it was, but for taking that choice (from the
agenda, the log or the model's own counter). R427 says that the module stays in reset and that FWSTAT reports the failure; that every choice
but a reset then does nothing is the model's own reading of it (log entry 56). -/
def Obligations.HeldInReset : Prop :=
  ∀ (s s' : State) (p : Pick), s.inReset = true → s.nextPick = some (p, s') → (∀ b v, p ≠ .event (.moduleReset b v)) →
    step s = .next s' ∧ s' = { s with agenda := s'.agenda, log := s'.log, turn := s'.turn, fresh := s'.fresh }

/-- For every instruction word but the root counter and a CARRY that has a feedback token to discard (what these do, RoutersComplete says):
while a used port holds no token exec changes nothing; when the slot may fire, mode 01 with P false or null and mode 10 with P true or null
consume all tokens and produce nothing, mode 11 with P false or null sends null to every target, and mode 00 or a P that says so fires. A
token is true when it is a nonzero value, false when zero; null is neither. -/
def Obligations.PredicateModes : Prop :=
  ∀ (i : Instr) (s : State) (x : Ctx), s.ctx = some x → ordinary i x = true →
    ((formOf i x.me).fed x.me = false → exec i s = .next s) ∧
    (x.fireable (formOf i x.me) = true →
      (table25 (formOf i x.me).p x.me.portP.join = .nothing → exec i s = .next ((s.consume (formOf i x.me) x false).flush x.k)) ∧
      (table25 (formOf i x.me).p x.me.portP.join = .null → exec i s = .next ((s.consume (formOf i x.me) x false).emit x.k x.n
        (formOf i x.me).t (formOf i x.me).v (some none) (some none))) ∧
      (table25 (formOf i x.me).p x.me.portP.join = .fires →
        ((formOf i x.me).ownNull || !((formOf i x.me).anyNull { a := x.me.portA.join, b := x.me.portB.join, c := x.me.portP.join })) = true →
        firing i s = some (x, { a := x.me.portA.join, b := x.me.portB.join, c := x.me.portP.join })))

/-- For every instruction that does not define its own handling of null, which is every one but CARRY, the counters and the other routers,
SEL and GATE (RoutersComplete and MovesComplete say what these do with null): when it fires with null on a data port it uses, exec answers
the state in which its tokens are consumed, its iteration is counted (so that a counted store, a PUT or an exit has resolved) and null goes
to each target; nothing else changes. -/
def Obligations.NullOperands : Prop :=
  ∀ (i : Instr) (s : State) (x : Ctx), s.ctx = some x → ordinary i x = true → x.fireable (formOf i x.me) = true →
    table25 (formOf i x.me).p x.me.portP.join = .fires → (formOf i x.me).ownNull = false →
    (formOf i x.me).anyNull { a := x.me.portA.join, b := x.me.portB.join, c := x.me.portP.join } = true →
    exec i s = .next ((s.consume (formOf i x.me) x false).emit x.k x.n (formOf i x.me).t (formOf i x.me).v (some none) (some none))

/-- In a state whose instances are numbered (O60): GET, PUT, the moves, SEL, GATE, the exits, every integer, floating-point, packed and
function instruction, CVT, SRND, RDFLG, CLRFLG, RNGN and the routers but CARRY: when exec answers a next state, memory, every system
register, the rounds, the platform and every unit (but for a management nib that a trap stops) are unchanged, and so are the registers, PC
and FLAGS of every stroke, but for the three registers that a trap sets. Registers change at commit alone (R48). -/
def Obligations.ComputingFrame : Prop :=
  ∀ (i : Instr) (s t : State), computes i = true → Numbered s → exec i s = .next t →
    t.mem = s.mem ∧ t.csr = s.csr ∧ t.plat = s.plat ∧ t.rounds = s.rounds ∧ registersKept s t ∧
      ∀ u, { t.unit u with stopped := false } = { s.unit u with stopped := false }

/-- In a state whose instances are numbered (O60): when exec answers a next state, no system register changes and no register of any stroke,
but for those a trap sets; and every byte of memory outside the bytes that the form stores to (computed with the functions by which the
meaning locates the access) is at its home what it was, and reads for the stroke what it read. LD and FESET store to no byte; LDV stores to
the window range of B; ST and STV to the located range. -/
def Obligations.AccessFrame : Prop :=
  ∀ (i : Instr) (s t : State), accesses i = true → Numbered s → exec i s = .next t →
    t.csr = s.csr ∧ registersKept s t ∧
      ∀ a, (∀ key n, storedAt i s = some (key, n) → a < key ∨ key + n ≤ a) →
        t.mem.byte a = s.mem.byte a ∧
          t.mem.loadByte (s.readerOf s.cur.stroke) none a = s.mem.loadByte (s.readerOf s.cur.stroke) none a

/-- Taking a trap on any unit but a scribe, of a stroke not already TRAPPED: it becomes TRAPPED with its region, instance words, ports and
general registers and PC as they were; TRAPCAUSE holds the code (with DEF for TRAPSLOT 65), TRAPSLOT the slot and TRAPVAL the value; no
other stroke, no memory and no system register changes. On the management nib the nib stops and nothing is posted; elsewhere one word is
posted, to the place in TRAPPL of a user stroke's partition when it is valid, else to (slab, 162, 0), with TAG 0x7E, the code, DEF and the
stroke word. -/
def Obligations.TrapEntry : Prop :=
  ∀ (s : State) (k slot code : Nat) (val : Word) (t : Stroke), s.stroke k = some t → t.run.state ≠ .trapped → isScribe (unitOf k) = false → code < 256 →
    let s' := s.takeTrap k slot code val
    (∃ t', s'.stroke k = some t' ∧ t'.run.state = .trapped ∧ t'.run.before = t.run.state ∧ t'.run.region = t.run.region ∧
      t'.run.inst.map (fun i => (i.words, i.slots)) = t.run.inst.map (fun i => (i.words, i.slots)) ∧
      t'.regs.trapcause = BitVec.ofNat 64 (if slot = 65 then 256 + code else code) ∧ t'.regs.trapslot = BitVec.ofNat 64 slot ∧
      t'.regs.trapval = val ∧ t'.regs.g = t.regs.g ∧ t'.regs.pc = t.regs.pc) ∧
    (∀ j, j ≠ k → s'.stroke j = s.stroke j) ∧ s'.mem = s.mem ∧ s'.csr = s.csr ∧
    (unitPriv (unitOf k) = 2 → (s'.unit (unitOf k)).stopped = true ∧ s'.net = s.net) ∧
    (unitPriv (unitOf k) ≠ 2 → ∃ w, s'.net.words = s.net.words ++ [w] ∧ w.place = reportsTo s k t.decl.part ∧
      w.word = BitVec.ofNat 64 (0x7E * 2 ^ 56 + code * 2 ^ 48 + (if slot = 65 then 2 ^ 18 else 0) +
        (slabOf (unitOf k) * 2 ^ 14 + nibOf (unitOf k) * 2 ^ 6 + k % 32)))

/-- They complete with the exact result of their operands in the view of U, narrowed to W and extended by U. "Completes" is: whenever the
slot at the cursor may fire and its predicate and tokens let it, exec answers the next state in which the table's effect has been taken, the
tokens of the used ports are consumed, the iteration is counted and the results have gone to the targets; everything else is unchanged. -/
def Obligations.IntegerArithmeticResults : Prop := completes integerArithmeticResults

/-- AND, OR, XOR, ANDN, NOT, their immediate forms, SHL, SHR, ASR and their immediate forms, CLZ, POPC, CMP, BFX, BFI and LEA complete with
the listed value. "Completes" is: whenever the slot at the cursor may fire and its predicate and tokens let it, exec answers the next state
in which the table's effect has been taken, the tokens of the used ports are consumed, the iteration is counted and the results have gone to
the targets; everything else is unchanged. -/
def Obligations.IntegerLogicResults : Prop := completes integerLogicResults ∧ completes integerFieldResults

/-- DIV and REM truncate toward zero; a zero divisor gives all ones or the dividend with DZ; the most negative number over -1 gives itself
or 0 with OF; ADDS and SUBS saturate with OF. every OF comes with NX. SF suppresses the flags. "Completes" is: whenever the slot at the
cursor may fire and its predicate and tokens let it, exec answers the next state in which the table's effect has been taken, the tokens of
the used ports are consumed, the iteration is counted and the results have gone to the targets; everything else is unchanged. -/
def Obligations.IntegerFlaggedResults : Prop := completes integerFlaggedResults

/-- FADD, FSUB, FMUL, FFMA, PADD, PMUL, PFMA, PDOT, CVT and SRND complete with the exact sum or product of their operands rounded once, with
input and output flushing by FI and FO, lane by lane for the packed forms; CVT rounds its operand into the named format, or, into an integer
format, to the integer that the mode names, clamped to the extremes, with NV, or OF and NX, where it clamps; SRND rounds to one of the two
neighbours as its random token says (both are defined beside the table from R77 and R78). They raise the flags of the rounding unless SF is
set. "Completes" is: whenever the slot at the cursor may fire and its predicate and tokens let it, exec answers the next state in which the
table's effect has been taken, the tokens of the used ports are consumed, the iteration is counted and the results have gone to the targets;
everything else is unchanged. -/
def Obligations.FloatArithmeticResults : Prop := completes floatArithmeticResults

/-- FNEG and FABS change the sign bit alone; FCMP compares with NV for signalling and, in ordered conditions, for any NaN; FCLASS gives one
bit of ten; FMIN and FMAX give the smaller and the larger operand, -0 below +0, under the NaN policy of their modifier, with the flushing of
FI and FO (defined beside the table from R100). "Completes" is: whenever the slot at the cursor may fire and its predicate and tokens let
it, exec answers the next state in which the table's effect has been taken, the tokens of the used ports are consumed, the iteration is
counted and the results have gone to the targets; everything else is unchanged. -/
def Obligations.FloatSelectResults : Prop := completes floatSelectResults

/-- The five functions complete for every operand. On a finite nonzero operand: RCP rounds 1/a and RSQ 1/sqrt a, each exact; EXP2, LOG2 and
TANH round the exact value where it is a power of two or an exponent, or far outside FP32's range, and else one within 2^30 units of the
400th binary place of it, where both ends of that span round alike. A NaN gives the default NaN, with NV when signalling; and infinities and
zeros give the results and flags of Table 4-8. Where the model's enclosure does not decide a rounding, the result is a free value (log entry
1). "Completes" is: whenever the slot at the cursor may fire and its predicate and tokens let it, exec answers the next state in which the
table's effect has been taken, the tokens of the used ports are consumed, the iteration is counted and the results have gone to the targets;
everything else is unchanged. -/
def Obligations.FunctionResults : Prop := completes functionResults ∧ completes functionOrdinaryOperands ∧ completes functionSpecialOperands

/-- GET delivers the register as at instance start, PUT records its value for commit, the moves deliver immediates, addresses and tokens,
SEL and GATE pass null as they say; RDFLG and CLRFLG deliver the masked flags as at instance start, and CLRFLG joins its mask to the clear
set; RNGN delivers the next half of the mixed counter. "Completes" is: whenever the slot at the cursor may fire and its predicate and tokens
let it, exec answers the next state in which the table's effect has been taken, the tokens of the used ports are consumed, the iteration is
counted and the results have gone to the targets; everything else is unchanged. -/
def Obligations.MovesComplete : Prop := completes movesComplete ∧ completes flagAndRandomResults

/-- An exit that fires in the final iteration of an instance in which none has fired records where the stroke goes on; one of an earlier
iteration traps with EARLYEXIT, TRAPVAL the iteration; a second one traps with MULTIEXIT, TRAPSLOT the higher slot and TRAPVAL its exit
index. "Completes" is: whenever the slot at the cursor may fire and its predicate and tokens let it, exec answers the next state in which
the table's effect has been taken, the tokens of the used ports are consumed, the iteration is counted and the results have gone to the
targets; everything else is unchanged. -/
def Obligations.ExitsFire : Prop :=
  completes exits ∧ traps earlyExits ∧
  (∀ i kind s x g f r, exitKind i = some kind → firing i s = some (x, g) → ¬ x.me.done + 1 < x.ins.total.getD 1 →
    x.ins.fired = f :: r →
    exec i s = .next ((s.modInst x.k fun y => { y with fired := y.fired ++ [{ slot := x.n, kind := kind x g }] }).takeTrap x.k
      (max f.slot x.n) 4 (BitVec.ofNat 64 (exitIndex (x.ins.words.getD (max f.slot x.n) 0)))))

/-- The nested CTR counts to each bound, STEER, MERGE, CARRY, INVAR and RRMERGE route their tokens with null as R90 says; a CARRY that has a
feedback token to discard discards it, and then does what one without does; the root counter takes its bound once and emits one index and
marker per iteration, null for a zero bound. "Completes" is: whenever the slot at the cursor may fire and its predicate and tokens let it,
exec answers the next state in which the table's effect has been taken, the tokens of the used ports are consumed, the iteration is counted
and the results have gone to the targets; everything else is unchanged. -/
def Obligations.RoutersComplete : Prop :=
  completes routersComplete ∧ carryDiscards ∧
  (∀ t v adv sparse s x b, s.ctx = some x → x.n = 0 → x.ins.stream = true → x.me.mode ≠ .owed → x.me.out1 = none → x.me.out2 = none →
    s.rounds.issued ≤ s.edgeOf x.k x.st →
    (x.ins.bound = some b ∧ x.ins.emitted < max b 1 ∨ x.ins.bound = none ∧ x.me.portA.map (fun a => (a.getD 0).toNat) = some b) →
    let idx : Token := if b = 0 then none else some (BitVec.ofNat 64 x.ins.emitted)
    let m := lastMark sparse (b = 0 ∨ x.ins.emitted = b - 1)
    s.routeTrap x.k t (some idx) = none → s.routeTrap x.k v m = none →
    exec (.ctr t v adv sparse) s = .next
      (((s.modInst x.k fun i => { i with bound := some b, emitted := x.ins.emitted + 1 }).modSlot x.k x.n fun y =>
        { y with portA := none, done := y.done + 1, fired := y.fired + 1, count := x.ins.emitted + 1 }).emit x.k x.n t v (some idx) m))

/-- An access that stays in the stroke's own scratchpad, named by a window offset or a self-form nib address. While no granule is damaged
(and, for a store, no wash is under way): an aligned LD reads, or ST writes at its bank, and clears or sets full bits as its qualifier says,
a waiting one once its granule is full and no reader that came before it still waits; LDV and STV move all their granules in ascending order
and complete; FESET fills or empties a granule. A misaligned LD, ST or FESET traps with MISALIGN, one outside the window with SPADWIN,
TRAPVAL the offset, a bad nib address with NIBADDR. "Completes" is: whenever the slot at the cursor may fire and its predicate and tokens
let it, exec answers the next state in which the table's effect has been taken, the tokens of the used ports are consumed, the iteration is
counted and the results have gone to the targets; everything else is unchanged. -/
def Obligations.WindowAccesses : Prop := completes windowAccesses ∧ traps windowTraps

/-- An LD gives the latest value that the stroke sees: extended from a page of format none, under .raw or of a scratchpad; else the decoded
element, times its block's scale. An ST becomes a pending write while it fits the pending limits: the payload as it stands, or encoded by
the page's format and scale. LDV and STV move granules raw, or decode and encode four elements a granule. .fe, .fc and .fs act on the full
bits of the scratchpad that is named; a vector copy under a full-bit qualifier that comes to an empty granule, or to one for which an
earlier reader waits, keeps what it has moved, joins the granule's queue and waits. LD.sc and ST.sc send their access to the node of the SC
ring. Each owes its reply. The next state is given whole: the tokens are consumed, the slot owes its result until the reply, and everything
else is unchanged. -/
def Obligations.MemoryAccessesIssue : Prop := owes memoryAccesses ∧ waitsIn fullBitWaits ∧ sends scAccesses

/-- CBINIT sets a handle from a legal descriptor; CBWAIT and CBRSV give the address of the next slot once enough slots are filled or free,
and else, with bit Y, null with the wait armed; CBADV counts and moves its pointer, a tail once the stroke's earlier stream tokens are
stored: it shows the earlier stores into the buffer to the buffer's nib, the engines and the partner's nib, sends a partner its update word
and tests an armed wait again; a bad descriptor traps with CBDESC, a count beyond the handle with CBRANGE. "Completes" is: whenever the slot
at the cursor may fire and its predicate and tokens let it, exec answers the next state in which the table's effect has been taken, the
tokens of the used ports are consumed, the iteration is counted and the results have gone to the targets; everything else is unchanged. -/
def Obligations.BufferInstructions : Prop := completes bufferInstructions ∧ traps bufferTraps

/-- Once the stroke's earlier tokens are stored and the binding that it replaces has ended, SBIND binds a port to the pattern of a record in
the own window, or unbinds it; RECV takes the oldest token of its in-port, from a binding or a seam route, past the markers of rounds that
the region has reached; BSET sets a permutation and BPERM applies one. SBIND of a port on a seam route, or of a bad record, traps with
STREAMBIND; RECV of a port with neither traps with UNBOUNDPORT, past the last element with STREAMEND. "Completes" is: whenever the slot at
the cursor may fire and its predicate and tokens let it, exec answers the next state in which the table's effect has been taken, the tokens
of the used ports are consumed, the iteration is counted and the results have gone to the targets; everything else is unchanged. -/
def Obligations.StreamInstructionsComplete : Prop := completes streamInstructions ∧ traps streamTraps

/-- AADD, AMIN, AMAX, AAND, AOR, AXOR, ASWP, ACAS, their vector forms, AFADD and AFINIT, on operands that pass their checks, queue their
request at the owner node of the address, the peer or the scratchpad bank, and keep their tokens until the reply; a vector form sends its
lanes in ascending order from RESUMEIDX on, or those that came back to it, and stops at one that cannot be sent after others were. A vector
form with no lane left to send completes with its count; a lane record that is misaligned, damaged, outside the window or of no or more than
16 lanes traps. -/
def Obligations.AtomicsSendRequests : Prop := sends atomicRequests ∧ completes vectorEnds ∧ traps recordTraps

/-- The oldest update of its stroke at a node, scalar or one lane of a vector atomic, applies, unless a wash holds its bytes: the versions
it acts on go home, memory holds the new value, committed, and the old value, extended, is its reply, or goes to the lane's place in the
record; a compare and swap that does not match writes nothing. For each event the table gives the whole next state that exec answers, for
every state and operands it covers. -/
def Obligations.AtomicUpdatesApply : Prop := happens atomicApplies

/-- An AFADD with no context, or whose index has passed or is held already, traps with AFSEQ; one whose index is next adds in FP32 and its
context counts; one up to 255 ahead is held, one further ahead waits. AFINIT rejects what is held and creates, resets or frees a context, of
at most 256 a node. A node that the SC token visits performs at most 16 accesses: each time the first in arrival order that may be
performed, which is an access of a range of the node that has arrived after those of its stroke to the node, whose bytes no wash holds, and
of an AFADD one whose index is next and whose folio is not frozen; then the token goes to the next member, and a change of the members takes
effect as a circuit begins. For each event the table gives the whole next state that exec answers, for every state and operands it covers.
-/
def Obligations.SequencedAddsApply : Prop := happens sequencedAdds

/-- Each leaves a boundary with the stroke at the order it has reached; BARA and BARW also count as arrivals at the folio's barrier. The
next state is given whole: the tokens are consumed, the slot owes its result until the reply, and everything else is unchanged. -/
def Obligations.BoundariesFire : Prop := owes boundariesFire

/-- The first boundary of a stroke completes: its writes become visible at its scope, NUMBER counts it and a new phase begins; a barrier
whose strokes have all arrived, their boundaries complete, begins its next generation and answers those that wait. For each event the table
gives the whole next state that exec answers, for every state and operands it covers. -/
def Obligations.BoundariesComplete : Prop := happens boundariesComplete

/-- FENCE with bit A begins a phase of the stroke; PUBLISH exchanges the leaves of a range whose every leaf has a legal shadow, and forgets
cached translations. "Completes" is: whenever the slot at the cursor may fire and its predicate and tokens let it, exec answers the next
state in which the table's effect has been taken, the tokens of the used ports are consumed, the iteration is counted and the results have
gone to the targets; everything else is unchanged. -/
def Obligations.FenceAndPublishComplete : Prop := completes fenceAndPublish

/-- A legal configuration word is stored; a run with a legal descriptor joins the queue and its ticket is the result; LWAIT ends once its
ticket has completed; LSTAT reads, and may clear, a word of status. "Completes" is: whenever the slot at the cursor may fire and its
predicate and tokens let it, exec answers the next state in which the table's effect has been taken, the tokens of the used ports are
consumed, the iteration is counted and the results have gone to the targets; everything else is unchanged. -/
def Obligations.LaneInstructionsComplete : Prop := completes laneInstructions

/-- MDA, MDB and RTSET store a legal pair of words; MSTAT reads, and may clear, the flags. "Completes" is: whenever the slot at the cursor
may fire and its predicate and tokens let it, exec answers the next state in which the table's effect has been taken, the tokens of the used
ports are consumed, the iteration is counted and the results have gone to the targets; everything else is unchanged. -/
def Obligations.MatrixSettingsComplete : Prop := completes matrixSettings

/-- On operands that pass their checks each joins a queue of at most sixteen entries with the next ticket, with what it captures at that
moment, and owes the ticket. The next state is given whole: the tokens are consumed, the slot owes its result until the reply, and
everything else is unchanged. -/
def Obligations.MatrixInstructionsQueue : Prop := owes matrixInstructions

/-- HSET binds an entry; HMASK masks or unmasks the named channels and gives the old masks; HCLR empties an entry that is not the stroke's
last; INRD takes the oldest word of a round that the region has reached, and with TRY gives null when there is none. R181 gives null for an
empty inbox; that a head word of a round whose edge the region has not passed counts as none, so that INRD with TRY sends null and without
it waits, is the model's own reading of R160 and R161 (log entry 29). "Completes" is: whenever the slot at the cursor may fire and its
predicate and tokens let it, exec answers the next state in which the table's effect has been taken, the tokens of the used ports are
consumed, the iteration is counted and the results have gone to the targets; everything else is unchanged. -/
def Obligations.HandlerInstructionsComplete : Prop := completes handlerInstructions

/-- CHSEND posts one word to a reachable place, CHMCAST one to up to 64 places; each owes its result until every word is in its inbox. The
next state is given whole: the tokens are consumed, the slot owes its result until the reply, and everything else is unchanged. -/
def Obligations.SendInstructionsIssue : Prop := owes sendInstructions

/-- CHAPP counts the entry and makes it the chain's tail; SEQRD reads a sequence word; SEQWAIT gives 1 when the word has reached the value,
else 0 with a watcher armed. "Completes" is: whenever the slot at the cursor may fire and its predicate and tokens let it, exec answers the
next state in which the table's effect has been taken, the tokens of the used ports are consumed, the iteration is counted and the results
have gone to the targets; everything else is unchanged. -/
def Obligations.ChainInstructionsComplete : Prop := completes chainInstructions

/-- A legal record defines a group with marks of 0, a mask replaces PRESENT, an idle group is released; WLD issues a wash and WLDS one that
owes its two values; WSTAT reads, and may clear, the status. "Completes" is: whenever the slot at the cursor may fire and its predicate and
tokens let it, exec answers the next state in which the table's effect has been taken, the tokens of the used ports are consumed, the
iteration is counted and the results have gone to the targets; everything else is unchanged. -/
def Obligations.WashInstructions : Prop := completes washInstructions ∧ owes washToToken

/-- CPDEF defines an object with a copy on each of the twelve slabs, of zeros or of the image that its descriptor names, or releases an idle
one; CPTRIM raises TRIM; CPWAIT on a slab whose copy is not damaged answers 1 or arms a watcher; CPSTAT, CPARG and CPRET read and write what
they name. "Completes" is: whenever the slot at the cursor may fire and its predicate and tokens let it, exec answers the next state in
which the table's effect has been taken, the tokens of the used ports are consumed, the iteration is counted and the results have gone to
the targets; everything else is unchanged. -/
def Obligations.CopybookInstructionsComplete : Prop := completes copybookInstructions

/-- CPCALL sends its call with place and arguments to the object's home and keeps its tokens; CPREAD on a slab that has applied what it
knows of starts its method in a free context and owes the result. -/
def Obligations.CopybookCallsAndReads : Prop := sends copybookCalls ∧ owes copybookReads

/-- GUESS answers 0 for a stale tag and 2 for a standing equal guess, and launches with 1, or with 3 once the squash has been absorbed;
LAUNCH launches a position; SQREG registers a member, rows or releases; SQCHK retires. Each owes its result; a GUESS or a LAUNCH that may
not begin yet stands among the actions that have fired, and keeps its tokens. The next state is given whole: the tokens are consumed, the
slot owes its result until the reply, and everything else is unchanged. -/
def Obligations.PipelineActionsIssue : Prop := owes pipelineActions ∧ sends pipelineWaits

/-- TAGRD gives the tag; SQCHK gives 1 for a live token and 0 for a killed one; SQREG.rel of a record of which the stroke holds nothing
gives 0; KVWR writes its row, header first, unless the kill table or a newer row forbids it: into the own scratchpad at once, into another
nib's as a committed write that owes its result and shows the stroke's earlier stores to that scratchpad there. "Completes" is: whenever the
slot at the cursor may fire and its predicate and tokens let it, exec answers the next state in which the table's effect has been taken, the
tokens of the used ports are consumed, the iteration is counted and the results have gone to the targets; everything else is unchanged. -/
def Obligations.PipelineChecksComplete : Prop := completes pipelineChecks ∧ owes rowsSent

/-- CANDLD, CANDST, RNGSEED, RNGNEXT, DRAW, PEN, JRNL, JCOMMIT, JDROP, GSNAP and GREST act on a context of the stroke's partition; TMASK
gives rows of the ancestor matrix and TDEPTH depths or positions. "Completes" is: whenever the slot at the cursor may fire and its predicate
and tokens let it, exec answers the next state in which the table's effect has been taken, the tokens of the used ports are consumed, the
iteration is counted and the results have gone to the targets; everything else is unchanged. -/
def Obligations.SamplerInstructionsComplete : Prop := completes samplerInstructions ∧ completes treeInstructions

/-- TOPK keeps the best K of N logits of the own window, larger keys first and equal ones in order of arrival; GMASK puts minus infinity in
every candidate whose bitmap bit is 0. Each owes a count. The next state is given whole: the tokens are consumed, the slot owes its result
until the reply, and everything else is unchanged. -/
def Obligations.SamplerReadsIssue : Prop := owes samplerReads

/-- On operands that pass their checks. CSRR gives a stroke register (flags, pages, PC, trap and exception registers), the flags of a nib,
or a system register. CSRW gives the old value; of a stroke register the write is recorded for commit; a CSRW of LFLAGS or MFLAGS keeps the
flags that its value holds and sets none (log entry 42); a system register holds the legal value, reserved bits zero, with the effects that
afterWrite lists register by register (log entry 43). RFT with RETRY runs a trapped slot again, or resolves a TRAP's, with SKIP sends null
for it, and with 2 ends the stroke; what it does at other traps, and the order in which held traps follow, is log entry 44. TLBINV posts
arrival words, lets what is on its way arrive and removes the range's translations; TLBPROBE walks and gives leaf bits or the fault; CFGINV
removes images; HALT marks the instance; THAW resumes a folio; FREEZE of a frozen folio gives its round. Where log entries 42, 43 and 44 are
named the spec leaves the effect open and the model chose. "Completes" is: whenever the slot at the cursor may fire and its predicate and
tokens let it, exec answers the next state in which the table's effect has been taken, the tokens of the used ports are consumed, the
iteration is counted and the results have gone to the targets; everything else is unchanged. -/
def Obligations.SystemInstructionsComplete : Prop := completes systemInstructions

/-- TRAP takes a precise trap of its slot with REQUEST and TRAPVAL A; FREEZE of a running folio requests a marker, freezes the strokes
without a region and owes its result; a selector that names no register, a read-only one for CSRW, or a value that breaks the register's
layout traps with CSRBAD, one beyond the stroke's privilege with PRIVCSR, TRAPVAL the selector; a TLBPROBE whose walk meets an uncorrectable
error traps with UNCORR (log entry 77). -/
def Obligations.SystemRequests : Prop :=
  (∀ t p s x g, firing (.trap t p) s = some (x, g) →
    exec (.trap t p) s = .next ((s.modSlot x.k x.n fun y => { y with stash := some g.a }).takeTrap x.k x.n 1 g.av)) ∧
  owes freezeRequests ∧ traps registerTraps

/-- CTXOUT of a stroke that owes nothing, and is frozen or TRAPPED and alone in its folio, writes its save area and gives the bytes written;
with DROP it ends the stroke; CTXIN of an area that stands as it was written places the stroke and gives its stroke word (what the rows of
an area hold is a free value, log entry 1). "Completes" is: whenever the slot at the cursor may fire and its predicate and tokens let it,
exec answers the next state in which the table's effect has been taken, the tokens of the used ports are consumed, the iteration is counted
and the results have gone to the targets; everything else is unchanged. -/
def Obligations.ContextInstructionsComplete : Prop := completes contextInstructions

/-- A fetched block starts an instance, or traps as its first failed check, its fetch or the start rule of a handler (HNDMODE) says, or
waits for its page. A commit writes the PUT registers, then the recorded CSRWs of FLAGS and AREGION, then FLAGS, and leaves its moves and
waiting washes to complete; a branch sets the PC, a YIELD leaves the region, a PARK leaves the stroke PARKED, an EXIT leaves the boundary at
which it ends, HALT stops the nib, and the oldest deferred trap is taken; NOEXIT and PCALIGN trap. A settled region with R47 unmet traps
with NOCOMMIT; the selector places the winner; candidates age; a marker is issued and enters every stream, in replay mode or when asked for;
an edge counts once nothing of the round may pass it, writes the log of a recording module and freezes a region that a FREEZE asked for; a
stalled store, of an out-port too, traps with PHASEOVF. For each event the table gives the whole next state that exec answers, for every
state and operands it covers. -/
def Obligations.BlockEventsHappen : Prop := happens blockEvents

/-- An inbox of fewer than eight words takes a word, a full one refuses it; update and arrival words are absorbed, and a halted nib goes on;
a multicast is replicated, each branch with the gateway it was admitted by; a reply is delivered; stream elements are read ahead and stored
on the own window; a null token uses up its element without an access. For each event the table gives the whole next state that exec
answers, for every state and operands it covers. -/
def Obligations.WordEventsHappen : Prop := happens wordEvents

/-- An instance of a task is placed on nibs with room whose sites rise, when its seams can be placed too; a waiting chain of tasks or tile-
tasks ages; an ended task writes CODE 1; the lowest finished entry stores its number, is counted and posts its wake word: R173 stores
nothing at a sequence address of 0, and that nothing is stored either at one that is no multiple of 8, and the entry counts as complete, is
the model's choice (log entry 34); halted and waiting chains go on; watchers post their words. For each event the table gives the whole next
state that exec answers, for every state and operands it covers. -/
def Obligations.ChainEventsHappen : Prop := happens chainEvents

/-- A copy entry runs to its end with CODE 1 and its partner's update word, or ends with CODE 7 or 6, a decoded extent past the scratchpad
before any access; a swap engine stores its commands one by one at the tail of a queue pair's submission queue and rings its doorbell, each
completes with a status of the drive and an entry of the completion queue, and the swap ends once all have (what bytes a command and a
completion hold is open, log entry 82): a swap-out evicts its pages, a swap-in exchanges its pages and posts arrivals, and one with a failed
command ends with CODE 6. For each event the table gives the whole next state that exec answers, for every state and operands it covers. -/
def Obligations.EngineEntriesRun : Prop := happens engineEntries

/-- The head run of a lane pipe starts and completes: each beat passes stages 0 to 5, each lane delivering what Table 7-3 lists, cross-lane
stages with their heads and carries, the row scaled by softmax, RMS or layer normalisation between stages 1 and 2, and is converted; its
beats and flags are written unless a wash holds them, its ticket is counted and its wake word posted. The head entry of a matrix queue
executes whole once slew control admits it: MMA adds the exact sum of 32 products to each accumulator word, rounded once a step, or
saturates; KLD, ACCZ, ACCRD and ACCWR move tiles; DRAIN masks, converts and writes rows; it completes with its ticket. Tile-tasks go to the
local queue that the choice rule names or are cancelled, an idle engine steals the oldest unstarted entry of the longest other queue, a
waiting one ages, and the head of a queue runs, computing as an MMA and converting as a drain, waits for a page, or is cancelled. Where
SIGM's enclosure does not decide a rounding the result is a free value (log entry 1). For each event the table gives the whole next state
that exec answers, for every state and operands it covers. -/
def Obligations.UnitEventsHappen : Prop := happens unitEvents

/-- A wash reads a member whose mark has passed K, or marks it failed, and after the last completes; the home appends a call at NEXT; a
scribe starts the next entry's method; a damaged copy is rebuilt; a member absorbs a squash; a page request takes its ring slot and is
reported. For each event the table gives the whole next state that exec answers, for every state and operands it covers. -/
def Obligations.ServiceEventsHappen : Prop := happens serviceEvents

/-- Each writes its register as a CSRW does: ROUND requests a marker; OWNRNG, once the updates bound to its range have applied, WELLSHARE,
PRQ, NIBPART, SWQ, ROLETAB and REPLAY take a legal value with reserved bits zero; SMPCTX zeroes what it assigns; JOBKILL marks its job;
KEYSLOT moves the staged key or erases a slot. That a ROLETAB write which changes the site leaves no lane spared (log entry 43), and that a
write of REPLAY word 1 drops the entries of the model's own log ring before LOGTAIL (log entries 58 and 62), are the model's choices. For
each event the table gives the whole next state that exec answers, for every state and operands it covers. -/
def Obligations.RegisterEventsHappen : Prop := happens registerEvents

/-- Budgets are shared out among the partitions whose ports sent or held a beat, and buckets refill; engines are admitted and step up;
routers are gated and wake; a flit of an existing link is taken, delivering what it carries, or asked for again; spares take over; clock and
host link change; errors are counted, located, reported and poison the code word they strike; an image is loaded again; reset leaves every
register at its reset value, or, when the check of the firmware image has passed, what the boot list sets up, and FWSTAT as the check came
out. How an error names its location, which strokes an error of a config store stops, and what a boot list holds, are the model's readings
(log entries 52 and 6), and so is which engines a slew step admits (log entry 81). What MODULE_RESET leaves, memory emptied, first strokes
READY with registers 0 and one handler, the count of free values kept, is log entry 54, and the zeros of registers without a reset value are
log entry 5: the model's choices. For each event the table gives the whole next state that exec answers, for every state and operands it
covers. -/
def Obligations.PlatformEventsHappen : Prop := happens platformEvents

/-- Host writes and reads of a host physical address that a decoder maps are committed and return committed values; a doorbell stages an
address, appends or is refused, and tells the last number; a nonce gets a report of its four items with their signature; a peer's words and
accesses, atomics on owned ranges included, are admitted under IPART, gateways and MEMOK, or refused, the reply leaving by a port (its codes
are log entry 79). Refusing a doorbell append whose staged address is no multiple of 64, and looking at decoder 0 first where both decoders
cover an address, are the model's choices (log entry 53): R410 refuses only for what gives CHAINID, and R408 gives no such order. For each
event the table gives the whole next state that exec answers, for every state and operands it covers. -/
def Obligations.HostEventsHappen : Prop := happens hostEvents

/-- For every state s in which each instance of a stroke, resident or saved, has as many slots as words, at most 64 (R35: COUNT holds 0 to
63), and every exit that has fired is one of its slots, and in which each decoded image has at most 64 words: if step s answers a next state
t, the same holds of t. -/
def Obligations.SlotsStayNumbered : Prop := ∀ s t, Numbered s → step s = .next t → Numbered t

end
end

