-- ==== Sys2Proof/Laws/Fire.lean ====
section
/-!
SUPPORT. Laws/Fire.lean: what one firing does, said once for `fire`.
-/
namespace Sys2Proof.Claim

open Sys2Proof.Machine

/-- A slot that fires closes its firing with its operation. -/
theorem fire_of_firing {i : Instr} {op : Ctx → Args → State → Fire} {s : State} {x : Ctx} {g : Args} (h : firing i s = some (x, g)) :
    fire i op s = .next (s.finish (formOf i x.me) x (op x g s)) := by
  unfold firing at h
  cases hc : s.ctx with
  | none => simp [hc] at h
  | some y =>
    simp only [hc] at h
    split at h
    · rename_i hp
      simp only [Option.some.injEq, Prod.mk.injEq] at h
      obtain ⟨rfl, rfl⟩ := h
      simp only [Bool.and_eq_true, beq_iff_eq] at hp
      obtain ⟨⟨h1, h2⟩, h3⟩ := hp
      simp only [fire, hc, State.fireWith, h1, h2, Bool.not_true, Bool.false_eq_true, if_false]
      rw [if_neg]
      intro hn
      simp only [Bool.and_eq_true, Bool.not_eq_true'] at hn
      simp [hn.1, hn.2] at h3
    · cases h

/-- A firing sees the slot at the cursor. -/
theorem ctx_of_firing {i : Instr} {s : State} {x : Ctx} {g : Args} (h : firing i s = some (x, g)) : s.ctx = some x := by
  unfold firing at h
  cases hc : s.ctx with
  | none => simp [hc] at h
  | some y =>
    simp only [hc] at h
    split at h
    · simp only [Option.some.injEq, Prod.mk.injEq] at h
      rw [h.1]
    · cases h

/-- A firing that sends its results. -/
theorem completes_of_send {i : Instr} {op : Ctx → Args → State → Fire} {e : Effect} (hx : exec i = fire i op)
    (ho : ∀ x g s s' r1 r2, e x g s = some (s', r1, r2) → op x g s = .send s' r1 r2) : Completes i e := by
  intro s x g s' r1 r2 hf he hr
  rw [hx, fire_of_firing hf, ho _ _ _ _ _ _ he]
  simp only [State.finish, fired]
  have := Option.isNone_iff_eq_none.mp hr
  simp only [this]

/-- A firing that owes its reply. -/
theorem owing_of_owed {i : Instr} {op : Ctx → Args → State → Fire} {s s' : State} {x : Ctx} {g : Args} (hx : exec i = fire i op)
    (hf : firing i s = some (x, g)) (ho : op x g s = .owed s') : exec i s = .next (owing i s' x) := by
  rw [hx, fire_of_firing hf, ho]
  rfl

/-- A firing that sends an update. -/
theorem sending_of_sent {i : Instr} {op : Ctx → Args → State → Fire} {s s' : State} {x : Ctx} {g : Args} (hx : exec i = fire i op)
    (hf : firing i s = some (x, g)) (ho : op x g s = .sent s') : exec i s = .next (sending i s' x) := by
  rw [hx, fire_of_firing hf, ho]
  rfl

/-- A firing that traps. -/
theorem trap_of_trap {i : Instr} {op : Ctx → Args → State → Fire} {s s' : State} {x : Ctx} {g : Args} {c : Nat} {v : Word}
    (hx : exec i = fire i op) (hf : firing i s = some (x, g)) (ho : op x g s = .trap s' c v) :
    exec i s = .next (s'.takeTrap x.k x.n c v) := by
  rw [hx, fire_of_firing hf, ho]
  rfl

/-- A slot that does not fire, decline or pass null changes nothing. -/
theorem fire_of_idle {i : Instr} {op : Ctx → Args → State → Fire} {s : State} {x : Ctx} (hc : s.ctx = some x)
    (h : x.fireable (formOf i x.me) = false) : fire i op s = .next s := by
  simp [fire, hc, State.fireWith, h]

end Sys2Proof.Claim
end

