-- ==== Sys2Proof/Laws/State.lean ====
section
/-!
SUPPORT. Laws/State.lean: what each update of State leaves as it was, field by field, and what it writes.
-/
namespace Sys2Proof.Machine

/-! ### setStroke -/

@[simp] theorem State.setStroke_units (s : State) (k : Nat) (t : Stroke) : (s.setStroke k t).units = s.units := rfl
@[simp] theorem State.setStroke_mem (s : State) (k : Nat) (t : Stroke) : (s.setStroke k t).mem = s.mem := rfl
@[simp] theorem State.setStroke_net (s : State) (k : Nat) (t : Stroke) : (s.setStroke k t).net = s.net := rfl
@[simp] theorem State.setStroke_eng (s : State) (k : Nat) (t : Stroke) : (s.setStroke k t).eng = s.eng := rfl
@[simp] theorem State.setStroke_rounds (s : State) (k : Nat) (t : Stroke) : (s.setStroke k t).rounds = s.rounds := rfl
@[simp] theorem State.setStroke_svc (s : State) (k : Nat) (t : Stroke) : (s.setStroke k t).svc = s.svc := rfl
@[simp] theorem State.setStroke_csr (s : State) (k : Nat) (t : Stroke) : (s.setStroke k t).csr = s.csr := rfl
@[simp] theorem State.setStroke_plat (s : State) (k : Nat) (t : Stroke) : (s.setStroke k t).plat = s.plat := rfl
@[simp] theorem State.setStroke_cur (s : State) (k : Nat) (t : Stroke) : (s.setStroke k t).cur = s.cur := rfl
@[simp] theorem State.setStroke_agenda (s : State) (k : Nat) (t : Stroke) : (s.setStroke k t).agenda = s.agenda := rfl
@[simp] theorem State.setStroke_turn (s : State) (k : Nat) (t : Stroke) : (s.setStroke k t).turn = s.turn := rfl
@[simp] theorem State.setStroke_log (s : State) (k : Nat) (t : Stroke) : (s.setStroke k t).log = s.log := rfl
@[simp] theorem State.setStroke_fresh (s : State) (k : Nat) (t : Stroke) : (s.setStroke k t).fresh = s.fresh := rfl
@[simp] theorem State.setStroke_inReset (s : State) (k : Nat) (t : Stroke) : (s.setStroke k t).inReset = s.inReset := rfl

/-! ### modStroke -/

@[simp] theorem State.modStroke_units (s : State) (k : Nat) (f : Stroke → Stroke) : (s.modStroke k f).units = s.units := by unfold State.modStroke; split <;> rfl
@[simp] theorem State.modStroke_mem (s : State) (k : Nat) (f : Stroke → Stroke) : (s.modStroke k f).mem = s.mem := by unfold State.modStroke; split <;> rfl
@[simp] theorem State.modStroke_net (s : State) (k : Nat) (f : Stroke → Stroke) : (s.modStroke k f).net = s.net := by unfold State.modStroke; split <;> rfl
@[simp] theorem State.modStroke_eng (s : State) (k : Nat) (f : Stroke → Stroke) : (s.modStroke k f).eng = s.eng := by unfold State.modStroke; split <;> rfl
@[simp] theorem State.modStroke_rounds (s : State) (k : Nat) (f : Stroke → Stroke) : (s.modStroke k f).rounds = s.rounds := by unfold State.modStroke; split <;> rfl
@[simp] theorem State.modStroke_svc (s : State) (k : Nat) (f : Stroke → Stroke) : (s.modStroke k f).svc = s.svc := by unfold State.modStroke; split <;> rfl
@[simp] theorem State.modStroke_csr (s : State) (k : Nat) (f : Stroke → Stroke) : (s.modStroke k f).csr = s.csr := by unfold State.modStroke; split <;> rfl
@[simp] theorem State.modStroke_plat (s : State) (k : Nat) (f : Stroke → Stroke) : (s.modStroke k f).plat = s.plat := by unfold State.modStroke; split <;> rfl
@[simp] theorem State.modStroke_cur (s : State) (k : Nat) (f : Stroke → Stroke) : (s.modStroke k f).cur = s.cur := by unfold State.modStroke; split <;> rfl
@[simp] theorem State.modStroke_agenda (s : State) (k : Nat) (f : Stroke → Stroke) : (s.modStroke k f).agenda = s.agenda := by unfold State.modStroke; split <;> rfl
@[simp] theorem State.modStroke_turn (s : State) (k : Nat) (f : Stroke → Stroke) : (s.modStroke k f).turn = s.turn := by unfold State.modStroke; split <;> rfl
@[simp] theorem State.modStroke_log (s : State) (k : Nat) (f : Stroke → Stroke) : (s.modStroke k f).log = s.log := by unfold State.modStroke; split <;> rfl
@[simp] theorem State.modStroke_fresh (s : State) (k : Nat) (f : Stroke → Stroke) : (s.modStroke k f).fresh = s.fresh := by unfold State.modStroke; split <;> rfl
@[simp] theorem State.modStroke_inReset (s : State) (k : Nat) (f : Stroke → Stroke) : (s.modStroke k f).inReset = s.inReset := by unfold State.modStroke; split <;> rfl

/-! ### modRun -/

@[simp] theorem State.modRun_units (s : State) (k : Nat) (f : StrokeRun → StrokeRun) : (s.modRun k f).units = s.units := State.modStroke_units s k _
@[simp] theorem State.modRun_mem (s : State) (k : Nat) (f : StrokeRun → StrokeRun) : (s.modRun k f).mem = s.mem := State.modStroke_mem s k _
@[simp] theorem State.modRun_net (s : State) (k : Nat) (f : StrokeRun → StrokeRun) : (s.modRun k f).net = s.net := State.modStroke_net s k _
@[simp] theorem State.modRun_eng (s : State) (k : Nat) (f : StrokeRun → StrokeRun) : (s.modRun k f).eng = s.eng := State.modStroke_eng s k _
@[simp] theorem State.modRun_rounds (s : State) (k : Nat) (f : StrokeRun → StrokeRun) : (s.modRun k f).rounds = s.rounds := State.modStroke_rounds s k _
@[simp] theorem State.modRun_svc (s : State) (k : Nat) (f : StrokeRun → StrokeRun) : (s.modRun k f).svc = s.svc := State.modStroke_svc s k _
@[simp] theorem State.modRun_csr (s : State) (k : Nat) (f : StrokeRun → StrokeRun) : (s.modRun k f).csr = s.csr := State.modStroke_csr s k _
@[simp] theorem State.modRun_plat (s : State) (k : Nat) (f : StrokeRun → StrokeRun) : (s.modRun k f).plat = s.plat := State.modStroke_plat s k _
@[simp] theorem State.modRun_cur (s : State) (k : Nat) (f : StrokeRun → StrokeRun) : (s.modRun k f).cur = s.cur := State.modStroke_cur s k _
@[simp] theorem State.modRun_agenda (s : State) (k : Nat) (f : StrokeRun → StrokeRun) : (s.modRun k f).agenda = s.agenda := State.modStroke_agenda s k _
@[simp] theorem State.modRun_turn (s : State) (k : Nat) (f : StrokeRun → StrokeRun) : (s.modRun k f).turn = s.turn := State.modStroke_turn s k _
@[simp] theorem State.modRun_log (s : State) (k : Nat) (f : StrokeRun → StrokeRun) : (s.modRun k f).log = s.log := State.modStroke_log s k _
@[simp] theorem State.modRun_fresh (s : State) (k : Nat) (f : StrokeRun → StrokeRun) : (s.modRun k f).fresh = s.fresh := State.modStroke_fresh s k _
@[simp] theorem State.modRun_inReset (s : State) (k : Nat) (f : StrokeRun → StrokeRun) : (s.modRun k f).inReset = s.inReset := State.modStroke_inReset s k _

/-! ### modRegs -/

@[simp] theorem State.modRegs_units (s : State) (k : Nat) (f : StrokeRegs → StrokeRegs) : (s.modRegs k f).units = s.units := State.modStroke_units s k _
@[simp] theorem State.modRegs_mem (s : State) (k : Nat) (f : StrokeRegs → StrokeRegs) : (s.modRegs k f).mem = s.mem := State.modStroke_mem s k _
@[simp] theorem State.modRegs_net (s : State) (k : Nat) (f : StrokeRegs → StrokeRegs) : (s.modRegs k f).net = s.net := State.modStroke_net s k _
@[simp] theorem State.modRegs_eng (s : State) (k : Nat) (f : StrokeRegs → StrokeRegs) : (s.modRegs k f).eng = s.eng := State.modStroke_eng s k _
@[simp] theorem State.modRegs_rounds (s : State) (k : Nat) (f : StrokeRegs → StrokeRegs) : (s.modRegs k f).rounds = s.rounds := State.modStroke_rounds s k _
@[simp] theorem State.modRegs_svc (s : State) (k : Nat) (f : StrokeRegs → StrokeRegs) : (s.modRegs k f).svc = s.svc := State.modStroke_svc s k _
@[simp] theorem State.modRegs_csr (s : State) (k : Nat) (f : StrokeRegs → StrokeRegs) : (s.modRegs k f).csr = s.csr := State.modStroke_csr s k _
@[simp] theorem State.modRegs_plat (s : State) (k : Nat) (f : StrokeRegs → StrokeRegs) : (s.modRegs k f).plat = s.plat := State.modStroke_plat s k _
@[simp] theorem State.modRegs_cur (s : State) (k : Nat) (f : StrokeRegs → StrokeRegs) : (s.modRegs k f).cur = s.cur := State.modStroke_cur s k _
@[simp] theorem State.modRegs_agenda (s : State) (k : Nat) (f : StrokeRegs → StrokeRegs) : (s.modRegs k f).agenda = s.agenda := State.modStroke_agenda s k _
@[simp] theorem State.modRegs_turn (s : State) (k : Nat) (f : StrokeRegs → StrokeRegs) : (s.modRegs k f).turn = s.turn := State.modStroke_turn s k _
@[simp] theorem State.modRegs_log (s : State) (k : Nat) (f : StrokeRegs → StrokeRegs) : (s.modRegs k f).log = s.log := State.modStroke_log s k _
@[simp] theorem State.modRegs_fresh (s : State) (k : Nat) (f : StrokeRegs → StrokeRegs) : (s.modRegs k f).fresh = s.fresh := State.modStroke_fresh s k _
@[simp] theorem State.modRegs_inReset (s : State) (k : Nat) (f : StrokeRegs → StrokeRegs) : (s.modRegs k f).inReset = s.inReset := State.modStroke_inReset s k _

/-! ### modInst -/

@[simp] theorem State.modInst_units (s : State) (k : Nat) (f : Instance → Instance) : (s.modInst k f).units = s.units := State.modRun_units s k _
@[simp] theorem State.modInst_mem (s : State) (k : Nat) (f : Instance → Instance) : (s.modInst k f).mem = s.mem := State.modRun_mem s k _
@[simp] theorem State.modInst_net (s : State) (k : Nat) (f : Instance → Instance) : (s.modInst k f).net = s.net := State.modRun_net s k _
@[simp] theorem State.modInst_eng (s : State) (k : Nat) (f : Instance → Instance) : (s.modInst k f).eng = s.eng := State.modRun_eng s k _
@[simp] theorem State.modInst_rounds (s : State) (k : Nat) (f : Instance → Instance) : (s.modInst k f).rounds = s.rounds := State.modRun_rounds s k _
@[simp] theorem State.modInst_svc (s : State) (k : Nat) (f : Instance → Instance) : (s.modInst k f).svc = s.svc := State.modRun_svc s k _
@[simp] theorem State.modInst_csr (s : State) (k : Nat) (f : Instance → Instance) : (s.modInst k f).csr = s.csr := State.modRun_csr s k _
@[simp] theorem State.modInst_plat (s : State) (k : Nat) (f : Instance → Instance) : (s.modInst k f).plat = s.plat := State.modRun_plat s k _
@[simp] theorem State.modInst_cur (s : State) (k : Nat) (f : Instance → Instance) : (s.modInst k f).cur = s.cur := State.modRun_cur s k _
@[simp] theorem State.modInst_agenda (s : State) (k : Nat) (f : Instance → Instance) : (s.modInst k f).agenda = s.agenda := State.modRun_agenda s k _
@[simp] theorem State.modInst_turn (s : State) (k : Nat) (f : Instance → Instance) : (s.modInst k f).turn = s.turn := State.modRun_turn s k _
@[simp] theorem State.modInst_log (s : State) (k : Nat) (f : Instance → Instance) : (s.modInst k f).log = s.log := State.modRun_log s k _
@[simp] theorem State.modInst_fresh (s : State) (k : Nat) (f : Instance → Instance) : (s.modInst k f).fresh = s.fresh := State.modRun_fresh s k _
@[simp] theorem State.modInst_inReset (s : State) (k : Nat) (f : Instance → Instance) : (s.modInst k f).inReset = s.inReset := State.modRun_inReset s k _

/-! ### modSlot -/

@[simp] theorem State.modSlot_units (s : State) (k n : Nat) (f : SlotSt → SlotSt) : (s.modSlot k n f).units = s.units := State.modInst_units s k _
@[simp] theorem State.modSlot_mem (s : State) (k n : Nat) (f : SlotSt → SlotSt) : (s.modSlot k n f).mem = s.mem := State.modInst_mem s k _
@[simp] theorem State.modSlot_net (s : State) (k n : Nat) (f : SlotSt → SlotSt) : (s.modSlot k n f).net = s.net := State.modInst_net s k _
@[simp] theorem State.modSlot_eng (s : State) (k n : Nat) (f : SlotSt → SlotSt) : (s.modSlot k n f).eng = s.eng := State.modInst_eng s k _
@[simp] theorem State.modSlot_rounds (s : State) (k n : Nat) (f : SlotSt → SlotSt) : (s.modSlot k n f).rounds = s.rounds := State.modInst_rounds s k _
@[simp] theorem State.modSlot_svc (s : State) (k n : Nat) (f : SlotSt → SlotSt) : (s.modSlot k n f).svc = s.svc := State.modInst_svc s k _
@[simp] theorem State.modSlot_csr (s : State) (k n : Nat) (f : SlotSt → SlotSt) : (s.modSlot k n f).csr = s.csr := State.modInst_csr s k _
@[simp] theorem State.modSlot_plat (s : State) (k n : Nat) (f : SlotSt → SlotSt) : (s.modSlot k n f).plat = s.plat := State.modInst_plat s k _
@[simp] theorem State.modSlot_cur (s : State) (k n : Nat) (f : SlotSt → SlotSt) : (s.modSlot k n f).cur = s.cur := State.modInst_cur s k _
@[simp] theorem State.modSlot_agenda (s : State) (k n : Nat) (f : SlotSt → SlotSt) : (s.modSlot k n f).agenda = s.agenda := State.modInst_agenda s k _
@[simp] theorem State.modSlot_turn (s : State) (k n : Nat) (f : SlotSt → SlotSt) : (s.modSlot k n f).turn = s.turn := State.modInst_turn s k _
@[simp] theorem State.modSlot_log (s : State) (k n : Nat) (f : SlotSt → SlotSt) : (s.modSlot k n f).log = s.log := State.modInst_log s k _
@[simp] theorem State.modSlot_fresh (s : State) (k n : Nat) (f : SlotSt → SlotSt) : (s.modSlot k n f).fresh = s.fresh := State.modInst_fresh s k _
@[simp] theorem State.modSlot_inReset (s : State) (k n : Nat) (f : SlotSt → SlotSt) : (s.modSlot k n f).inReset = s.inReset := State.modInst_inReset s k _

/-! ### modUnit -/

@[simp] theorem State.modUnit_strokes (s : State) (u : Nat) (f : UnitSt → UnitSt) : (s.modUnit u f).strokes = s.strokes := rfl
@[simp] theorem State.modUnit_mem (s : State) (u : Nat) (f : UnitSt → UnitSt) : (s.modUnit u f).mem = s.mem := rfl
@[simp] theorem State.modUnit_net (s : State) (u : Nat) (f : UnitSt → UnitSt) : (s.modUnit u f).net = s.net := rfl
@[simp] theorem State.modUnit_eng (s : State) (u : Nat) (f : UnitSt → UnitSt) : (s.modUnit u f).eng = s.eng := rfl
@[simp] theorem State.modUnit_rounds (s : State) (u : Nat) (f : UnitSt → UnitSt) : (s.modUnit u f).rounds = s.rounds := rfl
@[simp] theorem State.modUnit_svc (s : State) (u : Nat) (f : UnitSt → UnitSt) : (s.modUnit u f).svc = s.svc := rfl
@[simp] theorem State.modUnit_csr (s : State) (u : Nat) (f : UnitSt → UnitSt) : (s.modUnit u f).csr = s.csr := rfl
@[simp] theorem State.modUnit_plat (s : State) (u : Nat) (f : UnitSt → UnitSt) : (s.modUnit u f).plat = s.plat := rfl
@[simp] theorem State.modUnit_cur (s : State) (u : Nat) (f : UnitSt → UnitSt) : (s.modUnit u f).cur = s.cur := rfl
@[simp] theorem State.modUnit_agenda (s : State) (u : Nat) (f : UnitSt → UnitSt) : (s.modUnit u f).agenda = s.agenda := rfl
@[simp] theorem State.modUnit_turn (s : State) (u : Nat) (f : UnitSt → UnitSt) : (s.modUnit u f).turn = s.turn := rfl
@[simp] theorem State.modUnit_log (s : State) (u : Nat) (f : UnitSt → UnitSt) : (s.modUnit u f).log = s.log := rfl
@[simp] theorem State.modUnit_fresh (s : State) (u : Nat) (f : UnitSt → UnitSt) : (s.modUnit u f).fresh = s.fresh := rfl
@[simp] theorem State.modUnit_inReset (s : State) (u : Nat) (f : UnitSt → UnitSt) : (s.modUnit u f).inReset = s.inReset := rfl

/-! ### csrPut -/

@[simp] theorem State.csrPut_strokes (s : State) (code slab index v : Nat) : (s.csrPut code slab index v).strokes = s.strokes := rfl
@[simp] theorem State.csrPut_units (s : State) (code slab index v : Nat) : (s.csrPut code slab index v).units = s.units := rfl
@[simp] theorem State.csrPut_mem (s : State) (code slab index v : Nat) : (s.csrPut code slab index v).mem = s.mem := rfl
@[simp] theorem State.csrPut_net (s : State) (code slab index v : Nat) : (s.csrPut code slab index v).net = s.net := rfl
@[simp] theorem State.csrPut_eng (s : State) (code slab index v : Nat) : (s.csrPut code slab index v).eng = s.eng := rfl
@[simp] theorem State.csrPut_rounds (s : State) (code slab index v : Nat) : (s.csrPut code slab index v).rounds = s.rounds := rfl
@[simp] theorem State.csrPut_svc (s : State) (code slab index v : Nat) : (s.csrPut code slab index v).svc = s.svc := rfl
@[simp] theorem State.csrPut_plat (s : State) (code slab index v : Nat) : (s.csrPut code slab index v).plat = s.plat := rfl
@[simp] theorem State.csrPut_cur (s : State) (code slab index v : Nat) : (s.csrPut code slab index v).cur = s.cur := rfl
@[simp] theorem State.csrPut_agenda (s : State) (code slab index v : Nat) : (s.csrPut code slab index v).agenda = s.agenda := rfl
@[simp] theorem State.csrPut_turn (s : State) (code slab index v : Nat) : (s.csrPut code slab index v).turn = s.turn := rfl
@[simp] theorem State.csrPut_log (s : State) (code slab index v : Nat) : (s.csrPut code slab index v).log = s.log := rfl
@[simp] theorem State.csrPut_fresh (s : State) (code slab index v : Nat) : (s.csrPut code slab index v).fresh = s.fresh := rfl
@[simp] theorem State.csrPut_inReset (s : State) (code slab index v : Nat) : (s.csrPut code slab index v).inReset = s.inReset := rfl

/-! ### modFolio -/

@[simp] theorem State.modFolio_strokes (s : State) (i : Nat) (f : Folio → Folio) : (s.modFolio i f).strokes = s.strokes := rfl
@[simp] theorem State.modFolio_units (s : State) (i : Nat) (f : Folio → Folio) : (s.modFolio i f).units = s.units := rfl
@[simp] theorem State.modFolio_mem (s : State) (i : Nat) (f : Folio → Folio) : (s.modFolio i f).mem = s.mem := rfl
@[simp] theorem State.modFolio_net (s : State) (i : Nat) (f : Folio → Folio) : (s.modFolio i f).net = s.net := rfl
@[simp] theorem State.modFolio_rounds (s : State) (i : Nat) (f : Folio → Folio) : (s.modFolio i f).rounds = s.rounds := rfl
@[simp] theorem State.modFolio_svc (s : State) (i : Nat) (f : Folio → Folio) : (s.modFolio i f).svc = s.svc := rfl
@[simp] theorem State.modFolio_csr (s : State) (i : Nat) (f : Folio → Folio) : (s.modFolio i f).csr = s.csr := rfl
@[simp] theorem State.modFolio_plat (s : State) (i : Nat) (f : Folio → Folio) : (s.modFolio i f).plat = s.plat := rfl
@[simp] theorem State.modFolio_cur (s : State) (i : Nat) (f : Folio → Folio) : (s.modFolio i f).cur = s.cur := rfl
@[simp] theorem State.modFolio_agenda (s : State) (i : Nat) (f : Folio → Folio) : (s.modFolio i f).agenda = s.agenda := rfl
@[simp] theorem State.modFolio_turn (s : State) (i : Nat) (f : Folio → Folio) : (s.modFolio i f).turn = s.turn := rfl
@[simp] theorem State.modFolio_log (s : State) (i : Nat) (f : Folio → Folio) : (s.modFolio i f).log = s.log := rfl
@[simp] theorem State.modFolio_fresh (s : State) (i : Nat) (f : Folio → Folio) : (s.modFolio i f).fresh = s.fresh := rfl
@[simp] theorem State.modFolio_inReset (s : State) (i : Nat) (f : Folio → Folio) : (s.modFolio i f).inReset = s.inReset := rfl

/-! ### modEng -/

@[simp] theorem State.modEng_strokes (s : State) (f : Engines → Engines) : (s.modEng f).strokes = s.strokes := rfl
@[simp] theorem State.modEng_units (s : State) (f : Engines → Engines) : (s.modEng f).units = s.units := rfl
@[simp] theorem State.modEng_mem (s : State) (f : Engines → Engines) : (s.modEng f).mem = s.mem := rfl
@[simp] theorem State.modEng_net (s : State) (f : Engines → Engines) : (s.modEng f).net = s.net := rfl
@[simp] theorem State.modEng_eng (s : State) (f : Engines → Engines) : (s.modEng f).eng = f s.eng := rfl
@[simp] theorem State.modEng_rounds (s : State) (f : Engines → Engines) : (s.modEng f).rounds = s.rounds := rfl
@[simp] theorem State.modEng_svc (s : State) (f : Engines → Engines) : (s.modEng f).svc = s.svc := rfl
@[simp] theorem State.modEng_csr (s : State) (f : Engines → Engines) : (s.modEng f).csr = s.csr := rfl
@[simp] theorem State.modEng_plat (s : State) (f : Engines → Engines) : (s.modEng f).plat = s.plat := rfl
@[simp] theorem State.modEng_cur (s : State) (f : Engines → Engines) : (s.modEng f).cur = s.cur := rfl
@[simp] theorem State.modEng_agenda (s : State) (f : Engines → Engines) : (s.modEng f).agenda = s.agenda := rfl
@[simp] theorem State.modEng_turn (s : State) (f : Engines → Engines) : (s.modEng f).turn = s.turn := rfl
@[simp] theorem State.modEng_log (s : State) (f : Engines → Engines) : (s.modEng f).log = s.log := rfl
@[simp] theorem State.modEng_fresh (s : State) (f : Engines → Engines) : (s.modEng f).fresh = s.fresh := rfl
@[simp] theorem State.modEng_inReset (s : State) (f : Engines → Engines) : (s.modEng f).inReset = s.inReset := rfl

/-! ### modNet -/

@[simp] theorem State.modNet_strokes (s : State) (f : Net → Net) : (s.modNet f).strokes = s.strokes := rfl
@[simp] theorem State.modNet_units (s : State) (f : Net → Net) : (s.modNet f).units = s.units := rfl
@[simp] theorem State.modNet_mem (s : State) (f : Net → Net) : (s.modNet f).mem = s.mem := rfl
@[simp] theorem State.modNet_net (s : State) (f : Net → Net) : (s.modNet f).net = f s.net := rfl
@[simp] theorem State.modNet_eng (s : State) (f : Net → Net) : (s.modNet f).eng = s.eng := rfl
@[simp] theorem State.modNet_rounds (s : State) (f : Net → Net) : (s.modNet f).rounds = s.rounds := rfl
@[simp] theorem State.modNet_svc (s : State) (f : Net → Net) : (s.modNet f).svc = s.svc := rfl
@[simp] theorem State.modNet_csr (s : State) (f : Net → Net) : (s.modNet f).csr = s.csr := rfl
@[simp] theorem State.modNet_plat (s : State) (f : Net → Net) : (s.modNet f).plat = s.plat := rfl
@[simp] theorem State.modNet_cur (s : State) (f : Net → Net) : (s.modNet f).cur = s.cur := rfl
@[simp] theorem State.modNet_agenda (s : State) (f : Net → Net) : (s.modNet f).agenda = s.agenda := rfl
@[simp] theorem State.modNet_turn (s : State) (f : Net → Net) : (s.modNet f).turn = s.turn := rfl
@[simp] theorem State.modNet_log (s : State) (f : Net → Net) : (s.modNet f).log = s.log := rfl
@[simp] theorem State.modNet_fresh (s : State) (f : Net → Net) : (s.modNet f).fresh = s.fresh := rfl
@[simp] theorem State.modNet_inReset (s : State) (f : Net → Net) : (s.modNet f).inReset = s.inReset := rfl

/-! ### modSvc -/

@[simp] theorem State.modSvc_strokes (s : State) (f : Services → Services) : (s.modSvc f).strokes = s.strokes := rfl
@[simp] theorem State.modSvc_units (s : State) (f : Services → Services) : (s.modSvc f).units = s.units := rfl
@[simp] theorem State.modSvc_mem (s : State) (f : Services → Services) : (s.modSvc f).mem = s.mem := rfl
@[simp] theorem State.modSvc_net (s : State) (f : Services → Services) : (s.modSvc f).net = s.net := rfl
@[simp] theorem State.modSvc_eng (s : State) (f : Services → Services) : (s.modSvc f).eng = s.eng := rfl
@[simp] theorem State.modSvc_rounds (s : State) (f : Services → Services) : (s.modSvc f).rounds = s.rounds := rfl
@[simp] theorem State.modSvc_svc (s : State) (f : Services → Services) : (s.modSvc f).svc = f s.svc := rfl
@[simp] theorem State.modSvc_csr (s : State) (f : Services → Services) : (s.modSvc f).csr = s.csr := rfl
@[simp] theorem State.modSvc_plat (s : State) (f : Services → Services) : (s.modSvc f).plat = s.plat := rfl
@[simp] theorem State.modSvc_cur (s : State) (f : Services → Services) : (s.modSvc f).cur = s.cur := rfl
@[simp] theorem State.modSvc_agenda (s : State) (f : Services → Services) : (s.modSvc f).agenda = s.agenda := rfl
@[simp] theorem State.modSvc_turn (s : State) (f : Services → Services) : (s.modSvc f).turn = s.turn := rfl
@[simp] theorem State.modSvc_log (s : State) (f : Services → Services) : (s.modSvc f).log = s.log := rfl
@[simp] theorem State.modSvc_fresh (s : State) (f : Services → Services) : (s.modSvc f).fresh = s.fresh := rfl
@[simp] theorem State.modSvc_inReset (s : State) (f : Services → Services) : (s.modSvc f).inReset = s.inReset := rfl

/-! ### modPlat -/

@[simp] theorem State.modPlat_strokes (s : State) (f : Platform → Platform) : (s.modPlat f).strokes = s.strokes := rfl
@[simp] theorem State.modPlat_units (s : State) (f : Platform → Platform) : (s.modPlat f).units = s.units := rfl
@[simp] theorem State.modPlat_mem (s : State) (f : Platform → Platform) : (s.modPlat f).mem = s.mem := rfl
@[simp] theorem State.modPlat_net (s : State) (f : Platform → Platform) : (s.modPlat f).net = s.net := rfl
@[simp] theorem State.modPlat_eng (s : State) (f : Platform → Platform) : (s.modPlat f).eng = s.eng := rfl
@[simp] theorem State.modPlat_rounds (s : State) (f : Platform → Platform) : (s.modPlat f).rounds = s.rounds := rfl
@[simp] theorem State.modPlat_svc (s : State) (f : Platform → Platform) : (s.modPlat f).svc = s.svc := rfl
@[simp] theorem State.modPlat_csr (s : State) (f : Platform → Platform) : (s.modPlat f).csr = s.csr := rfl
@[simp] theorem State.modPlat_plat (s : State) (f : Platform → Platform) : (s.modPlat f).plat = f s.plat := rfl
@[simp] theorem State.modPlat_cur (s : State) (f : Platform → Platform) : (s.modPlat f).cur = s.cur := rfl
@[simp] theorem State.modPlat_agenda (s : State) (f : Platform → Platform) : (s.modPlat f).agenda = s.agenda := rfl
@[simp] theorem State.modPlat_turn (s : State) (f : Platform → Platform) : (s.modPlat f).turn = s.turn := rfl
@[simp] theorem State.modPlat_log (s : State) (f : Platform → Platform) : (s.modPlat f).log = s.log := rfl
@[simp] theorem State.modPlat_fresh (s : State) (f : Platform → Platform) : (s.modPlat f).fresh = s.fresh := rfl
@[simp] theorem State.modPlat_inReset (s : State) (f : Platform → Platform) : (s.modPlat f).inReset = s.inReset := rfl

/-! ### modMem -/

@[simp] theorem State.modMem_strokes (s : State) (f : Memory → Memory) : (s.modMem f).strokes = s.strokes := rfl
@[simp] theorem State.modMem_units (s : State) (f : Memory → Memory) : (s.modMem f).units = s.units := rfl
@[simp] theorem State.modMem_mem (s : State) (f : Memory → Memory) : (s.modMem f).mem = f s.mem := rfl
@[simp] theorem State.modMem_net (s : State) (f : Memory → Memory) : (s.modMem f).net = s.net := rfl
@[simp] theorem State.modMem_eng (s : State) (f : Memory → Memory) : (s.modMem f).eng = s.eng := rfl
@[simp] theorem State.modMem_rounds (s : State) (f : Memory → Memory) : (s.modMem f).rounds = s.rounds := rfl
@[simp] theorem State.modMem_svc (s : State) (f : Memory → Memory) : (s.modMem f).svc = s.svc := rfl
@[simp] theorem State.modMem_csr (s : State) (f : Memory → Memory) : (s.modMem f).csr = s.csr := rfl
@[simp] theorem State.modMem_plat (s : State) (f : Memory → Memory) : (s.modMem f).plat = s.plat := rfl
@[simp] theorem State.modMem_cur (s : State) (f : Memory → Memory) : (s.modMem f).cur = s.cur := rfl
@[simp] theorem State.modMem_agenda (s : State) (f : Memory → Memory) : (s.modMem f).agenda = s.agenda := rfl
@[simp] theorem State.modMem_turn (s : State) (f : Memory → Memory) : (s.modMem f).turn = s.turn := rfl
@[simp] theorem State.modMem_log (s : State) (f : Memory → Memory) : (s.modMem f).log = s.log := rfl
@[simp] theorem State.modMem_fresh (s : State) (f : Memory → Memory) : (s.modMem f).fresh = s.fresh := rfl
@[simp] theorem State.modMem_inReset (s : State) (f : Memory → Memory) : (s.modMem f).inReset = s.inReset := rfl

/-! ### pushReply -/

@[simp] theorem State.pushReply_strokes (s : State) (k serial n : Nat) (tok : Token) : (s.pushReply k serial n tok).strokes = s.strokes := rfl
@[simp] theorem State.pushReply_units (s : State) (k serial n : Nat) (tok : Token) : (s.pushReply k serial n tok).units = s.units := rfl
@[simp] theorem State.pushReply_mem (s : State) (k serial n : Nat) (tok : Token) : (s.pushReply k serial n tok).mem = s.mem := rfl
@[simp] theorem State.pushReply_eng (s : State) (k serial n : Nat) (tok : Token) : (s.pushReply k serial n tok).eng = s.eng := rfl
@[simp] theorem State.pushReply_rounds (s : State) (k serial n : Nat) (tok : Token) : (s.pushReply k serial n tok).rounds = s.rounds := rfl
@[simp] theorem State.pushReply_svc (s : State) (k serial n : Nat) (tok : Token) : (s.pushReply k serial n tok).svc = s.svc := rfl
@[simp] theorem State.pushReply_csr (s : State) (k serial n : Nat) (tok : Token) : (s.pushReply k serial n tok).csr = s.csr := rfl
@[simp] theorem State.pushReply_plat (s : State) (k serial n : Nat) (tok : Token) : (s.pushReply k serial n tok).plat = s.plat := rfl
@[simp] theorem State.pushReply_cur (s : State) (k serial n : Nat) (tok : Token) : (s.pushReply k serial n tok).cur = s.cur := rfl
@[simp] theorem State.pushReply_agenda (s : State) (k serial n : Nat) (tok : Token) : (s.pushReply k serial n tok).agenda = s.agenda := rfl
@[simp] theorem State.pushReply_turn (s : State) (k serial n : Nat) (tok : Token) : (s.pushReply k serial n tok).turn = s.turn := rfl
@[simp] theorem State.pushReply_log (s : State) (k serial n : Nat) (tok : Token) : (s.pushReply k serial n tok).log = s.log := rfl
@[simp] theorem State.pushReply_fresh (s : State) (k serial n : Nat) (tok : Token) : (s.pushReply k serial n tok).fresh = s.fresh := rfl
@[simp] theorem State.pushReply_inReset (s : State) (k serial n : Nat) (tok : Token) : (s.pushReply k serial n tok).inReset = s.inReset := rfl

/-! ### What an update writes -/

@[simp] theorem State.setStroke_strokes (s : State) (k : Nat) (t : Stroke) : (s.setStroke k t).strokes = tabPut s.strokes k t := rfl
@[simp] theorem State.modUnit_units (s : State) (u : Nat) (f : UnitSt → UnitSt) :
    (s.modUnit u f).units = tabPut s.units u (f (s.unit u)) := rfl
@[simp] theorem State.drawWord_mem (s : State) : s.drawWord.2.mem = s.mem := rfl
@[simp] theorem State.drawWord_csr (s : State) : s.drawWord.2.csr = s.csr := rfl
@[simp] theorem State.drawWord_strokes (s : State) : s.drawWord.2.strokes = s.strokes := rfl
@[simp] theorem State.drawBool_mem (s : State) : s.drawBool.2.mem = s.mem := rfl
@[simp] theorem State.drawBool_csr (s : State) : s.drawBool.2.csr = s.csr := rfl
@[simp] theorem State.drawBool_strokes (s : State) : s.drawBool.2.strokes = s.strokes := rfl

end Sys2Proof.Machine
end

