-- ==== Sys2Proof/Laws/Memory.lean ====
section
/-!
SUPPORT. Laws/Memory.lean: tables answer what was put into them; memory keeps its canonical form; a byte reads as it was written
last and every other byte reads as before.
-/
namespace Sys2Proof.Machine

/-! ## Tables -/

theorem tabFind_tabPut_same {α : Type} (t : Table α) (k : Nat) (v : α) : tabFind (tabPut t k v) k = some v := by
  induction t with
  | nil => simp [tabPut, tabFind]
  | cons e t ih =>
    obtain ⟨j, u⟩ := e
    unfold tabPut
    split
    · simp [tabFind]
    · split
      · simp [tabFind]
      · rename_i h1 h2
        simp only [tabFind]
        rw [if_neg (by omega), if_neg h1]
        exact ih

theorem tabFind_tabPut_other {α : Type} (t : Table α) {k j : Nat} (v : α) (h : j ≠ k) : tabFind (tabPut t k v) j = tabFind t j := by
  induction t with
  | nil => simp [tabPut, tabFind, Ne.symm h]
  | cons e t ih =>
    obtain ⟨i, u⟩ := e
    unfold tabPut
    split
    · rename_i h1
      simp only [tabFind]
      rw [if_neg (Ne.symm h)]
      split
      · rw [if_neg (by omega), if_pos (by omega)]
      · rfl
    · split
      · rename_i h1 h2
        subst h2
        simp only [tabFind]
        rw [if_neg (Ne.symm h), if_neg (Ne.symm h)]
      · simp only [tabFind, ih]

theorem tabGet_tabPut_same {α : Type} (t : Table α) (k : Nat) (v d : α) : tabGet (tabPut t k v) k d = v := by
  simp [tabGet, tabFind_tabPut_same]

theorem tabGet_tabPut_other {α : Type} (t : Table α) {k j : Nat} (v d : α) (h : j ≠ k) : tabGet (tabPut t k v) j d = tabGet t j d := by
  simp [tabGet, tabFind_tabPut_other t v h]

/-! ## The cells of a canonical memory -/

theorem cellsRise_mono {t : List Host.Cell} {lo lo' : Nat} (h : cellsRise lo t = true) (hl : lo' ≤ lo) : cellsRise lo' t = true := by
  cases t with
  | nil => rfl
  | cons e t =>
    simp only [cellsRise, Bool.and_eq_true, decide_eq_true_eq] at h ⊢
    exact ⟨⟨by omega, h.1.2⟩, h.2⟩

theorem tabFind_below {t : List Host.Cell} {lo k : Nat} (h : cellsRise lo t = true) (hk : k < lo) : tabFind t k = none := by
  cases t with
  | nil => rfl
  | cons e t =>
    simp only [cellsRise, Bool.and_eq_true, decide_eq_true_eq] at h
    simp only [tabFind]
    rw [if_neg (by omega), if_pos (by omega)]

theorem cellsRise_tabPut {t : List Host.Cell} {lo k : Nat} {v : Byte} (h : cellsRise lo t = true) (hk : lo ≤ k) (hv : v ≠ unlisted) :
    cellsRise lo (tabPut t k v) = true := by
  induction t generalizing lo with
  | nil => simp [tabPut, cellsRise, hk, hv]
  | cons e t ih =>
    simp only [cellsRise, Bool.and_eq_true, decide_eq_true_eq] at h
    unfold tabPut
    split
    · simp only [cellsRise, Bool.and_eq_true, decide_eq_true_eq]
      exact ⟨⟨hk, hv⟩, ⟨by omega, h.1.2⟩, h.2⟩
    · split
      · rename_i h2
        subst h2
        simp only [cellsRise, Bool.and_eq_true, decide_eq_true_eq]
        exact ⟨⟨hk, hv⟩, h.2⟩
      · simp only [cellsRise, Bool.and_eq_true, decide_eq_true_eq]
        exact ⟨h.1, ih h.2 (by omega)⟩

theorem cellsRise_tabDel {t : List Host.Cell} {lo k : Nat} (h : cellsRise lo t = true) : cellsRise lo (tabDel t k) = true := by
  induction t generalizing lo with
  | nil => rfl
  | cons e t ih =>
    unfold tabDel
    split
    · exact h
    · simp only [cellsRise, Bool.and_eq_true, decide_eq_true_eq] at h
      split
      · exact cellsRise_mono h.2 (by omega)
      · simp only [cellsRise, Bool.and_eq_true, decide_eq_true_eq]
        exact ⟨h.1, ih h.2⟩

theorem tabFind_tabDel_same {t : List Host.Cell} {lo k : Nat} (h : cellsRise lo t = true) : tabFind (tabDel t k) k = none := by
  induction t generalizing lo with
  | nil => rfl
  | cons e t ih =>
    simp only [cellsRise, Bool.and_eq_true, decide_eq_true_eq] at h
    unfold tabDel
    split
    · simp only [tabFind]
      rw [if_neg (by omega), if_pos ‹_›]
    · split
      · exact tabFind_below h.2 (by omega)
      · simp only [tabFind]
        rw [if_neg (by omega), if_neg ‹_›]
        exact ih h.2

theorem tabFind_tabDel_other {t : List Host.Cell} {lo k j : Nat} (h : cellsRise lo t = true) (hj : j ≠ k) :
    tabFind (tabDel t k) j = tabFind t j := by
  induction t generalizing lo with
  | nil => rfl
  | cons e t ih =>
    simp only [cellsRise, Bool.and_eq_true, decide_eq_true_eq] at h
    unfold tabDel
    split
    · rfl
    · split
      · rename_i h2
        subst h2
        simp only [tabFind]
        rw [if_neg (Ne.symm hj)]
        split
        · exact tabFind_below h.2 (by omega)
        · rfl
      · simp only [tabFind, ih h.2]

/-! ## Every memory operation keeps the canonical form -/

/-- Setting a value removes the entry or puts it. -/
theorem tabSet_eq {α : Type} [DecidableEq α] (t : Table α) (k : Nat) (v d : α) : tabSet t k v d = if v = d then tabDel t k else tabPut t k v := by
  induction t with
  | nil => rfl
  | cons e t ih =>
    obtain ⟨j, u⟩ := e
    simp only [tabSet, tabDel, tabPut, ih]
    by_cases hv : v = d <;> simp only [hv, if_true, if_false]

theorem setByte_wf {m : Memory} (k : Nat) (v : Byte) (h : m.wf = true) : (m.setByte k v).wf = true := by
  simp only [Memory.wf, Memory.setByte, tabSet_eq] at h ⊢
  split
  · exact cellsRise_tabDel h
  · exact cellsRise_tabPut h (Nat.zero_le _) ‹_›

theorem setBytes_wf {m : Memory} (k : Nat) (bs : List Byte) (h : m.wf = true) : (m.setBytes k bs).wf = true := by
  induction bs generalizing m k with
  | nil => exact h
  | cons b bs ih => exact ih (k + 1) (setByte_wf k b h)

theorem put_wf {m : Memory} (k n v : Nat) (h : m.wf = true) : (m.put k n v).wf = true := setBytes_wf k _ h

@[simp] theorem setFull_cells (m : Memory) (k : Nat) (b : Bool) : (m.setFull k b).cells = m.cells := rfl
@[simp] theorem heal_cells (m : Memory) (k n : Nat) : (m.heal k n).cells = m.cells := rfl
@[simp] theorem reveal_cells (m : Memory) (w lo hi : Nat) (u : List Nat) : (m.reveal w lo hi u).cells = m.cells := rfl
@[simp] theorem discard_cells (m : Memory) (w : Nat) : (m.discard w).cells = m.cells := rfl

@[simp] theorem setFulls_cells (m : Memory) (k n : Nat) (b : Bool) : (m.setFulls k b n).cells = m.cells := by
  induction n generalizing m k with
  | zero => rfl
  | succ n ih => exact (ih (m.setFull k b) (k + 16)).trans rfl

theorem wf_of_cells {m m' : Memory} (hc : m'.cells = m.cells) (h : m.wf = true) : m'.wf = true := by
  simp only [Memory.wf, hc]
  exact h

theorem commitWrite_wf {m : Memory} (k : Nat) (bs : List Byte) (h : m.wf = true) : (m.commitWrite k bs).wf = true := setBytes_wf k bs h

theorem localWrite_wf {m : Memory} (u k : Nat) (bs : List Byte) (h : m.wf = true) : (m.localWrite u k bs).wf = true :=
  setBytes_wf (m := { m with pend := _ }) k bs h

theorem foldl_setByte_wf (l : List PendByte) {m : Memory} (h : m.wf = true) :
    (l.foldl (fun acc p => acc.setByte p.key p.val) m).wf = true := by
  induction l generalizing m with
  | nil => exact h
  | cons p l ih => exact ih (setByte_wf p.key p.val h)

theorem home_wf {m : Memory} (f : PendByte → Bool) (h : m.wf = true) : (m.home f).wf = true := foldl_setByte_wf (splitHome f m.pend).1 h

theorem homeSeen_wf {m : Memory} (r : Reader) (bank : Option Nat) (k n : Nat) (h : m.wf = true) : (m.homeSeen r bank k n).wf = true := home_wf _ h

theorem passBoundary_wf {m : Memory} (w sc upto : Nat) (h : m.wf = true) : (m.passBoundary w sc upto).wf = true := by
  unfold Memory.passBoundary
  dsimp only
  split
  · exact home_wf _ h
  · split
    · exact home_wf _ h
    · exact h

@[simp] theorem restable_mem (s : State) (k key : Nat) (bs : List Byte) : (s.restable k key bs).mem = s.mem := by
  unfold State.restable
  exact State.modRun_mem s k _

@[simp] theorem request_mem (s : State) (key : Nat) (a : PeerAccess) (n : Nat) (data : List Byte) : (s.request key a n data).mem = s.mem := by
  unfold State.request
  split <;> rfl

theorem pendWrite_wf {s : State} (k key : Nat) (bs : List Byte) (h : s.mem.wf = true) : (s.pendWrite k key bs).mem.wf = true := by
  unfold State.pendWrite
  split
  · exact h
  · rw [request_mem, restable_mem]
    exact h

theorem commitOwn_wf {s : State} (k : Nat) (bank : Option Nat) (key : Nat) (bs : List Byte) (h : s.mem.wf = true) :
    (s.commitOwn k bank key bs).mem.wf = true := by
  unfold State.commitOwn
  rw [restable_mem]
  exact setBytes_wf key bs (homeSeen_wf _ bank key bs.length h)

theorem cellsRise_filter {t : List Host.Cell} {lo : Nat} (f : Host.Cell → Bool) (h : cellsRise lo t = true) :
    cellsRise lo (t.filter f) = true := by
  induction t generalizing lo with
  | nil => rfl
  | cons e t ih =>
    simp only [cellsRise, Bool.and_eq_true, decide_eq_true_eq] at h
    simp only [List.filter]
    split
    · simp only [cellsRise, Bool.and_eq_true, decide_eq_true_eq]
      exact ⟨h.1, ih h.2⟩
    · exact cellsRise_mono (ih h.2) (by omega)

/-- Dropping bytes keeps the canonical form. -/
theorem filter_wf {m : Memory} (f : Host.Cell → Bool) (h : m.wf = true) : ({ m with cells := m.cells.filter f } : Memory).wf = true :=
  cellsRise_filter f h

/-- The memory after reset is in its canonical form. -/
theorem reset_mem_wf : State.reset.mem.wf = true := by decide

/-! ## Reading after writing -/

theorem byte_setByte_same {m : Memory} (k : Nat) (v : Byte) (h : m.wf = true) : (m.setByte k v).byte k = v := by
  simp only [Memory.byte, Memory.setByte, tabGet, tabSet_eq]
  split
  · rename_i hv
    rw [tabFind_tabDel_same h, hv]
    rfl
  · rw [tabFind_tabPut_same]
    rfl

theorem byte_setByte_other {m : Memory} {k j : Nat} (v : Byte) (h : m.wf = true) (hj : j ≠ k) : (m.setByte k v).byte j = m.byte j := by
  simp only [Memory.byte, Memory.setByte, tabGet, tabSet_eq]
  split
  · rw [tabFind_tabDel_other h hj]
  · rw [tabFind_tabPut_other _ _ hj]

theorem byte_setBytes_outside {m : Memory} {k j : Nat} (bs : List Byte) (h : m.wf = true) (hj : j < k ∨ k + bs.length ≤ j) :
    (m.setBytes k bs).byte j = m.byte j := by
  induction bs generalizing m k with
  | nil => rfl
  | cons b bs ih =>
    simp only [List.length_cons] at hj
    rw [Memory.setBytes, ih (setByte_wf k b h) (by omega), byte_setByte_other b h (by omega)]

theorem byte_setBytes_inside {m : Memory} {k i : Nat} (bs : List Byte) (h : m.wf = true) (hi : i < bs.length) :
    (m.setBytes k bs).byte (k + i) = bs[i] := by
  induction bs generalizing m k i with
  | nil => simp at hi
  | cons b bs ih =>
    cases i with
    | zero =>
      rw [Memory.setBytes, byte_setBytes_outside bs (setByte_wf k b h) (by omega), Nat.add_zero, byte_setByte_same k b h]
      rfl
    | succ i =>
      simp only [List.length_cons, Nat.add_lt_add_iff_right] at hi
      have := ih (k := k + 1) (setByte_wf k b h) hi
      rw [Memory.setBytes, ← Nat.add_assoc, Nat.add_right_comm, this]
      rfl

theorem toBytes_length (v n : Nat) : (toBytes v n).length = n := by
  induction n generalizing v with
  | zero => rfl
  | succ n ih => simp [toBytes, ih]

theorem ofBytes_toBytes (v n : Nat) : ofBytes (toBytes v n) = v % 256 ^ n := by
  induction n generalizing v with
  | zero => simp [toBytes, ofBytes, Nat.mod_one]
  | succ n ih =>
    simp only [toBytes, ofBytes, ih, BitVec.toNat_ofNat]
    rw [show 256 ^ (n + 1) = 256 * 256 ^ n from by rw [Nat.pow_succ, Nat.mul_comm], Nat.mod_mul]

end Sys2Proof.Machine
end

