-- ==== Sys2Proof/Laws/Ops.lean ====
section
/-!
SUPPORT. Laws/Ops.lean: what the shared operations leave as it was. Delivering results, counting a firing, raising flags, posting a
word, waiting for a page and taking a trap write neither memory nor a system register.
-/
namespace Sys2Proof.Machine

/-- `t` holds the memory and the system registers of `s`. -/
structure Keeps (s t : State) : Prop where
  mem : t.mem = s.mem
  csr : t.csr = s.csr

theorem Keeps.refl (s : State) : Keeps s s := ⟨rfl, rfl⟩

theorem Keeps.trans {s t u : State} (h : Keeps s t) (g : Keeps t u) : Keeps s u := ⟨g.mem.trans h.mem, g.csr.trans h.csr⟩

theorem keeps_modStroke (s : State) (k : Nat) (f : Stroke → Stroke) : Keeps s (s.modStroke k f) := ⟨by simp, by simp⟩
theorem keeps_modRun (s : State) (k : Nat) (f : StrokeRun → StrokeRun) : Keeps s (s.modRun k f) := ⟨by simp, by simp⟩
theorem keeps_modRegs (s : State) (k : Nat) (f : StrokeRegs → StrokeRegs) : Keeps s (s.modRegs k f) := ⟨by simp, by simp⟩
theorem keeps_modInst (s : State) (k : Nat) (f : Instance → Instance) : Keeps s (s.modInst k f) := ⟨by simp, by simp⟩
theorem keeps_modSlot (s : State) (k n : Nat) (f : SlotSt → SlotSt) : Keeps s (s.modSlot k n f) := ⟨by simp, by simp⟩
theorem keeps_modUnit (s : State) (u : Nat) (f : UnitSt → UnitSt) : Keeps s (s.modUnit u f) := ⟨rfl, rfl⟩
theorem keeps_modFolio (s : State) (i : Nat) (f : Folio → Folio) : Keeps s (s.modFolio i f) := ⟨rfl, rfl⟩
theorem keeps_modEng (s : State) (f : Engines → Engines) : Keeps s (s.modEng f) := ⟨rfl, rfl⟩
theorem keeps_modNet (s : State) (f : Net → Net) : Keeps s (s.modNet f) := ⟨rfl, rfl⟩
theorem keeps_modSvc (s : State) (f : Services → Services) : Keeps s (s.modSvc f) := ⟨rfl, rfl⟩
theorem keeps_drawBool (s : State) : Keeps s s.drawBool.2 := ⟨rfl, rfl⟩
theorem keeps_drawWord (s : State) : Keeps s s.drawWord.2 := ⟨rfl, rfl⟩
theorem keeps_post (s : State) (w : Sender) (p : Nat) (v : Word) (kind : Nat) : Keeps s (s.post w p v kind) := ⟨rfl, rfl⟩

theorem keeps_raise (s : State) (k : Nat) (f : Flags) : Keeps s (s.raise k f) := by
  unfold State.raise
  split
  · exact .refl s
  · exact keeps_modInst s k _

theorem keeps_consume (s : State) (f : Form) (x : Ctx) (fired : Bool) : Keeps s (s.consume f x fired) := keeps_modSlot s _ _ _

/-- Entering a trap writes the trapped stroke, its unit, a method run or the network, nothing else. -/
theorem keeps_enterTrap (s : State) (k slot code : Nat) (val : Word) : Keeps s (s.enterTrap k slot code val) := by
  unfold State.enterTrap
  extract_lets u deferred t part
  have h : Keeps s t := keeps_modStroke s k _
  clear_value t
  split
  · split
    · exact h.trans (keeps_modSvc _ _)
    · exact h
  · split
    · exact h.trans (keeps_modUnit _ _ _)
    · exact h.trans (keeps_post _ _ _ _ _)

theorem keeps_takeTrap (s : State) (k slot code : Nat) (val : Word) : Keeps s (s.takeTrap k slot code val) := by
  unfold State.takeTrap
  split
  · exact keeps_modRun s k _
  · exact keeps_enterTrap s k slot code val

theorem keeps_requestPage (s : State) (part region page : Nat) (e : Bool) (slab : Nat) :
    Keeps s (s.requestPage part region page e slab) := by
  unfold State.requestPage
  split
  · exact .refl s
  · exact keeps_modEng _ _

theorem keeps_pageWait (s : State) (k region page : Nat) : Keeps s (s.pageWait k region page) := by
  unfold State.pageWait
  split
  · exact .refl s
  · split
    · exact (keeps_modRun s k _).trans (keeps_requestPage _ _ _ _ _ _)
    · exact (keeps_modRun s k _).trans (keeps_requestPage _ _ _ _ _ _)

/-- What the answer of `sendOne` holds is a state that keeps memory and system registers. -/
def Sent.Keeps (s : State) : Sent → Prop
  | .ok t => Machine.Keeps s t
  | .full => True
  | .trap t _ _ _ => Machine.Keeps s t

theorem keeps_sendOne (s : State) (k n : Nat) (r : BitVec 9) (t : Token) : (s.sendOne k n r t).Keeps s := by
  unfold State.sendOne
  split
  · exact .refl s
  · split
    · exact .refl s
    · split
      · exact .refl s
      · split
        · split
          · exact .refl s
          · dsimp only [Sent.Keeps]
            split
            · exact (keeps_drawBool s).trans (keeps_modSlot _ _ _ _)
            · exact keeps_drawBool s
        · split
          · trivial
          · exact keeps_modSlot _ _ _ _
  · split
    · exact .refl s
    · split
      · exact keeps_modRun _ _ _
      · split
        · exact .refl s
        · split
          · split
            · trivial
            · exact keeps_modFolio _ _ _
          · exact .refl s

theorem keeps_clear {s t : State} (h : Keeps s t) (c : Bool) (k n j code : Nat) (val : Word) (f : SlotSt → SlotSt) :
    Keeps s ((if c then t.modSlot k n f else t).takeTrap k j code val) := by
  refine h.trans (Keeps.trans ?_ (keeps_takeTrap _ _ _ _ _))
  split
  · exact keeps_modSlot _ _ _ _
  · exact .refl _

theorem keeps_flushSlot (s : State) (k n : Nat) : Keeps s (s.flushSlot k n) := by
  unfold State.flushSlot
  split
  · exact .refl s
  · rename_i x hx
    extract_lets u
    have hk : Keeps s u := by
      unfold u
      split
      · exact .refl s
      · rename_i t _
        have h := keeps_sendOne s k n x.to1 t
        split
        · rename_i he; rw [he] at h; exact Keeps.trans h (keeps_modSlot _ _ _ _)
        · exact .refl s
        · rename_i he; rw [he] at h; exact keeps_clear h _ _ _ _ _ _ _
    clear_value u
    refine hk.trans ?_
    split
    · exact .refl u
    · rename_i y _
      split
      · exact .refl u
      · rename_i t _
        split
        · exact .refl u
        · have h := keeps_sendOne u k n y.to2 t
          split
          · rename_i he; rw [he] at h; exact Keeps.trans h (keeps_modSlot _ _ _ _)
          · exact .refl u
          · rename_i he; rw [he] at h; exact keeps_clear h _ _ _ _ _ _ _

theorem keeps_flushFrom (s : State) (k n m : Nat) : Keeps s (s.flushFrom k n m) := by
  induction m generalizing s n with
  | zero => exact .refl s
  | succ m ih =>
    unfold State.flushFrom
    split
    · exact (keeps_flushSlot s k n).trans (ih _ _)
    · exact .refl s

/-- Delivering held results keeps memory and system registers. -/
theorem keeps_flush (s : State) (k : Nat) : Keeps s (s.flush k) := by
  unfold State.flush
  split
  · exact keeps_flushFrom _ _ _ _
  · exact .refl s

theorem keeps_emit (s : State) (k n : Nat) (t v : BitVec 9) (r1 r2 : Option Token) : Keeps s (s.emit k n t v r1 r2) :=
  (keeps_modSlot s k n _).trans (keeps_flush _ _)

/-- The state that a firing closes from. -/
def Fire.state : Fire → State
  | .send s _ _ => s
  | .owed s => s
  | .sent s => s
  | .hold s => s
  | .trap s _ _ => s
  | .trapAt s _ _ _ => s
  | .page s _ _ => s

/-- Closing a firing writes neither memory nor a system register beyond the firing's effect. -/
theorem keeps_finish {s : State} (f : Form) (x : Ctx) {r : Fire} (h : Keeps s r.state) : Keeps s (s.finish f x r) := by
  unfold State.finish
  cases r with
  | send s' r1 r2 =>
    dsimp only
    split
    · exact keeps_takeTrap _ _ _ _ _
    · exact h.trans ((keeps_consume _ _ _ _).trans (keeps_emit _ _ _ _ _ _ _))
  | owed s' => exact h.trans ((keeps_consume _ _ _ _).trans ((keeps_modSlot _ _ _ _).trans (keeps_flush _ _)))
  | sent s' => exact h.trans (keeps_modSlot _ _ _ _)
  | hold s' => exact h.trans (keeps_modSlot _ _ _ _)
  | trap s' c v => exact h.trans (keeps_takeTrap _ _ _ _ _)
  | trapAt s' n c v => exact h.trans (keeps_takeTrap _ _ _ _ _)
  | page s' r p => exact h.trans (keeps_pageWait _ _ _ _)

/-- A firing whose effect writes neither memory nor a system register writes neither. -/
theorem keeps_fireWith {s : State} (f : Form) (op : Ctx → Args → Fire) (h : ∀ x g, Keeps s (op x g).state) :
    Keeps s (s.fireWith f op) := by
  unfold State.fireWith
  split
  · exact .refl s
  · split
    · exact .refl s
    · split
      · exact (keeps_consume _ _ _ _).trans (keeps_flush _ _)
      · exact (keeps_consume _ _ _ _).trans (keeps_emit _ _ _ _ _ _ _)
      · dsimp only
        split
        · exact (keeps_consume _ _ _ _).trans (keeps_emit _ _ _ _ _ _ _)
        · exact keeps_finish f _ (h _ _)

end Sys2Proof.Machine
end

