-- ==== Sys2Proof/Laws/PerInstr.lean ====
section
/-!
SUPPORT. Laws/PerInstr.lean: what holds of each instruction as syntax: its encoding decodes to it (R40, R52–R54).
-/
namespace Sys2Proof.Laws

/-- A field of a word. -/
theorem fld_of {n len lo : Nat} {x : BitVec len} (h : n / 2 ^ lo % 2 ^ len = x.toNat) : fld n lo len = x := by
  apply BitVec.eq_of_toNat_eq
  simp only [fld, BitVec.toNat_ofNat]
  exact h

theorem row78 {n : Nat} (h : n / 33554432 = 0x78) : decodeRow n = decodeGroup78 n := by unfold decodeRow; rw [h]; rfl
theorem row79 {n : Nat} (h : n / 33554432 = 0x79) : decodeRow n = decodeGroup79 n := by unfold decodeRow; rw [h]; rfl
theorem row7A {n : Nat} (h : n / 33554432 = 0x7A) : decodeRow n = decodeGroup7A n := by unfold decodeRow; rw [h]; rfl
theorem row7B {n : Nat} (h : n / 33554432 = 0x7B) : decodeRow n = decodeGroup7B n := by unfold decodeRow; rw [h]; rfl

/-- A word whose fields, as (lowest bit, width), are (16, 9), (7, 9), (0, 7). -/
theorem word1 {m c n : Nat} (x0 : BitVec 9) (x1 : BitVec 9) (x2 : BitVec 7) (hm : m < 128) (hc : c = m * 33554432) (hn : n = c + x0.toNat * 65536 + x1.toNat * 128 + x2.toNat) :
    n < 2 ^ 32 ∧ n / 33554432 = m ∧ fld n 16 9 = x0 ∧ fld n 7 9 = x1 ∧ fld n 0 7 = x2 := by
  have := x0.isLt
  have := x1.isLt
  have := x2.isLt
  refine ⟨by omega, by omega, fld_of (by omega), fld_of (by omega), fld_of (by omega)⟩

/-- A word whose fields, as (lowest bit, width), are (7, 2), (0, 7). -/
theorem word2 {m c n : Nat} (x0 : BitVec 2) (x1 : BitVec 7) (hm : m < 128) (hc : c = m * 33554432) (hn : n = c + x0.toNat * 128 + x1.toNat) :
    n < 2 ^ 32 ∧ n / 33554432 = m ∧ n / 512 % 65536 = 0 ∧ fld n 7 2 = x0 ∧ fld n 0 7 = x1 := by
  have := x0.isLt
  have := x1.isLt
  refine ⟨by omega, by omega, by omega, fld_of (by omega), fld_of (by omega)⟩

/-- A word whose fields, as (lowest bit, width), are (16, 9), (14, 2), (0, 14). -/
theorem word3 {m c n : Nat} (x0 : BitVec 9) (x1 : BitVec 2) (x2 : BitVec 14) (hm : m < 128) (hc : c = m * 33554432) (hn : n = c + x0.toNat * 65536 + x1.toNat * 16384 + x2.toNat) :
    n < 2 ^ 32 ∧ n / 33554432 = m ∧ fld n 16 9 = x0 ∧ fld n 14 2 = x1 ∧ fld n 0 14 = x2 := by
  have := x0.isLt
  have := x1.isLt
  have := x2.isLt
  refine ⟨by omega, by omega, fld_of (by omega), fld_of (by omega), fld_of (by omega)⟩

/-- A word whose fields, as (lowest bit, width), are (16, 9), (7, 9), (5, 2). -/
theorem word4 {m c n : Nat} (x0 : BitVec 9) (x1 : BitVec 9) (x2 : BitVec 2) (hm : m < 128) (hc : c = m * 33554432) (hn : n = c + x0.toNat * 65536 + x1.toNat * 128 + x2.toNat * 32) :
    n < 2 ^ 32 ∧ n / 33554432 = m ∧ n % 32 = 0 ∧ fld n 16 9 = x0 ∧ fld n 7 9 = x1 ∧ fld n 5 2 = x2 := by
  have := x0.isLt
  have := x1.isLt
  have := x2.isLt
  refine ⟨by omega, by omega, by omega, fld_of (by omega), fld_of (by omega), fld_of (by omega)⟩

/-- A word whose fields, as (lowest bit, width), are (16, 9), (14, 2). -/
theorem word5 {m c n : Nat} (x0 : BitVec 9) (x1 : BitVec 2) (hm : m < 128) (hc : c = m * 33554432) (hn : n = c + x0.toNat * 65536 + x1.toNat * 16384) :
    n < 2 ^ 32 ∧ n / 33554432 = m ∧ n % 16384 = 0 ∧ fld n 16 9 = x0 ∧ fld n 14 2 = x1 := by
  have := x0.isLt
  have := x1.isLt
  refine ⟨by omega, by omega, by omega, fld_of (by omega), fld_of (by omega)⟩

/-- A word whose fields, as (lowest bit, width), are (16, 9), (14, 2), (0, 6). -/
theorem word6 {m c n : Nat} (x0 : BitVec 9) (x1 : BitVec 2) (x2 : BitVec 6) (hm : m < 128) (hc : c = m * 33554432) (hn : n = c + x0.toNat * 65536 + x1.toNat * 16384 + x2.toNat) :
    n < 2 ^ 32 ∧ n / 33554432 = m ∧ n / 64 % 256 = 0 ∧ fld n 16 9 = x0 ∧ fld n 14 2 = x1 ∧ fld n 0 6 = x2 := by
  have := x0.isLt
  have := x1.isLt
  have := x2.isLt
  refine ⟨by omega, by omega, by omega, fld_of (by omega), fld_of (by omega), fld_of (by omega)⟩

/-- A word whose fields, as (lowest bit, width), are (16, 9), (7, 9). -/
theorem word7 {m c n : Nat} (x0 : BitVec 9) (x1 : BitVec 9) (hm : m < 128) (hc : c = m * 33554432) (hn : n = c + x0.toNat * 65536 + x1.toNat * 128) :
    n < 2 ^ 32 ∧ n / 33554432 = m ∧ n % 128 = 0 ∧ fld n 16 9 = x0 ∧ fld n 7 9 = x1 := by
  have := x0.isLt
  have := x1.isLt
  refine ⟨by omega, by omega, by omega, fld_of (by omega), fld_of (by omega)⟩

/-- A word whose fields, as (lowest bit, width), are (22, 3), (20, 2), (0, 20). -/
theorem word8 {m c n : Nat} (x0 : BitVec 3) (x1 : BitVec 2) (x2 : BitVec 20) (hm : m < 128) (hc : c = m * 33554432) (hn : n = c + x0.toNat * 4194304 + x1.toNat * 1048576 + x2.toNat) :
    n < 2 ^ 32 ∧ n / 33554432 = m ∧ fld n 22 3 = x0 ∧ fld n 20 2 = x1 ∧ fld n 0 20 = x2 := by
  have := x0.isLt
  have := x1.isLt
  have := x2.isLt
  refine ⟨by omega, by omega, fld_of (by omega), fld_of (by omega), fld_of (by omega)⟩

/-- A word whose fields, as (lowest bit, width), are (16, 9), (7, 9), (1, 1), (0, 1). -/
theorem word9 {m c n : Nat} (x0 : BitVec 9) (x1 : BitVec 9) (x2 : BitVec 1) (x3 : BitVec 1) (hm : m < 128) (hc : c = m * 33554432) (hn : n = c + x0.toNat * 65536 + x1.toNat * 128 + x2.toNat * 2 + x3.toNat) :
    n < 2 ^ 32 ∧ n / 33554432 = m ∧ n / 4 % 32 = 0 ∧ fld n 16 9 = x0 ∧ fld n 7 9 = x1 ∧ fld n 1 1 = x2 ∧ fld n 0 1 = x3 := by
  have := x0.isLt
  have := x1.isLt
  have := x2.isLt
  have := x3.isLt
  refine ⟨by omega, by omega, by omega, fld_of (by omega), fld_of (by omega), fld_of (by omega), fld_of (by omega)⟩

/-- A word whose fields, as (lowest bit, width), are (16, 9), (7, 9), (5, 2), (3, 2), (2, 1). -/
theorem word10 {m c n : Nat} (x0 : BitVec 9) (x1 : BitVec 9) (x2 : BitVec 2) (x3 : BitVec 2) (x4 : BitVec 1) (hm : m < 128) (hc : c = m * 33554432) (hn : n = c + x0.toNat * 65536 + x1.toNat * 128 + x2.toNat * 32 + x3.toNat * 8 + x4.toNat * 4) :
    n < 2 ^ 32 ∧ n / 33554432 = m ∧ n % 4 = 0 ∧ fld n 16 9 = x0 ∧ fld n 7 9 = x1 ∧ fld n 5 2 = x2 ∧ fld n 3 2 = x3 ∧ fld n 2 1 = x4 := by
  have := x0.isLt
  have := x1.isLt
  have := x2.isLt
  have := x3.isLt
  have := x4.isLt
  refine ⟨by omega, by omega, by omega, fld_of (by omega), fld_of (by omega), fld_of (by omega), fld_of (by omega), fld_of (by omega)⟩

/-- A word whose fields, as (lowest bit, width), are (16, 9), (7, 9), (5, 2), (3, 2), (2, 1), (0, 1). -/
theorem word11 {m c n : Nat} (x0 : BitVec 9) (x1 : BitVec 9) (x2 : BitVec 2) (x3 : BitVec 2) (x4 : BitVec 1) (x5 : BitVec 1) (hm : m < 128) (hc : c = m * 33554432) (hn : n = c + x0.toNat * 65536 + x1.toNat * 128 + x2.toNat * 32 + x3.toNat * 8 + x4.toNat * 4 + x5.toNat) :
    n < 2 ^ 32 ∧ n / 33554432 = m ∧ n / 2 % 2 = 0 ∧ fld n 16 9 = x0 ∧ fld n 7 9 = x1 ∧ fld n 5 2 = x2 ∧ fld n 3 2 = x3 ∧ fld n 2 1 = x4 ∧ fld n 0 1 = x5 := by
  have := x0.isLt
  have := x1.isLt
  have := x2.isLt
  have := x3.isLt
  have := x4.isLt
  have := x5.isLt
  refine ⟨by omega, by omega, by omega, fld_of (by omega), fld_of (by omega), fld_of (by omega), fld_of (by omega), fld_of (by omega), fld_of (by omega)⟩

/-- A word whose fields, as (lowest bit, width), are (16, 9), (14, 2), (8, 1), (6, 2), (0, 6). -/
theorem word12 {m c n : Nat} (x0 : BitVec 9) (x1 : BitVec 2) (x2 : BitVec 1) (x3 : BitVec 2) (x4 : BitVec 6) (hm : m < 128) (hc : c = m * 33554432) (hn : n = c + x0.toNat * 65536 + x1.toNat * 16384 + x2.toNat * 256 + x3.toNat * 64 + x4.toNat) :
    n < 2 ^ 32 ∧ n / 33554432 = m ∧ n / 512 % 32 = 0 ∧ fld n 16 9 = x0 ∧ fld n 14 2 = x1 ∧ fld n 8 1 = x2 ∧ fld n 6 2 = x3 ∧ fld n 0 6 = x4 := by
  have := x0.isLt
  have := x1.isLt
  have := x2.isLt
  have := x3.isLt
  have := x4.isLt
  refine ⟨by omega, by omega, by omega, fld_of (by omega), fld_of (by omega), fld_of (by omega), fld_of (by omega), fld_of (by omega)⟩

/-- A word whose fields, as (lowest bit, width), are (16, 9), (7, 9), (5, 2), (3, 2), (2, 1), (0, 2). -/
theorem word13 {m c n : Nat} (x0 : BitVec 9) (x1 : BitVec 9) (x2 : BitVec 2) (x3 : BitVec 2) (x4 : BitVec 1) (x5 : BitVec 2) (hm : m < 128) (hc : c = m * 33554432) (hn : n = c + x0.toNat * 65536 + x1.toNat * 128 + x2.toNat * 32 + x3.toNat * 8 + x4.toNat * 4 + x5.toNat) :
    n < 2 ^ 32 ∧ n / 33554432 = m ∧ fld n 16 9 = x0 ∧ fld n 7 9 = x1 ∧ fld n 5 2 = x2 ∧ fld n 3 2 = x3 ∧ fld n 2 1 = x4 ∧ fld n 0 2 = x5 := by
  have := x0.isLt
  have := x1.isLt
  have := x2.isLt
  have := x3.isLt
  have := x4.isLt
  have := x5.isLt
  refine ⟨by omega, by omega, fld_of (by omega), fld_of (by omega), fld_of (by omega), fld_of (by omega), fld_of (by omega), fld_of (by omega)⟩

/-- A word whose fields, as (lowest bit, width), are (16, 9), (7, 9), (5, 2), (2, 1). -/
theorem word14 {m c n : Nat} (x0 : BitVec 9) (x1 : BitVec 9) (x2 : BitVec 2) (x3 : BitVec 1) (hm : m < 128) (hc : c = m * 33554432) (hn : n = c + x0.toNat * 65536 + x1.toNat * 128 + x2.toNat * 32 + x3.toNat * 4) :
    n < 2 ^ 32 ∧ n / 33554432 = m ∧ (n % 4 = 0 ∧ n / 8 % 4 = 0) ∧ fld n 16 9 = x0 ∧ fld n 7 9 = x1 ∧ fld n 5 2 = x2 ∧ fld n 2 1 = x3 := by
  have := x0.isLt
  have := x1.isLt
  have := x2.isLt
  have := x3.isLt
  refine ⟨by omega, by omega, by omega, fld_of (by omega), fld_of (by omega), fld_of (by omega), fld_of (by omega)⟩

/-- A word whose fields, as (lowest bit, width), are (16, 9), (7, 9), (5, 2), (4, 1), (0, 3). -/
theorem word15 {m c n : Nat} (x0 : BitVec 9) (x1 : BitVec 9) (x2 : BitVec 2) (x3 : BitVec 1) (x4 : BitVec 3) (hm : m < 128) (hc : c = m * 33554432) (hn : n = c + x0.toNat * 65536 + x1.toNat * 128 + x2.toNat * 32 + x3.toNat * 16 + x4.toNat) :
    n < 2 ^ 32 ∧ n / 33554432 = m ∧ n / 8 % 2 = 0 ∧ fld n 16 9 = x0 ∧ fld n 7 9 = x1 ∧ fld n 5 2 = x2 ∧ fld n 4 1 = x3 ∧ fld n 0 3 = x4 := by
  have := x0.isLt
  have := x1.isLt
  have := x2.isLt
  have := x3.isLt
  have := x4.isLt
  refine ⟨by omega, by omega, by omega, fld_of (by omega), fld_of (by omega), fld_of (by omega), fld_of (by omega), fld_of (by omega)⟩

/-- A word whose fields, as (lowest bit, width), are (16, 9), (7, 9), (5, 2), (4, 1), (3, 1), (2, 1), (0, 2). -/
theorem word16 {m c n : Nat} (x0 : BitVec 9) (x1 : BitVec 9) (x2 : BitVec 2) (x3 : BitVec 1) (x4 : BitVec 1) (x5 : BitVec 1) (x6 : BitVec 2) (hm : m < 128) (hc : c = m * 33554432) (hn : n = c + x0.toNat * 65536 + x1.toNat * 128 + x2.toNat * 32 + x3.toNat * 16 + x4.toNat * 8 + x5.toNat * 4 + x6.toNat) :
    n < 2 ^ 32 ∧ n / 33554432 = m ∧ fld n 16 9 = x0 ∧ fld n 7 9 = x1 ∧ fld n 5 2 = x2 ∧ fld n 4 1 = x3 ∧ fld n 3 1 = x4 ∧ fld n 2 1 = x5 ∧ fld n 0 2 = x6 := by
  have := x0.isLt
  have := x1.isLt
  have := x2.isLt
  have := x3.isLt
  have := x4.isLt
  have := x5.isLt
  have := x6.isLt
  refine ⟨by omega, by omega, fld_of (by omega), fld_of (by omega), fld_of (by omega), fld_of (by omega), fld_of (by omega), fld_of (by omega), fld_of (by omega)⟩

/-- A word whose fields, as (lowest bit, width), are (16, 9), (7, 9), (4, 1), (3, 1), (2, 1), (0, 2). -/
theorem word17 {m c n : Nat} (x0 : BitVec 9) (x1 : BitVec 9) (x2 : BitVec 1) (x3 : BitVec 1) (x4 : BitVec 1) (x5 : BitVec 2) (hm : m < 128) (hc : c = m * 33554432) (hn : n = c + x0.toNat * 65536 + x1.toNat * 128 + x2.toNat * 16 + x3.toNat * 8 + x4.toNat * 4 + x5.toNat) :
    n < 2 ^ 32 ∧ n / 33554432 = m ∧ n / 32 % 4 = 0 ∧ fld n 16 9 = x0 ∧ fld n 7 9 = x1 ∧ fld n 4 1 = x2 ∧ fld n 3 1 = x3 ∧ fld n 2 1 = x4 ∧ fld n 0 2 = x5 := by
  have := x0.isLt
  have := x1.isLt
  have := x2.isLt
  have := x3.isLt
  have := x4.isLt
  have := x5.isLt
  refine ⟨by omega, by omega, by omega, fld_of (by omega), fld_of (by omega), fld_of (by omega), fld_of (by omega), fld_of (by omega), fld_of (by omega)⟩

/-- A word whose fields, as (lowest bit, width), are (16, 9), (7, 9), (5, 2), (4, 1), (3, 1), (2, 1), (1, 1). -/
theorem word18 {m c n : Nat} (x0 : BitVec 9) (x1 : BitVec 9) (x2 : BitVec 2) (x3 : BitVec 1) (x4 : BitVec 1) (x5 : BitVec 1) (x6 : BitVec 1) (hm : m < 128) (hc : c = m * 33554432) (hn : n = c + x0.toNat * 65536 + x1.toNat * 128 + x2.toNat * 32 + x3.toNat * 16 + x4.toNat * 8 + x5.toNat * 4 + x6.toNat * 2) :
    n < 2 ^ 32 ∧ n / 33554432 = m ∧ n % 2 = 0 ∧ fld n 16 9 = x0 ∧ fld n 7 9 = x1 ∧ fld n 5 2 = x2 ∧ fld n 4 1 = x3 ∧ fld n 3 1 = x4 ∧ fld n 2 1 = x5 ∧ fld n 1 1 = x6 := by
  have := x0.isLt
  have := x1.isLt
  have := x2.isLt
  have := x3.isLt
  have := x4.isLt
  have := x5.isLt
  have := x6.isLt
  refine ⟨by omega, by omega, by omega, fld_of (by omega), fld_of (by omega), fld_of (by omega), fld_of (by omega), fld_of (by omega), fld_of (by omega), fld_of (by omega)⟩

/-- A word whose fields, as (lowest bit, width), are (16, 9), (7, 9), (5, 2), (4, 1), (3, 1), (2, 1), (1, 1). -/
theorem word19 {m c n : Nat} (x0 : BitVec 9) (x1 : BitVec 9) (x2 : BitVec 2) (x3 : BitVec 1) (x4 : BitVec 1) (x5 : BitVec 1) (x6 : BitVec 1) (hm : m < 128) (hc : c = m * 33554432 + 1) (hn : n = c + x0.toNat * 65536 + x1.toNat * 128 + x2.toNat * 32 + x3.toNat * 16 + x4.toNat * 8 + x5.toNat * 4 + x6.toNat * 2) :
    n < 2 ^ 32 ∧ n / 33554432 = m ∧ ¬(n % 2 = 0) ∧ n % 2 = 1 ∧ fld n 16 9 = x0 ∧ fld n 7 9 = x1 ∧ fld n 5 2 = x2 ∧ fld n 4 1 = x3 ∧ fld n 3 1 = x4 ∧ fld n 2 1 = x5 ∧ fld n 1 1 = x6 := by
  have := x0.isLt
  have := x1.isLt
  have := x2.isLt
  have := x3.isLt
  have := x4.isLt
  have := x5.isLt
  have := x6.isLt
  refine ⟨by omega, by omega, by omega, by omega, fld_of (by omega), fld_of (by omega), fld_of (by omega), fld_of (by omega), fld_of (by omega), fld_of (by omega), fld_of (by omega)⟩

/-- A word whose fields, as (lowest bit, width), are (16, 9), (7, 9), (5, 2). -/
theorem word20 {m c n : Nat} (x0 : BitVec 9) (x1 : BitVec 9) (x2 : BitVec 2) (hm : m < 128) (hc : c = m * 33554432 + 1) (hn : n = c + x0.toNat * 65536 + x1.toNat * 128 + x2.toNat * 32) :
    n < 2 ^ 32 ∧ n / 33554432 = m ∧ ¬(n % 32 = 0) ∧ n % 32 = 1 ∧ fld n 16 9 = x0 ∧ fld n 7 9 = x1 ∧ fld n 5 2 = x2 := by
  have := x0.isLt
  have := x1.isLt
  have := x2.isLt
  refine ⟨by omega, by omega, by omega, by omega, fld_of (by omega), fld_of (by omega), fld_of (by omega)⟩

/-- A word whose fields, as (lowest bit, width), are (16, 9), (7, 9), (5, 2), (4, 1), (3, 1), (0, 2). -/
theorem word21 {m c n : Nat} (x0 : BitVec 9) (x1 : BitVec 9) (x2 : BitVec 2) (x3 : BitVec 1) (x4 : BitVec 1) (x5 : BitVec 2) (hm : m < 128) (hc : c = m * 33554432) (hn : n = c + x0.toNat * 65536 + x1.toNat * 128 + x2.toNat * 32 + x3.toNat * 16 + x4.toNat * 8 + x5.toNat) :
    n < 2 ^ 32 ∧ n / 33554432 = m ∧ n / 4 % 2 = 0 ∧ fld n 16 9 = x0 ∧ fld n 7 9 = x1 ∧ fld n 5 2 = x2 ∧ fld n 4 1 = x3 ∧ fld n 3 1 = x4 ∧ fld n 0 2 = x5 := by
  have := x0.isLt
  have := x1.isLt
  have := x2.isLt
  have := x3.isLt
  have := x4.isLt
  have := x5.isLt
  refine ⟨by omega, by omega, by omega, fld_of (by omega), fld_of (by omega), fld_of (by omega), fld_of (by omega), fld_of (by omega), fld_of (by omega)⟩

/-- A word whose fields, as (lowest bit, width), are (16, 9), (7, 9), (5, 2), (0, 2). -/
theorem word22 {m c n : Nat} (x0 : BitVec 9) (x1 : BitVec 9) (x2 : BitVec 2) (x3 : BitVec 2) (hm : m < 128) (hc : c = m * 33554432) (hn : n = c + x0.toNat * 65536 + x1.toNat * 128 + x2.toNat * 32 + x3.toNat) :
    n < 2 ^ 32 ∧ n / 33554432 = m ∧ n / 4 % 8 = 0 ∧ fld n 16 9 = x0 ∧ fld n 7 9 = x1 ∧ fld n 5 2 = x2 ∧ fld n 0 2 = x3 := by
  have := x0.isLt
  have := x1.isLt
  have := x2.isLt
  have := x3.isLt
  refine ⟨by omega, by omega, by omega, fld_of (by omega), fld_of (by omega), fld_of (by omega), fld_of (by omega)⟩

/-- A word whose fields, as (lowest bit, width), are (16, 9), (12, 4), (5, 2), (4, 1), (3, 1), (2, 1), (0, 2). -/
theorem word23 {m c n : Nat} (x0 : BitVec 9) (x1 : BitVec 4) (x2 : BitVec 2) (x3 : BitVec 1) (x4 : BitVec 1) (x5 : BitVec 1) (x6 : BitVec 2) (hm : m < 128) (hc : c = m * 33554432) (hn : n = c + x0.toNat * 65536 + x1.toNat * 4096 + x2.toNat * 32 + x3.toNat * 16 + x4.toNat * 8 + x5.toNat * 4 + x6.toNat) :
    n < 2 ^ 32 ∧ n / 33554432 = m ∧ n / 128 % 32 = 0 ∧ fld n 16 9 = x0 ∧ fld n 12 4 = x1 ∧ fld n 5 2 = x2 ∧ fld n 4 1 = x3 ∧ fld n 3 1 = x4 ∧ fld n 2 1 = x5 ∧ fld n 0 2 = x6 := by
  have := x0.isLt
  have := x1.isLt
  have := x2.isLt
  have := x3.isLt
  have := x4.isLt
  have := x5.isLt
  have := x6.isLt
  refine ⟨by omega, by omega, by omega, fld_of (by omega), fld_of (by omega), fld_of (by omega), fld_of (by omega), fld_of (by omega), fld_of (by omega), fld_of (by omega)⟩

/-- A word whose fields, as (lowest bit, width), are (16, 9), (12, 4), (4, 1), (3, 1), (2, 1), (0, 2). -/
theorem word24 {m c n : Nat} (x0 : BitVec 9) (x1 : BitVec 4) (x2 : BitVec 1) (x3 : BitVec 1) (x4 : BitVec 1) (x5 : BitVec 2) (hm : m < 128) (hc : c = m * 33554432) (hn : n = c + x0.toNat * 65536 + x1.toNat * 4096 + x2.toNat * 16 + x3.toNat * 8 + x4.toNat * 4 + x5.toNat) :
    n < 2 ^ 32 ∧ n / 33554432 = m ∧ n / 32 % 128 = 0 ∧ fld n 16 9 = x0 ∧ fld n 12 4 = x1 ∧ fld n 4 1 = x2 ∧ fld n 3 1 = x3 ∧ fld n 2 1 = x4 ∧ fld n 0 2 = x5 := by
  have := x0.isLt
  have := x1.isLt
  have := x2.isLt
  have := x3.isLt
  have := x4.isLt
  have := x5.isLt
  refine ⟨by omega, by omega, by omega, fld_of (by omega), fld_of (by omega), fld_of (by omega), fld_of (by omega), fld_of (by omega), fld_of (by omega)⟩

/-- A word whose fields, as (lowest bit, width), are (16, 9), (12, 4), (8, 4), (5, 2), (4, 1), (3, 1), (2, 1), (0, 2). -/
theorem word25 {m c n : Nat} (x0 : BitVec 9) (x1 : BitVec 4) (x2 : BitVec 4) (x3 : BitVec 2) (x4 : BitVec 1) (x5 : BitVec 1) (x6 : BitVec 1) (x7 : BitVec 2) (hm : m < 128) (hc : c = m * 33554432) (hn : n = c + x0.toNat * 65536 + x1.toNat * 4096 + x2.toNat * 256 + x3.toNat * 32 + x4.toNat * 16 + x5.toNat * 8 + x6.toNat * 4 + x7.toNat) :
    n < 2 ^ 32 ∧ n / 33554432 = m ∧ n / 128 % 2 = 0 ∧ fld n 16 9 = x0 ∧ fld n 12 4 = x1 ∧ fld n 8 4 = x2 ∧ fld n 5 2 = x3 ∧ fld n 4 1 = x4 ∧ fld n 3 1 = x5 ∧ fld n 2 1 = x6 ∧ fld n 0 2 = x7 := by
  have := x0.isLt
  have := x1.isLt
  have := x2.isLt
  have := x3.isLt
  have := x4.isLt
  have := x5.isLt
  have := x6.isLt
  have := x7.isLt
  refine ⟨by omega, by omega, by omega, fld_of (by omega), fld_of (by omega), fld_of (by omega), fld_of (by omega), fld_of (by omega), fld_of (by omega), fld_of (by omega), fld_of (by omega)⟩

/-- A word whose fields, as (lowest bit, width), are (16, 9), (8, 4), (5, 2), (4, 1), (3, 1), (2, 1). -/
theorem word26 {m c n : Nat} (x0 : BitVec 9) (x1 : BitVec 4) (x2 : BitVec 2) (x3 : BitVec 1) (x4 : BitVec 1) (x5 : BitVec 1) (hm : m < 128) (hc : c = m * 33554432) (hn : n = c + x0.toNat * 65536 + x1.toNat * 256 + x2.toNat * 32 + x3.toNat * 16 + x4.toNat * 8 + x5.toNat * 4) :
    n < 2 ^ 32 ∧ n / 33554432 = m ∧ (n % 4 = 0 ∧ n / 128 % 2 = 0 ∧ n / 4096 % 16 = 0) ∧ fld n 16 9 = x0 ∧ fld n 8 4 = x1 ∧ fld n 5 2 = x2 ∧ fld n 4 1 = x3 ∧ fld n 3 1 = x4 ∧ fld n 2 1 = x5 := by
  have := x0.isLt
  have := x1.isLt
  have := x2.isLt
  have := x3.isLt
  have := x4.isLt
  have := x5.isLt
  refine ⟨by omega, by omega, by omega, fld_of (by omega), fld_of (by omega), fld_of (by omega), fld_of (by omega), fld_of (by omega), fld_of (by omega)⟩

/-- A word whose fields, as (lowest bit, width), are (16, 9), (14, 2), (7, 7), (0, 7). -/
theorem word27 {m c n : Nat} (x0 : BitVec 9) (x1 : BitVec 2) (x2 : BitVec 7) (x3 : BitVec 7) (hm : m < 128) (hc : c = m * 33554432) (hn : n = c + x0.toNat * 65536 + x1.toNat * 16384 + x2.toNat * 128 + x3.toNat) :
    n < 2 ^ 32 ∧ n / 33554432 = m ∧ fld n 16 9 = x0 ∧ fld n 14 2 = x1 ∧ fld n 7 7 = x2 ∧ fld n 0 7 = x3 := by
  have := x0.isLt
  have := x1.isLt
  have := x2.isLt
  have := x3.isLt
  refine ⟨by omega, by omega, fld_of (by omega), fld_of (by omega), fld_of (by omega), fld_of (by omega)⟩

/-- A word whose fields, as (lowest bit, width), are (16, 9), (14, 2), (9, 5), (7, 2), (5, 2), (2, 3). -/
theorem word28 {m c n : Nat} (x0 : BitVec 9) (x1 : BitVec 2) (x2 : BitVec 5) (x3 : BitVec 2) (x4 : BitVec 2) (x5 : BitVec 3) (hm : m < 128) (hc : c = m * 33554432) (hn : n = c + x0.toNat * 65536 + x1.toNat * 16384 + x2.toNat * 512 + x3.toNat * 128 + x4.toNat * 32 + x5.toNat * 4) :
    n < 2 ^ 32 ∧ n / 33554432 = m ∧ n % 4 = 0 ∧ fld n 16 9 = x0 ∧ fld n 14 2 = x1 ∧ fld n 9 5 = x2 ∧ fld n 7 2 = x3 ∧ fld n 5 2 = x4 ∧ fld n 2 3 = x5 := by
  have := x0.isLt
  have := x1.isLt
  have := x2.isLt
  have := x3.isLt
  have := x4.isLt
  have := x5.isLt
  refine ⟨by omega, by omega, by omega, fld_of (by omega), fld_of (by omega), fld_of (by omega), fld_of (by omega), fld_of (by omega), fld_of (by omega)⟩

/-- A word whose fields, as (lowest bit, width), are (16, 9), (14, 2), (4, 1), (0, 4). -/
theorem word29 {m c n : Nat} (x0 : BitVec 9) (x1 : BitVec 2) (x2 : BitVec 1) (x3 : BitVec 4) (hm : m < 128) (hc : c = m * 33554432) (hn : n = c + x0.toNat * 65536 + x1.toNat * 16384 + x2.toNat * 16 + x3.toNat) :
    n < 2 ^ 32 ∧ n / 33554432 = m ∧ n / 32 % 512 = 0 ∧ fld n 16 9 = x0 ∧ fld n 14 2 = x1 ∧ fld n 4 1 = x2 ∧ fld n 0 4 = x3 := by
  have := x0.isLt
  have := x1.isLt
  have := x2.isLt
  have := x3.isLt
  refine ⟨by omega, by omega, by omega, fld_of (by omega), fld_of (by omega), fld_of (by omega), fld_of (by omega)⟩

/-- A word whose fields, as (lowest bit, width), are (16, 9), (14, 2), (5, 9), (4, 1), (0, 4). -/
theorem word30 {m c n : Nat} (x0 : BitVec 9) (x1 : BitVec 2) (x2 : BitVec 9) (x3 : BitVec 1) (x4 : BitVec 4) (hm : m < 128) (hc : c = m * 33554432) (hn : n = c + x0.toNat * 65536 + x1.toNat * 16384 + x2.toNat * 32 + x3.toNat * 16 + x4.toNat) :
    n < 2 ^ 32 ∧ n / 33554432 = m ∧ fld n 16 9 = x0 ∧ fld n 14 2 = x1 ∧ fld n 5 9 = x2 ∧ fld n 4 1 = x3 ∧ fld n 0 4 = x4 := by
  have := x0.isLt
  have := x1.isLt
  have := x2.isLt
  have := x3.isLt
  have := x4.isLt
  refine ⟨by omega, by omega, fld_of (by omega), fld_of (by omega), fld_of (by omega), fld_of (by omega), fld_of (by omega)⟩

/-- A word whose fields, as (lowest bit, width), are (16, 9), (14, 2), (12, 1), (11, 1), (9, 2), (7, 2), (6, 1), (0, 6). -/
theorem word31 {m c n : Nat} (x0 : BitVec 9) (x1 : BitVec 2) (x2 : BitVec 1) (x3 : BitVec 1) (x4 : BitVec 2) (x5 : BitVec 2) (x6 : BitVec 1) (x7 : BitVec 6) (hm : m < 128) (hc : c = m * 33554432) (hn : n = c + x0.toNat * 65536 + x1.toNat * 16384 + x2.toNat * 4096 + x3.toNat * 2048 + x4.toNat * 512 + x5.toNat * 128 + x6.toNat * 64 + x7.toNat) :
    n < 2 ^ 32 ∧ n / 33554432 = m ∧ n / 8192 % 2 = 0 ∧ fld n 16 9 = x0 ∧ fld n 14 2 = x1 ∧ fld n 12 1 = x2 ∧ fld n 11 1 = x3 ∧ fld n 9 2 = x4 ∧ fld n 7 2 = x5 ∧ fld n 6 1 = x6 ∧ fld n 0 6 = x7 := by
  have := x0.isLt
  have := x1.isLt
  have := x2.isLt
  have := x3.isLt
  have := x4.isLt
  have := x5.isLt
  have := x6.isLt
  have := x7.isLt
  refine ⟨by omega, by omega, by omega, fld_of (by omega), fld_of (by omega), fld_of (by omega), fld_of (by omega), fld_of (by omega), fld_of (by omega), fld_of (by omega), fld_of (by omega)⟩

/-- A word whose fields, as (lowest bit, width), are (16, 9), (14, 2), (0, 2). -/
theorem word32 {m c n : Nat} (x0 : BitVec 9) (x1 : BitVec 2) (x2 : BitVec 2) (hm : m < 128) (hc : c = m * 33554432) (hn : n = c + x0.toNat * 65536 + x1.toNat * 16384 + x2.toNat) :
    n < 2 ^ 32 ∧ n / 33554432 = m ∧ n / 4 % 4096 = 0 ∧ fld n 16 9 = x0 ∧ fld n 14 2 = x1 ∧ fld n 0 2 = x2 := by
  have := x0.isLt
  have := x1.isLt
  have := x2.isLt
  refine ⟨by omega, by omega, by omega, fld_of (by omega), fld_of (by omega), fld_of (by omega)⟩

/-- A word whose fields, as (lowest bit, width), are (16, 9), (14, 2), (9, 5), (7, 2), (5, 2). -/
theorem word33 {m c n : Nat} (x0 : BitVec 9) (x1 : BitVec 2) (x2 : BitVec 5) (x3 : BitVec 2) (x4 : BitVec 2) (hm : m < 128) (hc : c = m * 33554432) (hn : n = c + x0.toNat * 65536 + x1.toNat * 16384 + x2.toNat * 512 + x3.toNat * 128 + x4.toNat * 32) :
    n < 2 ^ 32 ∧ n / 33554432 = m ∧ n % 32 = 0 ∧ fld n 16 9 = x0 ∧ fld n 14 2 = x1 ∧ fld n 9 5 = x2 ∧ fld n 7 2 = x3 ∧ fld n 5 2 = x4 := by
  have := x0.isLt
  have := x1.isLt
  have := x2.isLt
  have := x3.isLt
  have := x4.isLt
  refine ⟨by omega, by omega, by omega, fld_of (by omega), fld_of (by omega), fld_of (by omega), fld_of (by omega), fld_of (by omega)⟩

/-- A word whose fields, as (lowest bit, width), are (16, 9), (14, 2), (9, 5), (7, 2), (5, 2). -/
theorem word34 {m c n : Nat} (x0 : BitVec 9) (x1 : BitVec 2) (x2 : BitVec 5) (x3 : BitVec 2) (x4 : BitVec 2) (hm : m < 128) (hc : c = m * 33554432 + 4) (hn : n = c + x0.toNat * 65536 + x1.toNat * 16384 + x2.toNat * 512 + x3.toNat * 128 + x4.toNat * 32) :
    n < 2 ^ 32 ∧ n / 33554432 = m ∧ ¬(n % 32 = 0) ∧ n % 32 = 4 ∧ fld n 16 9 = x0 ∧ fld n 14 2 = x1 ∧ fld n 9 5 = x2 ∧ fld n 7 2 = x3 ∧ fld n 5 2 = x4 := by
  have := x0.isLt
  have := x1.isLt
  have := x2.isLt
  have := x3.isLt
  have := x4.isLt
  refine ⟨by omega, by omega, by omega, by omega, fld_of (by omega), fld_of (by omega), fld_of (by omega), fld_of (by omega), fld_of (by omega)⟩

/-- A word whose fields, as (lowest bit, width), are (16, 9), (14, 2), (9, 5), (7, 2), (5, 2). -/
theorem word35 {m c n : Nat} (x0 : BitVec 9) (x1 : BitVec 2) (x2 : BitVec 5) (x3 : BitVec 2) (x4 : BitVec 2) (hm : m < 128) (hc : c = m * 33554432 + 8) (hn : n = c + x0.toNat * 65536 + x1.toNat * 16384 + x2.toNat * 512 + x3.toNat * 128 + x4.toNat * 32) :
    n < 2 ^ 32 ∧ n / 33554432 = m ∧ ¬(n % 32 = 0) ∧ ¬(n % 32 = 4) ∧ n % 32 = 8 ∧ fld n 16 9 = x0 ∧ fld n 14 2 = x1 ∧ fld n 9 5 = x2 ∧ fld n 7 2 = x3 ∧ fld n 5 2 = x4 := by
  have := x0.isLt
  have := x1.isLt
  have := x2.isLt
  have := x3.isLt
  have := x4.isLt
  refine ⟨by omega, by omega, by omega, by omega, by omega, fld_of (by omega), fld_of (by omega), fld_of (by omega), fld_of (by omega), fld_of (by omega)⟩

/-- A word whose fields, as (lowest bit, width), are (16, 9), (14, 2), (9, 5), (7, 2), (5, 2). -/
theorem word36 {m c n : Nat} (x0 : BitVec 9) (x1 : BitVec 2) (x2 : BitVec 5) (x3 : BitVec 2) (x4 : BitVec 2) (hm : m < 128) (hc : c = m * 33554432 + 12) (hn : n = c + x0.toNat * 65536 + x1.toNat * 16384 + x2.toNat * 512 + x3.toNat * 128 + x4.toNat * 32) :
    n < 2 ^ 32 ∧ n / 33554432 = m ∧ ¬(n % 32 = 0) ∧ ¬(n % 32 = 4) ∧ ¬(n % 32 = 8) ∧ n % 32 = 12 ∧ fld n 16 9 = x0 ∧ fld n 14 2 = x1 ∧ fld n 9 5 = x2 ∧ fld n 7 2 = x3 ∧ fld n 5 2 = x4 := by
  have := x0.isLt
  have := x1.isLt
  have := x2.isLt
  have := x3.isLt
  have := x4.isLt
  refine ⟨by omega, by omega, by omega, by omega, by omega, by omega, fld_of (by omega), fld_of (by omega), fld_of (by omega), fld_of (by omega), fld_of (by omega)⟩

/-- A word whose fields, as (lowest bit, width), are (16, 9), (14, 2), (9, 5), (7, 2), (5, 2). -/
theorem word37 {m c n : Nat} (x0 : BitVec 9) (x1 : BitVec 2) (x2 : BitVec 5) (x3 : BitVec 2) (x4 : BitVec 2) (hm : m < 128) (hc : c = m * 33554432 + 16) (hn : n = c + x0.toNat * 65536 + x1.toNat * 16384 + x2.toNat * 512 + x3.toNat * 128 + x4.toNat * 32) :
    n < 2 ^ 32 ∧ n / 33554432 = m ∧ ¬(n % 32 = 0) ∧ ¬(n % 32 = 4) ∧ ¬(n % 32 = 8) ∧ ¬(n % 32 = 12) ∧ n % 32 = 16 ∧ fld n 16 9 = x0 ∧ fld n 14 2 = x1 ∧ fld n 9 5 = x2 ∧ fld n 7 2 = x3 ∧ fld n 5 2 = x4 := by
  have := x0.isLt
  have := x1.isLt
  have := x2.isLt
  have := x3.isLt
  have := x4.isLt
  refine ⟨by omega, by omega, by omega, by omega, by omega, by omega, by omega, fld_of (by omega), fld_of (by omega), fld_of (by omega), fld_of (by omega), fld_of (by omega)⟩

/-- A word whose fields, as (lowest bit, width), are (16, 9), (14, 2), (9, 5), (7, 2), (5, 2). -/
theorem word38 {m c n : Nat} (x0 : BitVec 9) (x1 : BitVec 2) (x2 : BitVec 5) (x3 : BitVec 2) (x4 : BitVec 2) (hm : m < 128) (hc : c = m * 33554432 + 20) (hn : n = c + x0.toNat * 65536 + x1.toNat * 16384 + x2.toNat * 512 + x3.toNat * 128 + x4.toNat * 32) :
    n < 2 ^ 32 ∧ n / 33554432 = m ∧ ¬(n % 32 = 0) ∧ ¬(n % 32 = 4) ∧ ¬(n % 32 = 8) ∧ ¬(n % 32 = 12) ∧ ¬(n % 32 = 16) ∧ n % 32 = 20 ∧ fld n 16 9 = x0 ∧ fld n 14 2 = x1 ∧ fld n 9 5 = x2 ∧ fld n 7 2 = x3 ∧ fld n 5 2 = x4 := by
  have := x0.isLt
  have := x1.isLt
  have := x2.isLt
  have := x3.isLt
  have := x4.isLt
  refine ⟨by omega, by omega, by omega, by omega, by omega, by omega, by omega, by omega, fld_of (by omega), fld_of (by omega), fld_of (by omega), fld_of (by omega), fld_of (by omega)⟩

/-- A word whose fields, as (lowest bit, width), are (16, 9), (14, 2), (9, 5), (7, 2), (5, 2). -/
theorem word39 {m c n : Nat} (x0 : BitVec 9) (x1 : BitVec 2) (x2 : BitVec 5) (x3 : BitVec 2) (x4 : BitVec 2) (hm : m < 128) (hc : c = m * 33554432 + 24) (hn : n = c + x0.toNat * 65536 + x1.toNat * 16384 + x2.toNat * 512 + x3.toNat * 128 + x4.toNat * 32) :
    n < 2 ^ 32 ∧ n / 33554432 = m ∧ ¬(n % 32 = 0) ∧ ¬(n % 32 = 4) ∧ ¬(n % 32 = 8) ∧ ¬(n % 32 = 12) ∧ ¬(n % 32 = 16) ∧ ¬(n % 32 = 20) ∧ n % 32 = 24 ∧ fld n 16 9 = x0 ∧ fld n 14 2 = x1 ∧ fld n 9 5 = x2 ∧ fld n 7 2 = x3 ∧ fld n 5 2 = x4 := by
  have := x0.isLt
  have := x1.isLt
  have := x2.isLt
  have := x3.isLt
  have := x4.isLt
  refine ⟨by omega, by omega, by omega, by omega, by omega, by omega, by omega, by omega, by omega, fld_of (by omega), fld_of (by omega), fld_of (by omega), fld_of (by omega), fld_of (by omega)⟩

/-- A word whose fields, as (lowest bit, width), are (16, 9), (9, 5), (7, 2), (5, 2). -/
theorem word40 {m c n : Nat} (x0 : BitVec 9) (x1 : BitVec 5) (x2 : BitVec 2) (x3 : BitVec 2) (hm : m < 128) (hc : c = m * 33554432) (hn : n = c + x0.toNat * 65536 + x1.toNat * 512 + x2.toNat * 128 + x3.toNat * 32) :
    n < 2 ^ 32 ∧ n / 33554432 = m ∧ (n % 32 = 0 ∧ n / 16384 % 4 = 0) ∧ fld n 16 9 = x0 ∧ fld n 9 5 = x1 ∧ fld n 7 2 = x2 ∧ fld n 5 2 = x3 := by
  have := x0.isLt
  have := x1.isLt
  have := x2.isLt
  have := x3.isLt
  refine ⟨by omega, by omega, by omega, fld_of (by omega), fld_of (by omega), fld_of (by omega), fld_of (by omega)⟩

/-- A word whose fields, as (lowest bit, width), are (16, 9), (14, 2), (9, 5), (7, 2). -/
theorem word41 {m c n : Nat} (x0 : BitVec 9) (x1 : BitVec 2) (x2 : BitVec 5) (x3 : BitVec 2) (hm : m < 128) (hc : c = m * 33554432 + 64) (hn : n = c + x0.toNat * 65536 + x1.toNat * 16384 + x2.toNat * 512 + x3.toNat * 128) :
    n < 2 ^ 32 ∧ n / 33554432 = m ∧ n % 128 = 64 ∧ fld n 16 9 = x0 ∧ fld n 14 2 = x1 ∧ fld n 9 5 = x2 ∧ fld n 7 2 = x3 := by
  have := x0.isLt
  have := x1.isLt
  have := x2.isLt
  have := x3.isLt
  refine ⟨by omega, by omega, by omega, fld_of (by omega), fld_of (by omega), fld_of (by omega), fld_of (by omega)⟩

/-- A word whose fields, as (lowest bit, width), are (16, 9), (7, 9), (5, 2), (1, 1), (0, 1). -/
theorem word42 {m c n : Nat} (x0 : BitVec 9) (x1 : BitVec 9) (x2 : BitVec 2) (x3 : BitVec 1) (x4 : BitVec 1) (hm : m < 128) (hc : c = m * 33554432) (hn : n = c + x0.toNat * 65536 + x1.toNat * 128 + x2.toNat * 32 + x3.toNat * 2 + x4.toNat) :
    n < 2 ^ 32 ∧ n / 33554432 = m ∧ n / 4 % 8 = 0 ∧ fld n 16 9 = x0 ∧ fld n 7 9 = x1 ∧ fld n 5 2 = x2 ∧ fld n 1 1 = x3 ∧ fld n 0 1 = x4 := by
  have := x0.isLt
  have := x1.isLt
  have := x2.isLt
  have := x3.isLt
  have := x4.isLt
  refine ⟨by omega, by omega, by omega, fld_of (by omega), fld_of (by omega), fld_of (by omega), fld_of (by omega), fld_of (by omega)⟩

/-- A word whose fields, as (lowest bit, width), are (16, 9), (14, 2), (0, 3). -/
theorem word43 {m c n : Nat} (x0 : BitVec 9) (x1 : BitVec 2) (x2 : BitVec 3) (hm : m < 128) (hc : c = m * 33554432) (hn : n = c + x0.toNat * 65536 + x1.toNat * 16384 + x2.toNat) :
    n < 2 ^ 32 ∧ n / 33554432 = m ∧ n / 8 % 2048 = 0 ∧ fld n 16 9 = x0 ∧ fld n 14 2 = x1 ∧ fld n 0 3 = x2 := by
  have := x0.isLt
  have := x1.isLt
  have := x2.isLt
  refine ⟨by omega, by omega, by omega, fld_of (by omega), fld_of (by omega), fld_of (by omega)⟩

/-- A word whose fields, as (lowest bit, width), are (16, 9), (14, 2), (1, 1), (0, 1). -/
theorem word44 {m c n : Nat} (x0 : BitVec 9) (x1 : BitVec 2) (x2 : BitVec 1) (x3 : BitVec 1) (hm : m < 128) (hc : c = m * 33554432) (hn : n = c + x0.toNat * 65536 + x1.toNat * 16384 + x2.toNat * 2 + x3.toNat) :
    n < 2 ^ 32 ∧ n / 33554432 = m ∧ n / 4 % 4096 = 0 ∧ fld n 16 9 = x0 ∧ fld n 14 2 = x1 ∧ fld n 1 1 = x2 ∧ fld n 0 1 = x3 := by
  have := x0.isLt
  have := x1.isLt
  have := x2.isLt
  have := x3.isLt
  refine ⟨by omega, by omega, by omega, fld_of (by omega), fld_of (by omega), fld_of (by omega), fld_of (by omega)⟩

/-- A word whose fields, as (lowest bit, width), are (16, 9), (7, 9), (5, 2), (0, 1). -/
theorem word45 {m c n : Nat} (x0 : BitVec 9) (x1 : BitVec 9) (x2 : BitVec 2) (x3 : BitVec 1) (hm : m < 128) (hc : c = m * 33554432) (hn : n = c + x0.toNat * 65536 + x1.toNat * 128 + x2.toNat * 32 + x3.toNat) :
    n < 2 ^ 32 ∧ n / 33554432 = m ∧ n / 2 % 16 = 0 ∧ fld n 16 9 = x0 ∧ fld n 7 9 = x1 ∧ fld n 5 2 = x2 ∧ fld n 0 1 = x3 := by
  have := x0.isLt
  have := x1.isLt
  have := x2.isLt
  have := x3.isLt
  refine ⟨by omega, by omega, by omega, fld_of (by omega), fld_of (by omega), fld_of (by omega), fld_of (by omega)⟩

/-- A word whose fields, as (lowest bit, width), are (16, 9), (7, 2), (5, 2). -/
theorem word46 {m c n : Nat} (x0 : BitVec 9) (x1 : BitVec 2) (x2 : BitVec 2) (hm : m < 128) (hc : c = m * 33554432) (hn : n = c + x0.toNat * 65536 + x1.toNat * 128 + x2.toNat * 32) :
    n < 2 ^ 32 ∧ n / 33554432 = m ∧ (n % 32 = 0 ∧ n / 512 % 128 = 0) ∧ fld n 16 9 = x0 ∧ fld n 7 2 = x1 ∧ fld n 5 2 = x2 := by
  have := x0.isLt
  have := x1.isLt
  have := x2.isLt
  refine ⟨by omega, by omega, by omega, fld_of (by omega), fld_of (by omega), fld_of (by omega)⟩

/-- A word whose fields, as (lowest bit, width), are (16, 9), (7, 2), (5, 2). -/
theorem word47 {m c n : Nat} (x0 : BitVec 9) (x1 : BitVec 2) (x2 : BitVec 2) (hm : m < 128) (hc : c = m * 33554432 + 512) (hn : n = c + x0.toNat * 65536 + x1.toNat * 128 + x2.toNat * 32) :
    n < 2 ^ 32 ∧ n / 33554432 = m ∧ ¬(n % 32 = 0 ∧ n / 512 % 128 = 0) ∧ (n % 32 = 0 ∧ n / 512 % 128 = 1) ∧ fld n 16 9 = x0 ∧ fld n 7 2 = x1 ∧ fld n 5 2 = x2 := by
  have := x0.isLt
  have := x1.isLt
  have := x2.isLt
  refine ⟨by omega, by omega, by omega, by omega, fld_of (by omega), fld_of (by omega), fld_of (by omega)⟩

/-- A word whose fields, as (lowest bit, width), are (16, 9), (9, 2), (7, 2), (5, 2), (4, 1). -/
theorem word48 {m c n : Nat} (x0 : BitVec 9) (x1 : BitVec 2) (x2 : BitVec 2) (x3 : BitVec 2) (x4 : BitVec 1) (hm : m < 128) (hc : c = m * 33554432) (hn : n = c + x0.toNat * 65536 + x1.toNat * 512 + x2.toNat * 128 + x3.toNat * 32 + x4.toNat * 16) :
    n < 2 ^ 32 ∧ n / 33554432 = m ∧ (n % 16 = 0 ∧ n / 2048 % 32 = 0) ∧ fld n 16 9 = x0 ∧ fld n 9 2 = x1 ∧ fld n 7 2 = x2 ∧ fld n 5 2 = x3 ∧ fld n 4 1 = x4 := by
  have := x0.isLt
  have := x1.isLt
  have := x2.isLt
  have := x3.isLt
  have := x4.isLt
  refine ⟨by omega, by omega, by omega, fld_of (by omega), fld_of (by omega), fld_of (by omega), fld_of (by omega), fld_of (by omega)⟩

/-- A word whose fields, as (lowest bit, width), are (16, 9), (5, 2). -/
theorem word49 {m c n : Nat} (x0 : BitVec 9) (x1 : BitVec 2) (hm : m < 128) (hc : c = m * 33554432) (hn : n = c + x0.toNat * 65536 + x1.toNat * 32) :
    n < 2 ^ 32 ∧ n / 33554432 = m ∧ (n % 32 = 0 ∧ n / 128 % 512 = 0) ∧ fld n 16 9 = x0 ∧ fld n 5 2 = x1 := by
  have := x0.isLt
  have := x1.isLt
  refine ⟨by omega, by omega, by omega, fld_of (by omega), fld_of (by omega)⟩

/-- A word whose fields, as (lowest bit, width), are (16, 9), (5, 2). -/
theorem word50 {m c n : Nat} (x0 : BitVec 9) (x1 : BitVec 2) (hm : m < 128) (hc : c = m * 33554432 + 128) (hn : n = c + x0.toNat * 65536 + x1.toNat * 32) :
    n < 2 ^ 32 ∧ n / 33554432 = m ∧ ¬(n % 32 = 0 ∧ n / 128 % 512 = 0) ∧ (n % 32 = 0 ∧ n / 128 % 512 = 1) ∧ fld n 16 9 = x0 ∧ fld n 5 2 = x1 := by
  have := x0.isLt
  have := x1.isLt
  refine ⟨by omega, by omega, by omega, by omega, fld_of (by omega), fld_of (by omega)⟩

/-- A word whose fields, as (lowest bit, width), are (16, 9), (7, 3), (5, 2). -/
theorem word51 {m c n : Nat} (x0 : BitVec 9) (x1 : BitVec 3) (x2 : BitVec 2) (hm : m < 128) (hc : c = m * 33554432) (hn : n = c + x0.toNat * 65536 + x1.toNat * 128 + x2.toNat * 32) :
    n < 2 ^ 32 ∧ n / 33554432 = m ∧ (n % 32 = 0 ∧ n / 1024 % 64 = 0) ∧ fld n 16 9 = x0 ∧ fld n 7 3 = x1 ∧ fld n 5 2 = x2 := by
  have := x0.isLt
  have := x1.isLt
  have := x2.isLt
  refine ⟨by omega, by omega, by omega, fld_of (by omega), fld_of (by omega), fld_of (by omega)⟩

/-- A word whose fields, as (lowest bit, width), are (16, 9), (7, 4), (5, 2). -/
theorem word52 {m c n : Nat} (x0 : BitVec 9) (x1 : BitVec 4) (x2 : BitVec 2) (hm : m < 128) (hc : c = m * 33554432) (hn : n = c + x0.toNat * 65536 + x1.toNat * 128 + x2.toNat * 32) :
    n < 2 ^ 32 ∧ n / 33554432 = m ∧ (n % 32 = 0 ∧ n / 2048 % 32 = 0) ∧ fld n 16 9 = x0 ∧ fld n 7 4 = x1 ∧ fld n 5 2 = x2 := by
  have := x0.isLt
  have := x1.isLt
  have := x2.isLt
  refine ⟨by omega, by omega, by omega, fld_of (by omega), fld_of (by omega), fld_of (by omega)⟩

/-- A word whose fields, as (lowest bit, width), are (16, 9), (5, 2), (2, 1), (0, 2). -/
theorem word53 {m c n : Nat} (x0 : BitVec 9) (x1 : BitVec 2) (x2 : BitVec 1) (x3 : BitVec 2) (hm : m < 128) (hc : c = m * 33554432) (hn : n = c + x0.toNat * 65536 + x1.toNat * 32 + x2.toNat * 4 + x3.toNat) :
    n < 2 ^ 32 ∧ n / 33554432 = m ∧ (n / 8 % 4 = 0 ∧ n / 128 % 512 = 0) ∧ fld n 16 9 = x0 ∧ fld n 5 2 = x1 ∧ fld n 2 1 = x2 ∧ fld n 0 2 = x3 := by
  have := x0.isLt
  have := x1.isLt
  have := x2.isLt
  have := x3.isLt
  refine ⟨by omega, by omega, by omega, fld_of (by omega), fld_of (by omega), fld_of (by omega), fld_of (by omega)⟩

/-- A word whose fields, as (lowest bit, width), are (16, 9), (7, 3), (5, 2), (4, 1), (3, 1), (2, 1), (0, 2). -/
theorem word54 {m c n : Nat} (x0 : BitVec 9) (x1 : BitVec 3) (x2 : BitVec 2) (x3 : BitVec 1) (x4 : BitVec 1) (x5 : BitVec 1) (x6 : BitVec 2) (hm : m < 128) (hc : c = m * 33554432) (hn : n = c + x0.toNat * 65536 + x1.toNat * 128 + x2.toNat * 32 + x3.toNat * 16 + x4.toNat * 8 + x5.toNat * 4 + x6.toNat) :
    n < 2 ^ 32 ∧ n / 33554432 = m ∧ n / 1024 % 64 = 0 ∧ fld n 16 9 = x0 ∧ fld n 7 3 = x1 ∧ fld n 5 2 = x2 ∧ fld n 4 1 = x3 ∧ fld n 3 1 = x4 ∧ fld n 2 1 = x5 ∧ fld n 0 2 = x6 := by
  have := x0.isLt
  have := x1.isLt
  have := x2.isLt
  have := x3.isLt
  have := x4.isLt
  have := x5.isLt
  have := x6.isLt
  refine ⟨by omega, by omega, by omega, fld_of (by omega), fld_of (by omega), fld_of (by omega), fld_of (by omega), fld_of (by omega), fld_of (by omega), fld_of (by omega)⟩

/-- A word whose fields, as (lowest bit, width), are (16, 9), (5, 2), (4, 1). -/
theorem word55 {m c n : Nat} (x0 : BitVec 9) (x1 : BitVec 2) (x2 : BitVec 1) (hm : m < 128) (hc : c = m * 33554432) (hn : n = c + x0.toNat * 65536 + x1.toNat * 32 + x2.toNat * 16) :
    n < 2 ^ 32 ∧ n / 33554432 = m ∧ (n % 16 = 0 ∧ n / 128 % 512 = 0) ∧ fld n 16 9 = x0 ∧ fld n 5 2 = x1 ∧ fld n 4 1 = x2 := by
  have := x0.isLt
  have := x1.isLt
  have := x2.isLt
  refine ⟨by omega, by omega, by omega, fld_of (by omega), fld_of (by omega), fld_of (by omega)⟩

/-- A word whose fields, as (lowest bit, width), are (16, 9), (7, 9), (0, 1). -/
theorem word56 {m c n : Nat} (x0 : BitVec 9) (x1 : BitVec 9) (x2 : BitVec 1) (hm : m < 128) (hc : c = m * 33554432) (hn : n = c + x0.toNat * 65536 + x1.toNat * 128 + x2.toNat) :
    n < 2 ^ 32 ∧ n / 33554432 = m ∧ n / 2 % 64 = 0 ∧ fld n 16 9 = x0 ∧ fld n 7 9 = x1 ∧ fld n 0 1 = x2 := by
  have := x0.isLt
  have := x1.isLt
  have := x2.isLt
  refine ⟨by omega, by omega, by omega, fld_of (by omega), fld_of (by omega), fld_of (by omega)⟩

/-- A word whose fields, as (lowest bit, width), are (16, 9), (5, 2). -/
theorem word57 {m e c n : Nat} (x0 : BitVec 9) (x1 : BitVec 2) (hm : m < 128) (he : e < 512) (hc : c = m * 33554432 + e * 128) (hn : n = c + x0.toNat * 65536 + x1.toNat * 32) :
    n < 2 ^ 32 ∧ n / 33554432 = m ∧ n / 128 % 512 = e ∧ n % 32 = 0 ∧ fld n 16 9 = x0 ∧ fld n 5 2 = x1 := by
  have := x0.isLt
  have := x1.isLt
  refine ⟨by omega, by omega, by omega, by omega, fld_of (by omega), fld_of (by omega)⟩

/-- A word whose fields, as (lowest bit, width), are (16, 9), (5, 2), (0, 1). -/
theorem word58 {m e c n : Nat} (x0 : BitVec 9) (x1 : BitVec 2) (x2 : BitVec 1) (hm : m < 128) (he : e < 512) (hc : c = m * 33554432 + e * 128) (hn : n = c + x0.toNat * 65536 + x1.toNat * 32 + x2.toNat) :
    n < 2 ^ 32 ∧ n / 33554432 = m ∧ n / 128 % 512 = e ∧ n / 2 % 16 = 0 ∧ fld n 16 9 = x0 ∧ fld n 5 2 = x1 ∧ fld n 0 1 = x2 := by
  have := x0.isLt
  have := x1.isLt
  have := x2.isLt
  refine ⟨by omega, by omega, by omega, by omega, fld_of (by omega), fld_of (by omega), fld_of (by omega)⟩

/-- A word whose fields, as (lowest bit, width), are (16, 9), (5, 2), (4, 1), (3, 1). -/
theorem word59 {m e c n : Nat} (x0 : BitVec 9) (x1 : BitVec 2) (x2 : BitVec 1) (x3 : BitVec 1) (hm : m < 128) (he : e < 512) (hc : c = m * 33554432 + e * 128) (hn : n = c + x0.toNat * 65536 + x1.toNat * 32 + x2.toNat * 16 + x3.toNat * 8) :
    n < 2 ^ 32 ∧ n / 33554432 = m ∧ n / 128 % 512 = e ∧ n % 8 = 0 ∧ fld n 16 9 = x0 ∧ fld n 5 2 = x1 ∧ fld n 4 1 = x2 ∧ fld n 3 1 = x3 := by
  have := x0.isLt
  have := x1.isLt
  have := x2.isLt
  have := x3.isLt
  refine ⟨by omega, by omega, by omega, by omega, fld_of (by omega), fld_of (by omega), fld_of (by omega), fld_of (by omega)⟩

/-- A word whose fields, as (lowest bit, width), are (16, 9), (5, 2), (0, 4). -/
theorem word60 {m e c n : Nat} (x0 : BitVec 9) (x1 : BitVec 2) (x2 : BitVec 4) (hm : m < 128) (he : e < 512) (hc : c = m * 33554432 + e * 128) (hn : n = c + x0.toNat * 65536 + x1.toNat * 32 + x2.toNat) :
    n < 2 ^ 32 ∧ n / 33554432 = m ∧ n / 128 % 512 = e ∧ n / 16 % 2 = 0 ∧ fld n 16 9 = x0 ∧ fld n 5 2 = x1 ∧ fld n 0 4 = x2 := by
  have := x0.isLt
  have := x1.isLt
  have := x2.isLt
  refine ⟨by omega, by omega, by omega, by omega, fld_of (by omega), fld_of (by omega), fld_of (by omega)⟩

/-- A word whose fields, as (lowest bit, width), are (16, 9), (5, 2), (0, 5). -/
theorem word61 {m e c n : Nat} (x0 : BitVec 9) (x1 : BitVec 2) (x2 : BitVec 5) (hm : m < 128) (he : e < 512) (hc : c = m * 33554432 + e * 128) (hn : n = c + x0.toNat * 65536 + x1.toNat * 32 + x2.toNat) :
    n < 2 ^ 32 ∧ n / 33554432 = m ∧ n / 128 % 512 = e ∧ fld n 16 9 = x0 ∧ fld n 5 2 = x1 ∧ fld n 0 5 = x2 := by
  have := x0.isLt
  have := x1.isLt
  have := x2.isLt
  refine ⟨by omega, by omega, by omega, fld_of (by omega), fld_of (by omega), fld_of (by omega)⟩

/-- A word whose fields, as (lowest bit, width), are (5, 2), (0, 3). -/
theorem word62 {m e c n : Nat} (x0 : BitVec 2) (x1 : BitVec 3) (hm : m < 128) (he : e < 512) (hc : c = m * 33554432 + e * 128) (hn : n = c + x0.toNat * 32 + x1.toNat) :
    n < 2 ^ 32 ∧ n / 33554432 = m ∧ n / 128 % 512 = e ∧ (n / 8 % 4 = 0 ∧ n / 65536 % 512 = 0) ∧ fld n 5 2 = x0 ∧ fld n 0 3 = x1 := by
  have := x0.isLt
  have := x1.isLt
  refine ⟨by omega, by omega, by omega, by omega, fld_of (by omega), fld_of (by omega)⟩

/-- A word whose fields, as (lowest bit, width), are (16, 9), (5, 2). -/
theorem word63 {m e c n : Nat} (x0 : BitVec 9) (x1 : BitVec 2) (hm : m < 128) (he : e < 512) (hc : c = m * 33554432 + e * 128 + 1) (hn : n = c + x0.toNat * 65536 + x1.toNat * 32) :
    n < 2 ^ 32 ∧ n / 33554432 = m ∧ n / 128 % 512 = e ∧ ¬(n % 32 = 0) ∧ n % 32 = 1 ∧ fld n 16 9 = x0 ∧ fld n 5 2 = x1 := by
  have := x0.isLt
  have := x1.isLt
  refine ⟨by omega, by omega, by omega, by omega, by omega, fld_of (by omega), fld_of (by omega)⟩

/-- A word whose fields, as (lowest bit, width), are (16, 9), (5, 2). -/
theorem word64 {m e c n : Nat} (x0 : BitVec 9) (x1 : BitVec 2) (hm : m < 128) (he : e < 512) (hc : c = m * 33554432 + e * 128 + 2) (hn : n = c + x0.toNat * 65536 + x1.toNat * 32) :
    n < 2 ^ 32 ∧ n / 33554432 = m ∧ n / 128 % 512 = e ∧ ¬(n % 32 = 0) ∧ ¬(n % 32 = 1) ∧ n % 32 = 2 ∧ fld n 16 9 = x0 ∧ fld n 5 2 = x1 := by
  have := x0.isLt
  have := x1.isLt
  refine ⟨by omega, by omega, by omega, by omega, by omega, by omega, fld_of (by omega), fld_of (by omega)⟩

/-- A word whose fields, as (lowest bit, width), are (16, 9), (5, 2), (4, 1), (2, 2), (0, 2). -/
theorem word65 {m e c n : Nat} (x0 : BitVec 9) (x1 : BitVec 2) (x2 : BitVec 1) (x3 : BitVec 2) (x4 : BitVec 2) (hm : m < 128) (he : e < 512) (hc : c = m * 33554432 + e * 128) (hn : n = c + x0.toNat * 65536 + x1.toNat * 32 + x2.toNat * 16 + x3.toNat * 4 + x4.toNat) :
    n < 2 ^ 32 ∧ n / 33554432 = m ∧ n / 128 % 512 = e ∧ fld n 16 9 = x0 ∧ fld n 5 2 = x1 ∧ fld n 4 1 = x2 ∧ fld n 2 2 = x3 ∧ fld n 0 2 = x4 := by
  have := x0.isLt
  have := x1.isLt
  have := x2.isLt
  have := x3.isLt
  have := x4.isLt
  refine ⟨by omega, by omega, by omega, fld_of (by omega), fld_of (by omega), fld_of (by omega), fld_of (by omega), fld_of (by omega)⟩

/-- A word whose fields, as (lowest bit, width), are (16, 9), (5, 2), (2, 2), (0, 2). -/
theorem word66 {m e c n : Nat} (x0 : BitVec 9) (x1 : BitVec 2) (x2 : BitVec 2) (x3 : BitVec 2) (hm : m < 128) (he : e < 512) (hc : c = m * 33554432 + e * 128) (hn : n = c + x0.toNat * 65536 + x1.toNat * 32 + x2.toNat * 4 + x3.toNat) :
    n < 2 ^ 32 ∧ n / 33554432 = m ∧ n / 128 % 512 = e ∧ n / 16 % 2 = 0 ∧ fld n 16 9 = x0 ∧ fld n 5 2 = x1 ∧ fld n 2 2 = x2 ∧ fld n 0 2 = x3 := by
  have := x0.isLt
  have := x1.isLt
  have := x2.isLt
  have := x3.isLt
  refine ⟨by omega, by omega, by omega, by omega, fld_of (by omega), fld_of (by omega), fld_of (by omega), fld_of (by omega)⟩

/-- A word whose fields, as (lowest bit, width), are (16, 9), (5, 2), (4, 1), (0, 4). -/
theorem word67 {m e c n : Nat} (x0 : BitVec 9) (x1 : BitVec 2) (x2 : BitVec 1) (x3 : BitVec 4) (hm : m < 128) (he : e < 512) (hc : c = m * 33554432 + e * 128) (hn : n = c + x0.toNat * 65536 + x1.toNat * 32 + x2.toNat * 16 + x3.toNat) :
    n < 2 ^ 32 ∧ n / 33554432 = m ∧ n / 128 % 512 = e ∧ fld n 16 9 = x0 ∧ fld n 5 2 = x1 ∧ fld n 4 1 = x2 ∧ fld n 0 4 = x3 := by
  have := x0.isLt
  have := x1.isLt
  have := x2.isLt
  have := x3.isLt
  refine ⟨by omega, by omega, by omega, fld_of (by omega), fld_of (by omega), fld_of (by omega), fld_of (by omega)⟩

/-- A word whose fields, as (lowest bit, width), are (16, 9), (5, 2), (0, 3). -/
theorem word68 {m e c n : Nat} (x0 : BitVec 9) (x1 : BitVec 2) (x2 : BitVec 3) (hm : m < 128) (he : e < 512) (hc : c = m * 33554432 + e * 128) (hn : n = c + x0.toNat * 65536 + x1.toNat * 32 + x2.toNat) :
    n < 2 ^ 32 ∧ n / 33554432 = m ∧ n / 128 % 512 = e ∧ n / 8 % 4 = 0 ∧ fld n 16 9 = x0 ∧ fld n 5 2 = x1 ∧ fld n 0 3 = x2 := by
  have := x0.isLt
  have := x1.isLt
  have := x2.isLt
  refine ⟨by omega, by omega, by omega, by omega, fld_of (by omega), fld_of (by omega), fld_of (by omega)⟩

/-- A word whose fields, as (lowest bit, width), are (16, 9), (5, 2), (3, 2), (0, 3). -/
theorem word69 {m e c n : Nat} (x0 : BitVec 9) (x1 : BitVec 2) (x2 : BitVec 2) (x3 : BitVec 3) (hm : m < 128) (he : e < 512) (hc : c = m * 33554432 + e * 128) (hn : n = c + x0.toNat * 65536 + x1.toNat * 32 + x2.toNat * 8 + x3.toNat) :
    n < 2 ^ 32 ∧ n / 33554432 = m ∧ n / 128 % 512 = e ∧ fld n 16 9 = x0 ∧ fld n 5 2 = x1 ∧ fld n 3 2 = x2 ∧ fld n 0 3 = x3 := by
  have := x0.isLt
  have := x1.isLt
  have := x2.isLt
  have := x3.isLt
  refine ⟨by omega, by omega, by omega, fld_of (by omega), fld_of (by omega), fld_of (by omega), fld_of (by omega)⟩

/-- A word whose fields, as (lowest bit, width), are (16, 9), (5, 2), (0, 2). -/
theorem word70 {m e c n : Nat} (x0 : BitVec 9) (x1 : BitVec 2) (x2 : BitVec 2) (hm : m < 128) (he : e < 512) (hc : c = m * 33554432 + e * 128) (hn : n = c + x0.toNat * 65536 + x1.toNat * 32 + x2.toNat) :
    n < 2 ^ 32 ∧ n / 33554432 = m ∧ n / 128 % 512 = e ∧ n / 4 % 8 = 0 ∧ fld n 16 9 = x0 ∧ fld n 5 2 = x1 ∧ fld n 0 2 = x2 := by
  have := x0.isLt
  have := x1.isLt
  have := x2.isLt
  refine ⟨by omega, by omega, by omega, by omega, fld_of (by omega), fld_of (by omega), fld_of (by omega)⟩

/-- A word whose fields, as (lowest bit, width), are (16, 9), (5, 2), (4, 1), (0, 1). -/
theorem word71 {m e c n : Nat} (x0 : BitVec 9) (x1 : BitVec 2) (x2 : BitVec 1) (x3 : BitVec 1) (hm : m < 128) (he : e < 512) (hc : c = m * 33554432 + e * 128) (hn : n = c + x0.toNat * 65536 + x1.toNat * 32 + x2.toNat * 16 + x3.toNat) :
    n < 2 ^ 32 ∧ n / 33554432 = m ∧ n / 128 % 512 = e ∧ n / 2 % 8 = 0 ∧ fld n 16 9 = x0 ∧ fld n 5 2 = x1 ∧ fld n 4 1 = x2 ∧ fld n 0 1 = x3 := by
  have := x0.isLt
  have := x1.isLt
  have := x2.isLt
  have := x3.isLt
  refine ⟨by omega, by omega, by omega, by omega, fld_of (by omega), fld_of (by omega), fld_of (by omega), fld_of (by omega)⟩

/-- A word whose fields, as (lowest bit, width), are (16, 9), (5, 2), (4, 1), (2, 1), (1, 1), (0, 1). -/
theorem word72 {m e c n : Nat} (x0 : BitVec 9) (x1 : BitVec 2) (x2 : BitVec 1) (x3 : BitVec 1) (x4 : BitVec 1) (x5 : BitVec 1) (hm : m < 128) (he : e < 512) (hc : c = m * 33554432 + e * 128) (hn : n = c + x0.toNat * 65536 + x1.toNat * 32 + x2.toNat * 16 + x3.toNat * 4 + x4.toNat * 2 + x5.toNat) :
    n < 2 ^ 32 ∧ n / 33554432 = m ∧ n / 128 % 512 = e ∧ n / 8 % 2 = 0 ∧ fld n 16 9 = x0 ∧ fld n 5 2 = x1 ∧ fld n 4 1 = x2 ∧ fld n 2 1 = x3 ∧ fld n 1 1 = x4 ∧ fld n 0 1 = x5 := by
  have := x0.isLt
  have := x1.isLt
  have := x2.isLt
  have := x3.isLt
  have := x4.isLt
  have := x5.isLt
  refine ⟨by omega, by omega, by omega, by omega, fld_of (by omega), fld_of (by omega), fld_of (by omega), fld_of (by omega), fld_of (by omega), fld_of (by omega)⟩

/-- A word whose fields, as (lowest bit, width), are (16, 9), (5, 2), (3, 1), (0, 3). -/
theorem word73 {m e c n : Nat} (x0 : BitVec 9) (x1 : BitVec 2) (x2 : BitVec 1) (x3 : BitVec 3) (hm : m < 128) (he : e < 512) (hc : c = m * 33554432 + e * 128) (hn : n = c + x0.toNat * 65536 + x1.toNat * 32 + x2.toNat * 8 + x3.toNat) :
    n < 2 ^ 32 ∧ n / 33554432 = m ∧ n / 128 % 512 = e ∧ n / 16 % 2 = 0 ∧ fld n 16 9 = x0 ∧ fld n 5 2 = x1 ∧ fld n 3 1 = x2 ∧ fld n 0 3 = x3 := by
  have := x0.isLt
  have := x1.isLt
  have := x2.isLt
  have := x3.isLt
  refine ⟨by omega, by omega, by omega, by omega, fld_of (by omega), fld_of (by omega), fld_of (by omega), fld_of (by omega)⟩

/-- A word whose fields, as (lowest bit, width), are (16, 9), (5, 2), (1, 1), (0, 1). -/
theorem word74 {m e c n : Nat} (x0 : BitVec 9) (x1 : BitVec 2) (x2 : BitVec 1) (x3 : BitVec 1) (hm : m < 128) (he : e < 512) (hc : c = m * 33554432 + e * 128) (hn : n = c + x0.toNat * 65536 + x1.toNat * 32 + x2.toNat * 2 + x3.toNat) :
    n < 2 ^ 32 ∧ n / 33554432 = m ∧ n / 128 % 512 = e ∧ n / 4 % 8 = 0 ∧ fld n 16 9 = x0 ∧ fld n 5 2 = x1 ∧ fld n 1 1 = x2 ∧ fld n 0 1 = x3 := by
  have := x0.isLt
  have := x1.isLt
  have := x2.isLt
  have := x3.isLt
  refine ⟨by omega, by omega, by omega, by omega, fld_of (by omega), fld_of (by omega), fld_of (by omega), fld_of (by omega)⟩

/-- A word whose fields, as (lowest bit, width), are (16, 9), (5, 2), (1, 1), (0, 1). -/
theorem word75 {m e c n : Nat} (x0 : BitVec 9) (x1 : BitVec 2) (x2 : BitVec 1) (x3 : BitVec 1) (hm : m < 128) (he : e < 512) (hc : c = m * 33554432 + e * 128 + 4) (hn : n = c + x0.toNat * 65536 + x1.toNat * 32 + x2.toNat * 2 + x3.toNat) :
    n < 2 ^ 32 ∧ n / 33554432 = m ∧ n / 128 % 512 = e ∧ ¬(n / 4 % 8 = 0) ∧ n / 4 % 8 = 1 ∧ fld n 16 9 = x0 ∧ fld n 5 2 = x1 ∧ fld n 1 1 = x2 ∧ fld n 0 1 = x3 := by
  have := x0.isLt
  have := x1.isLt
  have := x2.isLt
  have := x3.isLt
  refine ⟨by omega, by omega, by omega, by omega, by omega, fld_of (by omega), fld_of (by omega), fld_of (by omega), fld_of (by omega)⟩

/-- A word whose fields, as (lowest bit, width), are (5, 2). -/
theorem word76 {m e c n : Nat} (x0 : BitVec 2) (hm : m < 128) (he : e < 512) (hc : c = m * 33554432 + e * 128) (hn : n = c + x0.toNat * 32) :
    n < 2 ^ 32 ∧ n / 33554432 = m ∧ n / 128 % 512 = e ∧ (n % 32 = 0 ∧ n / 65536 % 512 = 0) ∧ fld n 5 2 = x0 := by
  have := x0.isLt
  refine ⟨by omega, by omega, by omega, by omega, fld_of (by omega)⟩

end Sys2Proof.Laws

namespace Sys2Proof.Laws.RoundTrip

/-- A well-formed instruction has an encoding, and the encoding decodes to it. -/
def Statement (i : Instr) : Prop := WellFormed i = true → ∃ w, encode i = some w ∧ decodeWord w = .ok i

/-- The encoding of an instruction is a word whose row is the instruction's. -/
theorem of_row {i : Instr} {n : Nat} (h : WellFormed i = true) (he : encode i = some (BitVec.ofNat 32 n)) (hn : n < 2 ^ 32)
    (hr : decodeRow n = some i) : ∃ w, encode i = some w ∧ decodeWord w = .ok i := by
  refine ⟨_, he, ?_⟩
  have hf : Machine.formError i = none := by
    simp only [WellFormed, Bool.and_eq_true, Option.isNone_iff_eq_none] at h
    exact h.2
  simp only [decodeWord, BitVec.toNat_ofNat, Nat.mod_eq_of_lt hn, hr, hf]

theorem get (t v : BitVec 9) (r : BitVec 7) : Statement (.get t v r) := by
  intro ok
  obtain ⟨wd, hn⟩ : ∃ wd, wd = 0x02000000 + t.toNat * 65536 + v.toNat * 128 + r.toNat := ⟨_, rfl⟩
  obtain ⟨h32, hm, hf0, hf1, hf2⟩ := word1 (m := 1) t v r (by decide) rfl hn
  refine of_row ok (congrArg (fun k => some (BitVec.ofNat 32 k)) hn.symm) h32 ?_
  unfold decodeRow
  rw [hm]
  change (some (Instr.get (fld wd 16 9) (fld wd 7 9) (fld wd 0 7)) : Option Instr) = some _
  rw [hf0, hf1, hf2]

theorem put (p : BitVec 2) (r : BitVec 7) : Statement (.put p r) := by
  intro ok
  obtain ⟨wd, hn⟩ : ∃ wd, wd = 0x04000000 + p.toNat * 128 + r.toNat := ⟨_, rfl⟩
  obtain ⟨h32, hm, hr, hf0, hf1⟩ := word2 (m := 2) p r (by decide) rfl hn
  refine of_row ok (congrArg (fun k => some (BitVec.ofNat 32 k)) hn.symm) h32 ?_
  unfold decodeRow
  rw [hm]
  change (if wd / 512 % 65536 = 0 then some (Instr.put (fld wd 7 2) (fld wd 0 7)) else none : Option Instr) = some _
  rw [if_pos hr, hf0, hf1]

theorem movi (t : BitVec 9) (p : BitVec 2) (i : BitVec 14) : Statement (.movi t p i) := by
  intro ok
  obtain ⟨wd, hn⟩ : ∃ wd, wd = 0x06000000 + t.toNat * 65536 + p.toNat * 16384 + i.toNat := ⟨_, rfl⟩
  obtain ⟨h32, hm, hf0, hf1, hf2⟩ := word3 (m := 3) t p i (by decide) rfl hn
  refine of_row ok (congrArg (fun k => some (BitVec.ofNat 32 k)) hn.symm) h32 ?_
  unfold decodeRow
  rw [hm]
  change (some (Instr.movi (fld wd 16 9) (fld wd 14 2) (fld wd 0 14)) : Option Instr) = some _
  rw [hf0, hf1, hf2]

theorem mov (t v : BitVec 9) (p : BitVec 2) : Statement (.mov t v p) := by
  intro ok
  obtain ⟨wd, hn⟩ : ∃ wd, wd = 0x08000000 + t.toNat * 65536 + v.toNat * 128 + p.toNat * 32 := ⟨_, rfl⟩
  obtain ⟨h32, hm, hr, hf0, hf1, hf2⟩ := word4 (m := 4) t v p (by decide) rfl hn
  refine of_row ok (congrArg (fun k => some (BitVec.ofNat 32 k)) hn.symm) h32 ?_
  unfold decodeRow
  rw [hm]
  change (if wd % 32 = 0 then some (Instr.mov (fld wd 16 9) (fld wd 7 9) (fld wd 5 2)) else none : Option Instr) = some _
  rw [if_pos hr, hf0, hf1, hf2]

theorem null (t : BitVec 9) (p : BitVec 2) : Statement (.null t p) := by
  intro ok
  obtain ⟨wd, hn⟩ : ∃ wd, wd = 0x0A000000 + t.toNat * 65536 + p.toNat * 16384 := ⟨_, rfl⟩
  obtain ⟨h32, hm, hr, hf0, hf1⟩ := word5 (m := 5) t p (by decide) rfl hn
  refine of_row ok (congrArg (fun k => some (BitVec.ofNat 32 k)) hn.symm) h32 ?_
  unfold decodeRow
  rw [hm]
  change (if wd % 16384 = 0 then some (Instr.null (fld wd 16 9) (fld wd 14 2)) else none : Option Instr) = some _
  rw [if_pos hr, hf0, hf1]

theorem recv (t : BitVec 9) (p : BitVec 2) (n : BitVec 6) : Statement (.recv t p n) := by
  intro ok
  obtain ⟨wd, hn⟩ : ∃ wd, wd = 0x0C000000 + t.toNat * 65536 + p.toNat * 16384 + n.toNat := ⟨_, rfl⟩
  obtain ⟨h32, hm, hr, hf0, hf1, hf2⟩ := word6 (m := 6) t p n (by decide) rfl hn
  refine of_row ok (congrArg (fun k => some (BitVec.ofNat 32 k)) hn.symm) h32 ?_
  unfold decodeRow
  rw [hm]
  change (if wd / 64 % 256 = 0 then some (Instr.recv (fld wd 16 9) (fld wd 14 2) (fld wd 0 6)) else none : Option Instr) = some _
  rw [if_pos hr, hf0, hf1, hf2]

theorem sel (t v : BitVec 9) : Statement (.sel t v) := by
  intro ok
  obtain ⟨wd, hn⟩ : ∃ wd, wd = 0x0E000000 + t.toNat * 65536 + v.toNat * 128 := ⟨_, rfl⟩
  obtain ⟨h32, hm, hr, hf0, hf1⟩ := word7 (m := 7) t v (by decide) rfl hn
  refine of_row ok (congrArg (fun k => some (BitVec.ofNat 32 k)) hn.symm) h32 ?_
  unfold decodeRow
  rw [hm]
  change (if wd % 128 = 0 then some (Instr.sel (fld wd 16 9) (fld wd 7 9)) else none : Option Instr) = some _
  rw [if_pos hr, hf0, hf1]

theorem gate (t v : BitVec 9) (p : BitVec 2) : Statement (.gate t v p) := by
  intro ok
  obtain ⟨wd, hn⟩ : ∃ wd, wd = 0x10000000 + t.toNat * 65536 + v.toNat * 128 + p.toNat * 32 := ⟨_, rfl⟩
  obtain ⟨h32, hm, hr, hf0, hf1, hf2⟩ := word4 (m := 8) t v p (by decide) rfl hn
  refine of_row ok (congrArg (fun k => some (BitVec.ofNat 32 k)) hn.symm) h32 ?_
  unfold decodeRow
  rw [hm]
  change (if wd % 32 = 0 then some (Instr.gate (fld wd 16 9) (fld wd 7 9) (fld wd 5 2)) else none : Option Instr) = some _
  rw [if_pos hr, hf0, hf1, hf2]

theorem bra (x : BitVec 3) (p : BitVec 2) (f : BitVec 20) : Statement (.bra x p f) := by
  intro ok
  obtain ⟨wd, hn⟩ : ∃ wd, wd = 0x12000000 + x.toNat * 4194304 + p.toNat * 1048576 + f.toNat := ⟨_, rfl⟩
  obtain ⟨h32, hm, hf0, hf1, hf2⟩ := word8 (m := 9) x p f (by decide) rfl hn
  refine of_row ok (congrArg (fun k => some (BitVec.ofNat 32 k)) hn.symm) h32 ?_
  unfold decodeRow
  rw [hm]
  change (some (Instr.bra (fld wd 22 3) (fld wd 20 2) (fld wd 0 20)) : Option Instr) = some _
  rw [hf0, hf1, hf2]

theorem bri (x : BitVec 3) (p : BitVec 2) (f : BitVec 20) : Statement (.bri x p f) := by
  intro ok
  obtain ⟨wd, hn⟩ : ∃ wd, wd = 0x14000000 + x.toNat * 4194304 + p.toNat * 1048576 + f.toNat := ⟨_, rfl⟩
  obtain ⟨h32, hm, hf0, hf1, hf2⟩ := word8 (m := 10) x p f (by decide) rfl hn
  refine of_row ok (congrArg (fun k => some (BitVec.ofNat 32 k)) hn.symm) h32 ?_
  unfold decodeRow
  rw [hm]
  change (some (Instr.bri (fld wd 22 3) (fld wd 20 2) (fld wd 0 20)) : Option Instr) = some _
  rw [hf0, hf1, hf2]

theorem call (x : BitVec 3) (p : BitVec 2) (f : BitVec 20) : Statement (.call x p f) := by
  intro ok
  obtain ⟨wd, hn⟩ : ∃ wd, wd = 0x16000000 + x.toNat * 4194304 + p.toNat * 1048576 + f.toNat := ⟨_, rfl⟩
  obtain ⟨h32, hm, hf0, hf1, hf2⟩ := word8 (m := 11) x p f (by decide) rfl hn
  refine of_row ok (congrArg (fun k => some (BitVec.ofNat 32 k)) hn.symm) h32 ?_
  unfold decodeRow
  rw [hm]
  change (some (Instr.call (fld wd 22 3) (fld wd 20 2) (fld wd 0 20)) : Option Instr) = some _
  rw [hf0, hf1, hf2]

theorem ret (x : BitVec 3) (p : BitVec 2) (f : BitVec 20) : Statement (.ret x p f) := by
  intro ok
  obtain ⟨wd, hn⟩ : ∃ wd, wd = 0x18000000 + x.toNat * 4194304 + p.toNat * 1048576 + f.toNat := ⟨_, rfl⟩
  obtain ⟨h32, hm, hf0, hf1, hf2⟩ := word8 (m := 12) x p f (by decide) rfl hn
  refine of_row ok (congrArg (fun k => some (BitVec.ofNat 32 k)) hn.symm) h32 ?_
  unfold decodeRow
  rw [hm]
  change (some (Instr.ret (fld wd 22 3) (fld wd 20 2) (fld wd 0 20)) : Option Instr) = some _
  rw [hf0, hf1, hf2]

theorem exit (x : BitVec 3) (p : BitVec 2) (f : BitVec 20) : Statement (.exit x p f) := by
  intro ok
  obtain ⟨wd, hn⟩ : ∃ wd, wd = 0x1A000000 + x.toNat * 4194304 + p.toNat * 1048576 + f.toNat := ⟨_, rfl⟩
  obtain ⟨h32, hm, hf0, hf1, hf2⟩ := word8 (m := 13) x p f (by decide) rfl hn
  refine of_row ok (congrArg (fun k => some (BitVec.ofNat 32 k)) hn.symm) h32 ?_
  unfold decodeRow
  rw [hm]
  change (some (Instr.exit (fld wd 22 3) (fld wd 20 2) (fld wd 0 20)) : Option Instr) = some _
  rw [hf0, hf1, hf2]

theorem ctr (t v : BitVec 9) (a s : BitVec 1) : Statement (.ctr t v a s) := by
  intro ok
  obtain ⟨wd, hn⟩ : ∃ wd, wd = 0x1C000000 + t.toNat * 65536 + v.toNat * 128 + a.toNat * 2 + s.toNat := ⟨_, rfl⟩
  obtain ⟨h32, hm, hr, hf0, hf1, hf2, hf3⟩ := word9 (m := 14) t v a s (by decide) rfl hn
  refine of_row ok (congrArg (fun k => some (BitVec.ofNat 32 k)) hn.symm) h32 ?_
  unfold decodeRow
  rw [hm]
  change (if wd / 4 % 32 = 0 then some (Instr.ctr (fld wd 16 9) (fld wd 7 9) (fld wd 1 1) (fld wd 0 1)) else none : Option Instr) = some _
  rw [if_pos hr, hf0, hf1, hf2, hf3]

theorem movx (t : BitVec 9) (p : BitVec 2) (i : BitVec 14) : Statement (.movx t p i) := by
  intro ok
  obtain ⟨wd, hn⟩ : ∃ wd, wd = 0x1E000000 + t.toNat * 65536 + p.toNat * 16384 + i.toNat := ⟨_, rfl⟩
  obtain ⟨h32, hm, hf0, hf1, hf2⟩ := word3 (m := 15) t p i (by decide) rfl hn
  refine of_row ok (congrArg (fun k => some (BitVec.ofNat 32 k)) hn.symm) h32 ?_
  unfold decodeRow
  rw [hm]
  change (some (Instr.movx (fld wd 16 9) (fld wd 14 2) (fld wd 0 14)) : Option Instr) = some _
  rw [hf0, hf1, hf2]

theorem add (t v : BitVec 9) (p w : BitVec 2) (u : BitVec 1) : Statement (.add t v p w u) := by
  intro ok
  obtain ⟨wd, hn⟩ : ∃ wd, wd = 0x20000000 + t.toNat * 65536 + v.toNat * 128 + p.toNat * 32 + w.toNat * 8 + u.toNat * 4 := ⟨_, rfl⟩
  obtain ⟨h32, hm, hr, hf0, hf1, hf2, hf3, hf4⟩ := word10 (m := 16) t v p w u (by decide) rfl hn
  refine of_row ok (congrArg (fun k => some (BitVec.ofNat 32 k)) hn.symm) h32 ?_
  unfold decodeRow
  rw [hm]
  change (if wd % 4 = 0 then some (Instr.add (fld wd 16 9) (fld wd 7 9) (fld wd 5 2) (fld wd 3 2) (fld wd 2 1)) else none : Option Instr) = some _
  rw [if_pos hr, hf0, hf1, hf2, hf3, hf4]

theorem sub (t v : BitVec 9) (p w : BitVec 2) (u : BitVec 1) : Statement (.sub t v p w u) := by
  intro ok
  obtain ⟨wd, hn⟩ : ∃ wd, wd = 0x22000000 + t.toNat * 65536 + v.toNat * 128 + p.toNat * 32 + w.toNat * 8 + u.toNat * 4 := ⟨_, rfl⟩
  obtain ⟨h32, hm, hr, hf0, hf1, hf2, hf3, hf4⟩ := word10 (m := 17) t v p w u (by decide) rfl hn
  refine of_row ok (congrArg (fun k => some (BitVec.ofNat 32 k)) hn.symm) h32 ?_
  unfold decodeRow
  rw [hm]
  change (if wd % 4 = 0 then some (Instr.sub (fld wd 16 9) (fld wd 7 9) (fld wd 5 2) (fld wd 3 2) (fld wd 2 1)) else none : Option Instr) = some _
  rw [if_pos hr, hf0, hf1, hf2, hf3, hf4]

theorem addi (t : BitVec 9) (p : BitVec 2) (i : BitVec 14) : Statement (.addi t p i) := by
  intro ok
  obtain ⟨wd, hn⟩ : ∃ wd, wd = 0x24000000 + t.toNat * 65536 + p.toNat * 16384 + i.toNat := ⟨_, rfl⟩
  obtain ⟨h32, hm, hf0, hf1, hf2⟩ := word3 (m := 18) t p i (by decide) rfl hn
  refine of_row ok (congrArg (fun k => some (BitVec.ofNat 32 k)) hn.symm) h32 ?_
  unfold decodeRow
  rw [hm]
  change (some (Instr.addi (fld wd 16 9) (fld wd 14 2) (fld wd 0 14)) : Option Instr) = some _
  rw [hf0, hf1, hf2]

theorem mul (t v : BitVec 9) (p w : BitVec 2) (u : BitVec 1) : Statement (.mul t v p w u) := by
  intro ok
  obtain ⟨wd, hn⟩ : ∃ wd, wd = 0x26000000 + t.toNat * 65536 + v.toNat * 128 + p.toNat * 32 + w.toNat * 8 + u.toNat * 4 := ⟨_, rfl⟩
  obtain ⟨h32, hm, hr, hf0, hf1, hf2, hf3, hf4⟩ := word10 (m := 19) t v p w u (by decide) rfl hn
  refine of_row ok (congrArg (fun k => some (BitVec.ofNat 32 k)) hn.symm) h32 ?_
  unfold decodeRow
  rw [hm]
  change (if wd % 4 = 0 then some (Instr.mul (fld wd 16 9) (fld wd 7 9) (fld wd 5 2) (fld wd 3 2) (fld wd 2 1)) else none : Option Instr) = some _
  rw [if_pos hr, hf0, hf1, hf2, hf3, hf4]

theorem mulh (t v : BitVec 9) (p w : BitVec 2) (u : BitVec 1) : Statement (.mulh t v p w u) := by
  intro ok
  obtain ⟨wd, hn⟩ : ∃ wd, wd = 0x28000000 + t.toNat * 65536 + v.toNat * 128 + p.toNat * 32 + w.toNat * 8 + u.toNat * 4 := ⟨_, rfl⟩
  obtain ⟨h32, hm, hr, hf0, hf1, hf2, hf3, hf4⟩ := word10 (m := 20) t v p w u (by decide) rfl hn
  refine of_row ok (congrArg (fun k => some (BitVec.ofNat 32 k)) hn.symm) h32 ?_
  unfold decodeRow
  rw [hm]
  change (if wd % 4 = 0 then some (Instr.mulh (fld wd 16 9) (fld wd 7 9) (fld wd 5 2) (fld wd 3 2) (fld wd 2 1)) else none : Option Instr) = some _
  rw [if_pos hr, hf0, hf1, hf2, hf3, hf4]

theorem div (t v : BitVec 9) (p w : BitVec 2) (u s : BitVec 1) : Statement (.div t v p w u s) := by
  intro ok
  obtain ⟨wd, hn⟩ : ∃ wd, wd = 0x2A000000 + t.toNat * 65536 + v.toNat * 128 + p.toNat * 32 + w.toNat * 8 + u.toNat * 4 + s.toNat := ⟨_, rfl⟩
  obtain ⟨h32, hm, hr, hf0, hf1, hf2, hf3, hf4, hf5⟩ := word11 (m := 21) t v p w u s (by decide) rfl hn
  refine of_row ok (congrArg (fun k => some (BitVec.ofNat 32 k)) hn.symm) h32 ?_
  unfold decodeRow
  rw [hm]
  change (if wd / 2 % 2 = 0 then some (Instr.div (fld wd 16 9) (fld wd 7 9) (fld wd 5 2) (fld wd 3 2) (fld wd 2 1) (fld wd 0 1)) else none : Option Instr) = some _
  rw [if_pos hr, hf0, hf1, hf2, hf3, hf4, hf5]

theorem rem (t v : BitVec 9) (p w : BitVec 2) (u s : BitVec 1) : Statement (.rem t v p w u s) := by
  intro ok
  obtain ⟨wd, hn⟩ : ∃ wd, wd = 0x2C000000 + t.toNat * 65536 + v.toNat * 128 + p.toNat * 32 + w.toNat * 8 + u.toNat * 4 + s.toNat := ⟨_, rfl⟩
  obtain ⟨h32, hm, hr, hf0, hf1, hf2, hf3, hf4, hf5⟩ := word11 (m := 22) t v p w u s (by decide) rfl hn
  refine of_row ok (congrArg (fun k => some (BitVec.ofNat 32 k)) hn.symm) h32 ?_
  unfold decodeRow
  rw [hm]
  change (if wd / 2 % 2 = 0 then some (Instr.rem (fld wd 16 9) (fld wd 7 9) (fld wd 5 2) (fld wd 3 2) (fld wd 2 1) (fld wd 0 1)) else none : Option Instr) = some _
  rw [if_pos hr, hf0, hf1, hf2, hf3, hf4, hf5]

theorem neg (t v : BitVec 9) (p w : BitVec 2) (u : BitVec 1) : Statement (.neg t v p w u) := by
  intro ok
  obtain ⟨wd, hn⟩ : ∃ wd, wd = 0x2E000000 + t.toNat * 65536 + v.toNat * 128 + p.toNat * 32 + w.toNat * 8 + u.toNat * 4 := ⟨_, rfl⟩
  obtain ⟨h32, hm, hr, hf0, hf1, hf2, hf3, hf4⟩ := word10 (m := 23) t v p w u (by decide) rfl hn
  refine of_row ok (congrArg (fun k => some (BitVec.ofNat 32 k)) hn.symm) h32 ?_
  unfold decodeRow
  rw [hm]
  change (if wd % 4 = 0 then some (Instr.neg (fld wd 16 9) (fld wd 7 9) (fld wd 5 2) (fld wd 3 2) (fld wd 2 1)) else none : Option Instr) = some _
  rw [if_pos hr, hf0, hf1, hf2, hf3, hf4]

theorem and (t v : BitVec 9) (p w : BitVec 2) (u : BitVec 1) : Statement (.and t v p w u) := by
  intro ok
  obtain ⟨wd, hn⟩ : ∃ wd, wd = 0x30000000 + t.toNat * 65536 + v.toNat * 128 + p.toNat * 32 + w.toNat * 8 + u.toNat * 4 := ⟨_, rfl⟩
  obtain ⟨h32, hm, hr, hf0, hf1, hf2, hf3, hf4⟩ := word10 (m := 24) t v p w u (by decide) rfl hn
  refine of_row ok (congrArg (fun k => some (BitVec.ofNat 32 k)) hn.symm) h32 ?_
  unfold decodeRow
  rw [hm]
  change (if wd % 4 = 0 then some (Instr.and (fld wd 16 9) (fld wd 7 9) (fld wd 5 2) (fld wd 3 2) (fld wd 2 1)) else none : Option Instr) = some _
  rw [if_pos hr, hf0, hf1, hf2, hf3, hf4]

theorem or (t v : BitVec 9) (p w : BitVec 2) (u : BitVec 1) : Statement (.or t v p w u) := by
  intro ok
  obtain ⟨wd, hn⟩ : ∃ wd, wd = 0x32000000 + t.toNat * 65536 + v.toNat * 128 + p.toNat * 32 + w.toNat * 8 + u.toNat * 4 := ⟨_, rfl⟩
  obtain ⟨h32, hm, hr, hf0, hf1, hf2, hf3, hf4⟩ := word10 (m := 25) t v p w u (by decide) rfl hn
  refine of_row ok (congrArg (fun k => some (BitVec.ofNat 32 k)) hn.symm) h32 ?_
  unfold decodeRow
  rw [hm]
  change (if wd % 4 = 0 then some (Instr.or (fld wd 16 9) (fld wd 7 9) (fld wd 5 2) (fld wd 3 2) (fld wd 2 1)) else none : Option Instr) = some _
  rw [if_pos hr, hf0, hf1, hf2, hf3, hf4]

theorem xor (t v : BitVec 9) (p w : BitVec 2) (u : BitVec 1) : Statement (.xor t v p w u) := by
  intro ok
  obtain ⟨wd, hn⟩ : ∃ wd, wd = 0x34000000 + t.toNat * 65536 + v.toNat * 128 + p.toNat * 32 + w.toNat * 8 + u.toNat * 4 := ⟨_, rfl⟩
  obtain ⟨h32, hm, hr, hf0, hf1, hf2, hf3, hf4⟩ := word10 (m := 26) t v p w u (by decide) rfl hn
  refine of_row ok (congrArg (fun k => some (BitVec.ofNat 32 k)) hn.symm) h32 ?_
  unfold decodeRow
  rw [hm]
  change (if wd % 4 = 0 then some (Instr.xor (fld wd 16 9) (fld wd 7 9) (fld wd 5 2) (fld wd 3 2) (fld wd 2 1)) else none : Option Instr) = some _
  rw [if_pos hr, hf0, hf1, hf2, hf3, hf4]

theorem andn (t v : BitVec 9) (p w : BitVec 2) (u : BitVec 1) : Statement (.andn t v p w u) := by
  intro ok
  obtain ⟨wd, hn⟩ : ∃ wd, wd = 0x36000000 + t.toNat * 65536 + v.toNat * 128 + p.toNat * 32 + w.toNat * 8 + u.toNat * 4 := ⟨_, rfl⟩
  obtain ⟨h32, hm, hr, hf0, hf1, hf2, hf3, hf4⟩ := word10 (m := 27) t v p w u (by decide) rfl hn
  refine of_row ok (congrArg (fun k => some (BitVec.ofNat 32 k)) hn.symm) h32 ?_
  unfold decodeRow
  rw [hm]
  change (if wd % 4 = 0 then some (Instr.andn (fld wd 16 9) (fld wd 7 9) (fld wd 5 2) (fld wd 3 2) (fld wd 2 1)) else none : Option Instr) = some _
  rw [if_pos hr, hf0, hf1, hf2, hf3, hf4]

theorem andi (t : BitVec 9) (p : BitVec 2) (i : BitVec 14) : Statement (.andi t p i) := by
  intro ok
  obtain ⟨wd, hn⟩ : ∃ wd, wd = 0x38000000 + t.toNat * 65536 + p.toNat * 16384 + i.toNat := ⟨_, rfl⟩
  obtain ⟨h32, hm, hf0, hf1, hf2⟩ := word3 (m := 28) t p i (by decide) rfl hn
  refine of_row ok (congrArg (fun k => some (BitVec.ofNat 32 k)) hn.symm) h32 ?_
  unfold decodeRow
  rw [hm]
  change (some (Instr.andi (fld wd 16 9) (fld wd 14 2) (fld wd 0 14)) : Option Instr) = some _
  rw [hf0, hf1, hf2]

theorem ori (t : BitVec 9) (p : BitVec 2) (i : BitVec 14) : Statement (.ori t p i) := by
  intro ok
  obtain ⟨wd, hn⟩ : ∃ wd, wd = 0x3A000000 + t.toNat * 65536 + p.toNat * 16384 + i.toNat := ⟨_, rfl⟩
  obtain ⟨h32, hm, hf0, hf1, hf2⟩ := word3 (m := 29) t p i (by decide) rfl hn
  refine of_row ok (congrArg (fun k => some (BitVec.ofNat 32 k)) hn.symm) h32 ?_
  unfold decodeRow
  rw [hm]
  change (some (Instr.ori (fld wd 16 9) (fld wd 14 2) (fld wd 0 14)) : Option Instr) = some _
  rw [hf0, hf1, hf2]

theorem xori (t : BitVec 9) (p : BitVec 2) (i : BitVec 14) : Statement (.xori t p i) := by
  intro ok
  obtain ⟨wd, hn⟩ : ∃ wd, wd = 0x3C000000 + t.toNat * 65536 + p.toNat * 16384 + i.toNat := ⟨_, rfl⟩
  obtain ⟨h32, hm, hf0, hf1, hf2⟩ := word3 (m := 30) t p i (by decide) rfl hn
  refine of_row ok (congrArg (fun k => some (BitVec.ofNat 32 k)) hn.symm) h32 ?_
  unfold decodeRow
  rw [hm]
  change (some (Instr.xori (fld wd 16 9) (fld wd 14 2) (fld wd 0 14)) : Option Instr) = some _
  rw [hf0, hf1, hf2]

theorem not (t v : BitVec 9) (p w : BitVec 2) (u : BitVec 1) : Statement (.not t v p w u) := by
  intro ok
  obtain ⟨wd, hn⟩ : ∃ wd, wd = 0x3E000000 + t.toNat * 65536 + v.toNat * 128 + p.toNat * 32 + w.toNat * 8 + u.toNat * 4 := ⟨_, rfl⟩
  obtain ⟨h32, hm, hr, hf0, hf1, hf2, hf3, hf4⟩ := word10 (m := 31) t v p w u (by decide) rfl hn
  refine of_row ok (congrArg (fun k => some (BitVec.ofNat 32 k)) hn.symm) h32 ?_
  unfold decodeRow
  rw [hm]
  change (if wd % 4 = 0 then some (Instr.not (fld wd 16 9) (fld wd 7 9) (fld wd 5 2) (fld wd 3 2) (fld wd 2 1)) else none : Option Instr) = some _
  rw [if_pos hr, hf0, hf1, hf2, hf3, hf4]

theorem shl (t v : BitVec 9) (p w : BitVec 2) (u : BitVec 1) : Statement (.shl t v p w u) := by
  intro ok
  obtain ⟨wd, hn⟩ : ∃ wd, wd = 0x40000000 + t.toNat * 65536 + v.toNat * 128 + p.toNat * 32 + w.toNat * 8 + u.toNat * 4 := ⟨_, rfl⟩
  obtain ⟨h32, hm, hr, hf0, hf1, hf2, hf3, hf4⟩ := word10 (m := 32) t v p w u (by decide) rfl hn
  refine of_row ok (congrArg (fun k => some (BitVec.ofNat 32 k)) hn.symm) h32 ?_
  unfold decodeRow
  rw [hm]
  change (if wd % 4 = 0 then some (Instr.shl (fld wd 16 9) (fld wd 7 9) (fld wd 5 2) (fld wd 3 2) (fld wd 2 1)) else none : Option Instr) = some _
  rw [if_pos hr, hf0, hf1, hf2, hf3, hf4]

theorem shr (t v : BitVec 9) (p w : BitVec 2) (u : BitVec 1) : Statement (.shr t v p w u) := by
  intro ok
  obtain ⟨wd, hn⟩ : ∃ wd, wd = 0x42000000 + t.toNat * 65536 + v.toNat * 128 + p.toNat * 32 + w.toNat * 8 + u.toNat * 4 := ⟨_, rfl⟩
  obtain ⟨h32, hm, hr, hf0, hf1, hf2, hf3, hf4⟩ := word10 (m := 33) t v p w u (by decide) rfl hn
  refine of_row ok (congrArg (fun k => some (BitVec.ofNat 32 k)) hn.symm) h32 ?_
  unfold decodeRow
  rw [hm]
  change (if wd % 4 = 0 then some (Instr.shr (fld wd 16 9) (fld wd 7 9) (fld wd 5 2) (fld wd 3 2) (fld wd 2 1)) else none : Option Instr) = some _
  rw [if_pos hr, hf0, hf1, hf2, hf3, hf4]

theorem asr (t v : BitVec 9) (p w : BitVec 2) (u : BitVec 1) : Statement (.asr t v p w u) := by
  intro ok
  obtain ⟨wd, hn⟩ : ∃ wd, wd = 0x44000000 + t.toNat * 65536 + v.toNat * 128 + p.toNat * 32 + w.toNat * 8 + u.toNat * 4 := ⟨_, rfl⟩
  obtain ⟨h32, hm, hr, hf0, hf1, hf2, hf3, hf4⟩ := word10 (m := 34) t v p w u (by decide) rfl hn
  refine of_row ok (congrArg (fun k => some (BitVec.ofNat 32 k)) hn.symm) h32 ?_
  unfold decodeRow
  rw [hm]
  change (if wd % 4 = 0 then some (Instr.asr (fld wd 16 9) (fld wd 7 9) (fld wd 5 2) (fld wd 3 2) (fld wd 2 1)) else none : Option Instr) = some _
  rw [if_pos hr, hf0, hf1, hf2, hf3, hf4]

theorem shli (t : BitVec 9) (p : BitVec 2) (u : BitVec 1) (w : BitVec 2) (n : BitVec 6) : Statement (.shli t p u w n) := by
  intro ok
  obtain ⟨wd, hn⟩ : ∃ wd, wd = 0x46000000 + t.toNat * 65536 + p.toNat * 16384 + u.toNat * 256 + w.toNat * 64 + n.toNat := ⟨_, rfl⟩
  obtain ⟨h32, hm, hr, hf0, hf1, hf2, hf3, hf4⟩ := word12 (m := 35) t p u w n (by decide) rfl hn
  refine of_row ok (congrArg (fun k => some (BitVec.ofNat 32 k)) hn.symm) h32 ?_
  unfold decodeRow
  rw [hm]
  change (if wd / 512 % 32 = 0 then some (Instr.shli (fld wd 16 9) (fld wd 14 2) (fld wd 8 1) (fld wd 6 2) (fld wd 0 6)) else none : Option Instr) = some _
  rw [if_pos hr, hf0, hf1, hf2, hf3, hf4]

theorem shri (t : BitVec 9) (p : BitVec 2) (u : BitVec 1) (w : BitVec 2) (n : BitVec 6) : Statement (.shri t p u w n) := by
  intro ok
  obtain ⟨wd, hn⟩ : ∃ wd, wd = 0x48000000 + t.toNat * 65536 + p.toNat * 16384 + u.toNat * 256 + w.toNat * 64 + n.toNat := ⟨_, rfl⟩
  obtain ⟨h32, hm, hr, hf0, hf1, hf2, hf3, hf4⟩ := word12 (m := 36) t p u w n (by decide) rfl hn
  refine of_row ok (congrArg (fun k => some (BitVec.ofNat 32 k)) hn.symm) h32 ?_
  unfold decodeRow
  rw [hm]
  change (if wd / 512 % 32 = 0 then some (Instr.shri (fld wd 16 9) (fld wd 14 2) (fld wd 8 1) (fld wd 6 2) (fld wd 0 6)) else none : Option Instr) = some _
  rw [if_pos hr, hf0, hf1, hf2, hf3, hf4]

theorem asri (t : BitVec 9) (p : BitVec 2) (u : BitVec 1) (w : BitVec 2) (n : BitVec 6) : Statement (.asri t p u w n) := by
  intro ok
  obtain ⟨wd, hn⟩ : ∃ wd, wd = 0x4A000000 + t.toNat * 65536 + p.toNat * 16384 + u.toNat * 256 + w.toNat * 64 + n.toNat := ⟨_, rfl⟩
  obtain ⟨h32, hm, hr, hf0, hf1, hf2, hf3, hf4⟩ := word12 (m := 37) t p u w n (by decide) rfl hn
  refine of_row ok (congrArg (fun k => some (BitVec.ofNat 32 k)) hn.symm) h32 ?_
  unfold decodeRow
  rw [hm]
  change (if wd / 512 % 32 = 0 then some (Instr.asri (fld wd 16 9) (fld wd 14 2) (fld wd 8 1) (fld wd 6 2) (fld wd 0 6)) else none : Option Instr) = some _
  rw [if_pos hr, hf0, hf1, hf2, hf3, hf4]

theorem clz (t v : BitVec 9) (p w : BitVec 2) (u : BitVec 1) : Statement (.clz t v p w u) := by
  intro ok
  obtain ⟨wd, hn⟩ : ∃ wd, wd = 0x4C000000 + t.toNat * 65536 + v.toNat * 128 + p.toNat * 32 + w.toNat * 8 + u.toNat * 4 := ⟨_, rfl⟩
  obtain ⟨h32, hm, hr, hf0, hf1, hf2, hf3, hf4⟩ := word10 (m := 38) t v p w u (by decide) rfl hn
  refine of_row ok (congrArg (fun k => some (BitVec.ofNat 32 k)) hn.symm) h32 ?_
  unfold decodeRow
  rw [hm]
  change (if wd % 4 = 0 then some (Instr.clz (fld wd 16 9) (fld wd 7 9) (fld wd 5 2) (fld wd 3 2) (fld wd 2 1)) else none : Option Instr) = some _
  rw [if_pos hr, hf0, hf1, hf2, hf3, hf4]

theorem popc (t v : BitVec 9) (p w : BitVec 2) (u : BitVec 1) : Statement (.popc t v p w u) := by
  intro ok
  obtain ⟨wd, hn⟩ : ∃ wd, wd = 0x4E000000 + t.toNat * 65536 + v.toNat * 128 + p.toNat * 32 + w.toNat * 8 + u.toNat * 4 := ⟨_, rfl⟩
  obtain ⟨h32, hm, hr, hf0, hf1, hf2, hf3, hf4⟩ := word10 (m := 39) t v p w u (by decide) rfl hn
  refine of_row ok (congrArg (fun k => some (BitVec.ofNat 32 k)) hn.symm) h32 ?_
  unfold decodeRow
  rw [hm]
  change (if wd % 4 = 0 then some (Instr.popc (fld wd 16 9) (fld wd 7 9) (fld wd 5 2) (fld wd 3 2) (fld wd 2 1)) else none : Option Instr) = some _
  rw [if_pos hr, hf0, hf1, hf2, hf3, hf4]

theorem cmp (t v : BitVec 9) (p w : BitVec 2) (u : BitVec 1) (f : BitVec 2) : Statement (.cmp t v p w u f) := by
  intro ok
  obtain ⟨wd, hn⟩ : ∃ wd, wd = 0x50000000 + t.toNat * 65536 + v.toNat * 128 + p.toNat * 32 + w.toNat * 8 + u.toNat * 4 + f.toNat := ⟨_, rfl⟩
  obtain ⟨h32, hm, hf0, hf1, hf2, hf3, hf4, hf5⟩ := word13 (m := 40) t v p w u f (by decide) rfl hn
  refine of_row ok (congrArg (fun k => some (BitVec.ofNat 32 k)) hn.symm) h32 ?_
  unfold decodeRow
  rw [hm]
  change (some (Instr.cmp (fld wd 16 9) (fld wd 7 9) (fld wd 5 2) (fld wd 3 2) (fld wd 2 1) (fld wd 0 2)) : Option Instr) = some _
  rw [hf0, hf1, hf2, hf3, hf4, hf5]

theorem min (t v : BitVec 9) (p w : BitVec 2) (u : BitVec 1) : Statement (.min t v p w u) := by
  intro ok
  obtain ⟨wd, hn⟩ : ∃ wd, wd = 0x52000000 + t.toNat * 65536 + v.toNat * 128 + p.toNat * 32 + w.toNat * 8 + u.toNat * 4 := ⟨_, rfl⟩
  obtain ⟨h32, hm, hr, hf0, hf1, hf2, hf3, hf4⟩ := word10 (m := 41) t v p w u (by decide) rfl hn
  refine of_row ok (congrArg (fun k => some (BitVec.ofNat 32 k)) hn.symm) h32 ?_
  unfold decodeRow
  rw [hm]
  change (if wd % 4 = 0 then some (Instr.min (fld wd 16 9) (fld wd 7 9) (fld wd 5 2) (fld wd 3 2) (fld wd 2 1)) else none : Option Instr) = some _
  rw [if_pos hr, hf0, hf1, hf2, hf3, hf4]

theorem max (t v : BitVec 9) (p w : BitVec 2) (u : BitVec 1) : Statement (.max t v p w u) := by
  intro ok
  obtain ⟨wd, hn⟩ : ∃ wd, wd = 0x54000000 + t.toNat * 65536 + v.toNat * 128 + p.toNat * 32 + w.toNat * 8 + u.toNat * 4 := ⟨_, rfl⟩
  obtain ⟨h32, hm, hr, hf0, hf1, hf2, hf3, hf4⟩ := word10 (m := 42) t v p w u (by decide) rfl hn
  refine of_row ok (congrArg (fun k => some (BitVec.ofNat 32 k)) hn.symm) h32 ?_
  unfold decodeRow
  rw [hm]
  change (if wd % 4 = 0 then some (Instr.max (fld wd 16 9) (fld wd 7 9) (fld wd 5 2) (fld wd 3 2) (fld wd 2 1)) else none : Option Instr) = some _
  rw [if_pos hr, hf0, hf1, hf2, hf3, hf4]

theorem bfx (t v : BitVec 9) (p : BitVec 2) (u : BitVec 1) : Statement (.bfx t v p u) := by
  intro ok
  obtain ⟨wd, hn⟩ : ∃ wd, wd = 0x56000000 + t.toNat * 65536 + v.toNat * 128 + p.toNat * 32 + u.toNat * 4 := ⟨_, rfl⟩
  obtain ⟨h32, hm, hr, hf0, hf1, hf2, hf3⟩ := word14 (m := 43) t v p u (by decide) rfl hn
  refine of_row ok (congrArg (fun k => some (BitVec.ofNat 32 k)) hn.symm) h32 ?_
  unfold decodeRow
  rw [hm]
  change (if wd % 4 = 0 ∧ wd / 8 % 4 = 0 then some (Instr.bfx (fld wd 16 9) (fld wd 7 9) (fld wd 5 2) (fld wd 2 1)) else none : Option Instr) = some _
  rw [if_pos hr, hf0, hf1, hf2, hf3]

theorem bfi (t v : BitVec 9) : Statement (.bfi t v) := by
  intro ok
  obtain ⟨wd, hn⟩ : ∃ wd, wd = 0x58000000 + t.toNat * 65536 + v.toNat * 128 := ⟨_, rfl⟩
  obtain ⟨h32, hm, hr, hf0, hf1⟩ := word7 (m := 44) t v (by decide) rfl hn
  refine of_row ok (congrArg (fun k => some (BitVec.ofNat 32 k)) hn.symm) h32 ?_
  unfold decodeRow
  rw [hm]
  change (if wd % 128 = 0 then some (Instr.bfi (fld wd 16 9) (fld wd 7 9)) else none : Option Instr) = some _
  rw [if_pos hr, hf0, hf1]

theorem lea (t v : BitVec 9) (p : BitVec 2) (x : BitVec 1) (k : BitVec 3) : Statement (.lea t v p x k) := by
  intro ok
  obtain ⟨wd, hn⟩ : ∃ wd, wd = 0x5A000000 + t.toNat * 65536 + v.toNat * 128 + p.toNat * 32 + x.toNat * 16 + k.toNat := ⟨_, rfl⟩
  obtain ⟨h32, hm, hr, hf0, hf1, hf2, hf3, hf4⟩ := word15 (m := 45) t v p x k (by decide) rfl hn
  refine of_row ok (congrArg (fun k => some (BitVec.ofNat 32 k)) hn.symm) h32 ?_
  unfold decodeRow
  rw [hm]
  change (if wd / 8 % 2 = 0 then some (Instr.lea (fld wd 16 9) (fld wd 7 9) (fld wd 5 2) (fld wd 4 1) (fld wd 0 3)) else none : Option Instr) = some _
  rw [if_pos hr, hf0, hf1, hf2, hf3, hf4]

theorem adds (t v : BitVec 9) (p w : BitVec 2) (u s : BitVec 1) : Statement (.adds t v p w u s) := by
  intro ok
  obtain ⟨wd, hn⟩ : ∃ wd, wd = 0x5C000000 + t.toNat * 65536 + v.toNat * 128 + p.toNat * 32 + w.toNat * 8 + u.toNat * 4 + s.toNat := ⟨_, rfl⟩
  obtain ⟨h32, hm, hr, hf0, hf1, hf2, hf3, hf4, hf5⟩ := word11 (m := 46) t v p w u s (by decide) rfl hn
  refine of_row ok (congrArg (fun k => some (BitVec.ofNat 32 k)) hn.symm) h32 ?_
  unfold decodeRow
  rw [hm]
  change (if wd / 2 % 2 = 0 then some (Instr.adds (fld wd 16 9) (fld wd 7 9) (fld wd 5 2) (fld wd 3 2) (fld wd 2 1) (fld wd 0 1)) else none : Option Instr) = some _
  rw [if_pos hr, hf0, hf1, hf2, hf3, hf4, hf5]

theorem subs (t v : BitVec 9) (p w : BitVec 2) (u s : BitVec 1) : Statement (.subs t v p w u s) := by
  intro ok
  obtain ⟨wd, hn⟩ : ∃ wd, wd = 0x5E000000 + t.toNat * 65536 + v.toNat * 128 + p.toNat * 32 + w.toNat * 8 + u.toNat * 4 + s.toNat := ⟨_, rfl⟩
  obtain ⟨h32, hm, hr, hf0, hf1, hf2, hf3, hf4, hf5⟩ := word11 (m := 47) t v p w u s (by decide) rfl hn
  refine of_row ok (congrArg (fun k => some (BitVec.ofNat 32 k)) hn.symm) h32 ?_
  unfold decodeRow
  rw [hm]
  change (if wd / 2 % 2 = 0 then some (Instr.subs (fld wd 16 9) (fld wd 7 9) (fld wd 5 2) (fld wd 3 2) (fld wd 2 1) (fld wd 0 1)) else none : Option Instr) = some _
  rw [if_pos hr, hf0, hf1, hf2, hf3, hf4, hf5]

theorem fadd (t v : BitVec 9) (p : BitVec 2) (s i o : BitVec 1) (r : BitVec 2) : Statement (.fadd t v p s i o r) := by
  intro ok
  obtain ⟨wd, hn⟩ : ∃ wd, wd = 0x60000000 + t.toNat * 65536 + v.toNat * 128 + p.toNat * 32 + s.toNat * 16 + i.toNat * 8 + o.toNat * 4 + r.toNat := ⟨_, rfl⟩
  obtain ⟨h32, hm, hf0, hf1, hf2, hf3, hf4, hf5, hf6⟩ := word16 (m := 48) t v p s i o r (by decide) rfl hn
  refine of_row ok (congrArg (fun k => some (BitVec.ofNat 32 k)) hn.symm) h32 ?_
  unfold decodeRow
  rw [hm]
  change (some (Instr.fadd (fld wd 16 9) (fld wd 7 9) (fld wd 5 2) (fld wd 4 1) (fld wd 3 1) (fld wd 2 1) (fld wd 0 2)) : Option Instr) = some _
  rw [hf0, hf1, hf2, hf3, hf4, hf5, hf6]

theorem fsub (t v : BitVec 9) (p : BitVec 2) (s i o : BitVec 1) (r : BitVec 2) : Statement (.fsub t v p s i o r) := by
  intro ok
  obtain ⟨wd, hn⟩ : ∃ wd, wd = 0x62000000 + t.toNat * 65536 + v.toNat * 128 + p.toNat * 32 + s.toNat * 16 + i.toNat * 8 + o.toNat * 4 + r.toNat := ⟨_, rfl⟩
  obtain ⟨h32, hm, hf0, hf1, hf2, hf3, hf4, hf5, hf6⟩ := word16 (m := 49) t v p s i o r (by decide) rfl hn
  refine of_row ok (congrArg (fun k => some (BitVec.ofNat 32 k)) hn.symm) h32 ?_
  unfold decodeRow
  rw [hm]
  change (some (Instr.fsub (fld wd 16 9) (fld wd 7 9) (fld wd 5 2) (fld wd 4 1) (fld wd 3 1) (fld wd 2 1) (fld wd 0 2)) : Option Instr) = some _
  rw [hf0, hf1, hf2, hf3, hf4, hf5, hf6]

theorem fmul (t v : BitVec 9) (p : BitVec 2) (s i o : BitVec 1) (r : BitVec 2) : Statement (.fmul t v p s i o r) := by
  intro ok
  obtain ⟨wd, hn⟩ : ∃ wd, wd = 0x64000000 + t.toNat * 65536 + v.toNat * 128 + p.toNat * 32 + s.toNat * 16 + i.toNat * 8 + o.toNat * 4 + r.toNat := ⟨_, rfl⟩
  obtain ⟨h32, hm, hf0, hf1, hf2, hf3, hf4, hf5, hf6⟩ := word16 (m := 50) t v p s i o r (by decide) rfl hn
  refine of_row ok (congrArg (fun k => some (BitVec.ofNat 32 k)) hn.symm) h32 ?_
  unfold decodeRow
  rw [hm]
  change (some (Instr.fmul (fld wd 16 9) (fld wd 7 9) (fld wd 5 2) (fld wd 4 1) (fld wd 3 1) (fld wd 2 1) (fld wd 0 2)) : Option Instr) = some _
  rw [hf0, hf1, hf2, hf3, hf4, hf5, hf6]

theorem ffma (t v : BitVec 9) (s i o : BitVec 1) (r : BitVec 2) : Statement (.ffma t v s i o r) := by
  intro ok
  obtain ⟨wd, hn⟩ : ∃ wd, wd = 0x66000000 + t.toNat * 65536 + v.toNat * 128 + s.toNat * 16 + i.toNat * 8 + o.toNat * 4 + r.toNat := ⟨_, rfl⟩
  obtain ⟨h32, hm, hr, hf0, hf1, hf2, hf3, hf4, hf5⟩ := word17 (m := 51) t v s i o r (by decide) rfl hn
  refine of_row ok (congrArg (fun k => some (BitVec.ofNat 32 k)) hn.symm) h32 ?_
  unfold decodeRow
  rw [hm]
  change (if wd / 32 % 4 = 0 then some (Instr.ffma (fld wd 16 9) (fld wd 7 9) (fld wd 4 1) (fld wd 3 1) (fld wd 2 1) (fld wd 0 2)) else none : Option Instr) = some _
  rw [if_pos hr, hf0, hf1, hf2, hf3, hf4, hf5]

theorem fmin (t v : BitVec 9) (p : BitVec 2) (s i o q : BitVec 1) : Statement (.fmin t v p s i o q) := by
  intro ok
  obtain ⟨wd, hn⟩ : ∃ wd, wd = 0x68000000 + t.toNat * 65536 + v.toNat * 128 + p.toNat * 32 + s.toNat * 16 + i.toNat * 8 + o.toNat * 4 + q.toNat * 2 := ⟨_, rfl⟩
  obtain ⟨h32, hm, hr, hf0, hf1, hf2, hf3, hf4, hf5, hf6⟩ := word18 (m := 52) t v p s i o q (by decide) rfl hn
  refine of_row ok (congrArg (fun k => some (BitVec.ofNat 32 k)) hn.symm) h32 ?_
  unfold decodeRow
  rw [hm]
  change (if wd % 2 = 0 then some (Instr.fmin (fld wd 16 9) (fld wd 7 9) (fld wd 5 2) (fld wd 4 1) (fld wd 3 1) (fld wd 2 1) (fld wd 1 1)) else if wd % 2 = 1 then some (Instr.fmax (fld wd 16 9) (fld wd 7 9) (fld wd 5 2) (fld wd 4 1) (fld wd 3 1) (fld wd 2 1) (fld wd 1 1)) else none : Option Instr) = some _
  rw [if_pos hr, hf0, hf1, hf2, hf3, hf4, hf5, hf6]

theorem fmax (t v : BitVec 9) (p : BitVec 2) (s i o q : BitVec 1) : Statement (.fmax t v p s i o q) := by
  intro ok
  obtain ⟨wd, hn⟩ : ∃ wd, wd = 0x68000001 + t.toNat * 65536 + v.toNat * 128 + p.toNat * 32 + s.toNat * 16 + i.toNat * 8 + o.toNat * 4 + q.toNat * 2 := ⟨_, rfl⟩
  obtain ⟨h32, hm, hr0, hr, hf0, hf1, hf2, hf3, hf4, hf5, hf6⟩ := word19 (m := 52) t v p s i o q (by decide) rfl hn
  refine of_row ok (congrArg (fun k => some (BitVec.ofNat 32 k)) hn.symm) h32 ?_
  unfold decodeRow
  rw [hm]
  change (if wd % 2 = 0 then some (Instr.fmin (fld wd 16 9) (fld wd 7 9) (fld wd 5 2) (fld wd 4 1) (fld wd 3 1) (fld wd 2 1) (fld wd 1 1)) else if wd % 2 = 1 then some (Instr.fmax (fld wd 16 9) (fld wd 7 9) (fld wd 5 2) (fld wd 4 1) (fld wd 3 1) (fld wd 2 1) (fld wd 1 1)) else none : Option Instr) = some _
  rw [if_neg hr0, if_pos hr, hf0, hf1, hf2, hf3, hf4, hf5, hf6]

theorem fneg (t v : BitVec 9) (p : BitVec 2) : Statement (.fneg t v p) := by
  intro ok
  obtain ⟨wd, hn⟩ : ∃ wd, wd = 0x6A000000 + t.toNat * 65536 + v.toNat * 128 + p.toNat * 32 := ⟨_, rfl⟩
  obtain ⟨h32, hm, hr, hf0, hf1, hf2⟩ := word4 (m := 53) t v p (by decide) rfl hn
  refine of_row ok (congrArg (fun k => some (BitVec.ofNat 32 k)) hn.symm) h32 ?_
  unfold decodeRow
  rw [hm]
  change (if wd % 32 = 0 then some (Instr.fneg (fld wd 16 9) (fld wd 7 9) (fld wd 5 2)) else if wd % 32 = 1 then some (Instr.fabs (fld wd 16 9) (fld wd 7 9) (fld wd 5 2)) else none : Option Instr) = some _
  rw [if_pos hr, hf0, hf1, hf2]

theorem fabs (t v : BitVec 9) (p : BitVec 2) : Statement (.fabs t v p) := by
  intro ok
  obtain ⟨wd, hn⟩ : ∃ wd, wd = 0x6A000001 + t.toNat * 65536 + v.toNat * 128 + p.toNat * 32 := ⟨_, rfl⟩
  obtain ⟨h32, hm, hr0, hr, hf0, hf1, hf2⟩ := word20 (m := 53) t v p (by decide) rfl hn
  refine of_row ok (congrArg (fun k => some (BitVec.ofNat 32 k)) hn.symm) h32 ?_
  unfold decodeRow
  rw [hm]
  change (if wd % 32 = 0 then some (Instr.fneg (fld wd 16 9) (fld wd 7 9) (fld wd 5 2)) else if wd % 32 = 1 then some (Instr.fabs (fld wd 16 9) (fld wd 7 9) (fld wd 5 2)) else none : Option Instr) = some _
  rw [if_neg hr0, if_pos hr, hf0, hf1, hf2]

theorem fcmp (t v : BitVec 9) (p : BitVec 2) (s i : BitVec 1) (c : BitVec 2) : Statement (.fcmp t v p s i c) := by
  intro ok
  obtain ⟨wd, hn⟩ : ∃ wd, wd = 0x6C000000 + t.toNat * 65536 + v.toNat * 128 + p.toNat * 32 + s.toNat * 16 + i.toNat * 8 + c.toNat := ⟨_, rfl⟩
  obtain ⟨h32, hm, hr, hf0, hf1, hf2, hf3, hf4, hf5⟩ := word21 (m := 54) t v p s i c (by decide) rfl hn
  refine of_row ok (congrArg (fun k => some (BitVec.ofNat 32 k)) hn.symm) h32 ?_
  unfold decodeRow
  rw [hm]
  change (if wd / 4 % 2 = 0 then some (Instr.fcmp (fld wd 16 9) (fld wd 7 9) (fld wd 5 2) (fld wd 4 1) (fld wd 3 1) (fld wd 0 2)) else none : Option Instr) = some _
  rw [if_pos hr, hf0, hf1, hf2, hf3, hf4, hf5]

theorem fclass (t v : BitVec 9) (p c : BitVec 2) : Statement (.fclass t v p c) := by
  intro ok
  obtain ⟨wd, hn⟩ : ∃ wd, wd = 0x6E000000 + t.toNat * 65536 + v.toNat * 128 + p.toNat * 32 + c.toNat := ⟨_, rfl⟩
  obtain ⟨h32, hm, hr, hf0, hf1, hf2, hf3⟩ := word22 (m := 55) t v p c (by decide) rfl hn
  refine of_row ok (congrArg (fun k => some (BitVec.ofNat 32 k)) hn.symm) h32 ?_
  unfold decodeRow
  rw [hm]
  change (if wd / 4 % 8 = 0 then some (Instr.fclass (fld wd 16 9) (fld wd 7 9) (fld wd 5 2) (fld wd 0 2)) else none : Option Instr) = some _
  rw [if_pos hr, hf0, hf1, hf2, hf3]

theorem padd (t : BitVec 9) (f : BitVec 4) (p : BitVec 2) (s i o : BitVec 1) (r : BitVec 2) : Statement (.padd t f p s i o r) := by
  intro ok
  obtain ⟨wd, hn⟩ : ∃ wd, wd = 0x70000000 + t.toNat * 65536 + f.toNat * 4096 + p.toNat * 32 + s.toNat * 16 + i.toNat * 8 + o.toNat * 4 + r.toNat := ⟨_, rfl⟩
  obtain ⟨h32, hm, hr, hf0, hf1, hf2, hf3, hf4, hf5, hf6⟩ := word23 (m := 56) t f p s i o r (by decide) rfl hn
  refine of_row ok (congrArg (fun k => some (BitVec.ofNat 32 k)) hn.symm) h32 ?_
  unfold decodeRow
  rw [hm]
  change (if wd / 128 % 32 = 0 then some (Instr.padd (fld wd 16 9) (fld wd 12 4) (fld wd 5 2) (fld wd 4 1) (fld wd 3 1) (fld wd 2 1) (fld wd 0 2)) else none : Option Instr) = some _
  rw [if_pos hr, hf0, hf1, hf2, hf3, hf4, hf5, hf6]

theorem pmul (t : BitVec 9) (f : BitVec 4) (p : BitVec 2) (s i o : BitVec 1) (r : BitVec 2) : Statement (.pmul t f p s i o r) := by
  intro ok
  obtain ⟨wd, hn⟩ : ∃ wd, wd = 0x72000000 + t.toNat * 65536 + f.toNat * 4096 + p.toNat * 32 + s.toNat * 16 + i.toNat * 8 + o.toNat * 4 + r.toNat := ⟨_, rfl⟩
  obtain ⟨h32, hm, hr, hf0, hf1, hf2, hf3, hf4, hf5, hf6⟩ := word23 (m := 57) t f p s i o r (by decide) rfl hn
  refine of_row ok (congrArg (fun k => some (BitVec.ofNat 32 k)) hn.symm) h32 ?_
  unfold decodeRow
  rw [hm]
  change (if wd / 128 % 32 = 0 then some (Instr.pmul (fld wd 16 9) (fld wd 12 4) (fld wd 5 2) (fld wd 4 1) (fld wd 3 1) (fld wd 2 1) (fld wd 0 2)) else none : Option Instr) = some _
  rw [if_pos hr, hf0, hf1, hf2, hf3, hf4, hf5, hf6]

theorem pfma (t : BitVec 9) (f : BitVec 4) (s i o : BitVec 1) (r : BitVec 2) : Statement (.pfma t f s i o r) := by
  intro ok
  obtain ⟨wd, hn⟩ : ∃ wd, wd = 0x74000000 + t.toNat * 65536 + f.toNat * 4096 + s.toNat * 16 + i.toNat * 8 + o.toNat * 4 + r.toNat := ⟨_, rfl⟩
  obtain ⟨h32, hm, hr, hf0, hf1, hf2, hf3, hf4, hf5⟩ := word24 (m := 58) t f s i o r (by decide) rfl hn
  refine of_row ok (congrArg (fun k => some (BitVec.ofNat 32 k)) hn.symm) h32 ?_
  unfold decodeRow
  rw [hm]
  change (if wd / 32 % 128 = 0 then some (Instr.pfma (fld wd 16 9) (fld wd 12 4) (fld wd 4 1) (fld wd 3 1) (fld wd 2 1) (fld wd 0 2)) else none : Option Instr) = some _
  rw [if_pos hr, hf0, hf1, hf2, hf3, hf4, hf5]

theorem pdot (t : BitVec 9) (f : BitVec 4) (s i o : BitVec 1) (r : BitVec 2) : Statement (.pdot t f s i o r) := by
  intro ok
  obtain ⟨wd, hn⟩ : ∃ wd, wd = 0x76000000 + t.toNat * 65536 + f.toNat * 4096 + s.toNat * 16 + i.toNat * 8 + o.toNat * 4 + r.toNat := ⟨_, rfl⟩
  obtain ⟨h32, hm, hr, hf0, hf1, hf2, hf3, hf4, hf5⟩ := word24 (m := 59) t f s i o r (by decide) rfl hn
  refine of_row ok (congrArg (fun k => some (BitVec.ofNat 32 k)) hn.symm) h32 ?_
  unfold decodeRow
  rw [hm]
  change (if wd / 32 % 128 = 0 then some (Instr.pdot (fld wd 16 9) (fld wd 12 4) (fld wd 4 1) (fld wd 3 1) (fld wd 2 1) (fld wd 0 2)) else none : Option Instr) = some _
  rw [if_pos hr, hf0, hf1, hf2, hf3, hf4, hf5]

theorem rcp (t v : BitVec 9) (p : BitVec 2) (s i o : BitVec 1) (r : BitVec 2) : Statement (.rcp t v p s i o r) := by
  intro ok
  obtain ⟨wd, hn⟩ : ∃ wd, wd = 0x78000000 + t.toNat * 65536 + v.toNat * 128 + p.toNat * 32 + s.toNat * 16 + i.toNat * 8 + o.toNat * 4 + r.toNat := ⟨_, rfl⟩
  obtain ⟨h32, hm, hf0, hf1, hf2, hf3, hf4, hf5, hf6⟩ := word16 (m := 60) t v p s i o r (by decide) rfl hn
  refine of_row ok (congrArg (fun k => some (BitVec.ofNat 32 k)) hn.symm) h32 ?_
  unfold decodeRow
  rw [hm]
  change (some (Instr.rcp (fld wd 16 9) (fld wd 7 9) (fld wd 5 2) (fld wd 4 1) (fld wd 3 1) (fld wd 2 1) (fld wd 0 2)) : Option Instr) = some _
  rw [hf0, hf1, hf2, hf3, hf4, hf5, hf6]

theorem rsq (t v : BitVec 9) (p : BitVec 2) (s i o : BitVec 1) (r : BitVec 2) : Statement (.rsq t v p s i o r) := by
  intro ok
  obtain ⟨wd, hn⟩ : ∃ wd, wd = 0x7A000000 + t.toNat * 65536 + v.toNat * 128 + p.toNat * 32 + s.toNat * 16 + i.toNat * 8 + o.toNat * 4 + r.toNat := ⟨_, rfl⟩
  obtain ⟨h32, hm, hf0, hf1, hf2, hf3, hf4, hf5, hf6⟩ := word16 (m := 61) t v p s i o r (by decide) rfl hn
  refine of_row ok (congrArg (fun k => some (BitVec.ofNat 32 k)) hn.symm) h32 ?_
  unfold decodeRow
  rw [hm]
  change (some (Instr.rsq (fld wd 16 9) (fld wd 7 9) (fld wd 5 2) (fld wd 4 1) (fld wd 3 1) (fld wd 2 1) (fld wd 0 2)) : Option Instr) = some _
  rw [hf0, hf1, hf2, hf3, hf4, hf5, hf6]

theorem exp2 (t v : BitVec 9) (p : BitVec 2) (s i o : BitVec 1) (r : BitVec 2) : Statement (.exp2 t v p s i o r) := by
  intro ok
  obtain ⟨wd, hn⟩ : ∃ wd, wd = 0x7C000000 + t.toNat * 65536 + v.toNat * 128 + p.toNat * 32 + s.toNat * 16 + i.toNat * 8 + o.toNat * 4 + r.toNat := ⟨_, rfl⟩
  obtain ⟨h32, hm, hf0, hf1, hf2, hf3, hf4, hf5, hf6⟩ := word16 (m := 62) t v p s i o r (by decide) rfl hn
  refine of_row ok (congrArg (fun k => some (BitVec.ofNat 32 k)) hn.symm) h32 ?_
  unfold decodeRow
  rw [hm]
  change (some (Instr.exp2 (fld wd 16 9) (fld wd 7 9) (fld wd 5 2) (fld wd 4 1) (fld wd 3 1) (fld wd 2 1) (fld wd 0 2)) : Option Instr) = some _
  rw [hf0, hf1, hf2, hf3, hf4, hf5, hf6]

theorem log2 (t v : BitVec 9) (p : BitVec 2) (s i o : BitVec 1) (r : BitVec 2) : Statement (.log2 t v p s i o r) := by
  intro ok
  obtain ⟨wd, hn⟩ : ∃ wd, wd = 0x7E000000 + t.toNat * 65536 + v.toNat * 128 + p.toNat * 32 + s.toNat * 16 + i.toNat * 8 + o.toNat * 4 + r.toNat := ⟨_, rfl⟩
  obtain ⟨h32, hm, hf0, hf1, hf2, hf3, hf4, hf5, hf6⟩ := word16 (m := 63) t v p s i o r (by decide) rfl hn
  refine of_row ok (congrArg (fun k => some (BitVec.ofNat 32 k)) hn.symm) h32 ?_
  unfold decodeRow
  rw [hm]
  change (some (Instr.log2 (fld wd 16 9) (fld wd 7 9) (fld wd 5 2) (fld wd 4 1) (fld wd 3 1) (fld wd 2 1) (fld wd 0 2)) : Option Instr) = some _
  rw [hf0, hf1, hf2, hf3, hf4, hf5, hf6]

theorem tanh (t v : BitVec 9) (p : BitVec 2) (s i o : BitVec 1) (r : BitVec 2) : Statement (.tanh t v p s i o r) := by
  intro ok
  obtain ⟨wd, hn⟩ : ∃ wd, wd = 0x80000000 + t.toNat * 65536 + v.toNat * 128 + p.toNat * 32 + s.toNat * 16 + i.toNat * 8 + o.toNat * 4 + r.toNat := ⟨_, rfl⟩
  obtain ⟨h32, hm, hf0, hf1, hf2, hf3, hf4, hf5, hf6⟩ := word16 (m := 64) t v p s i o r (by decide) rfl hn
  refine of_row ok (congrArg (fun k => some (BitVec.ofNat 32 k)) hn.symm) h32 ?_
  unfold decodeRow
  rw [hm]
  change (some (Instr.tanh (fld wd 16 9) (fld wd 7 9) (fld wd 5 2) (fld wd 4 1) (fld wd 3 1) (fld wd 2 1) (fld wd 0 2)) : Option Instr) = some _
  rw [hf0, hf1, hf2, hf3, hf4, hf5, hf6]

theorem cvt (t : BitVec 9) (x y : BitVec 4) (p : BitVec 2) (s i o : BitVec 1) (r : BitVec 2) : Statement (.cvt t x y p s i o r) := by
  intro ok
  obtain ⟨wd, hn⟩ : ∃ wd, wd = 0x82000000 + t.toNat * 65536 + x.toNat * 4096 + y.toNat * 256 + p.toNat * 32 + s.toNat * 16 + i.toNat * 8 + o.toNat * 4 + r.toNat := ⟨_, rfl⟩
  obtain ⟨h32, hm, hr, hf0, hf1, hf2, hf3, hf4, hf5, hf6, hf7⟩ := word25 (m := 65) t x y p s i o r (by decide) rfl hn
  refine of_row ok (congrArg (fun k => some (BitVec.ofNat 32 k)) hn.symm) h32 ?_
  unfold decodeRow
  rw [hm]
  change (if wd / 128 % 2 = 0 then some (Instr.cvt (fld wd 16 9) (fld wd 12 4) (fld wd 8 4) (fld wd 5 2) (fld wd 4 1) (fld wd 3 1) (fld wd 2 1) (fld wd 0 2)) else none : Option Instr) = some _
  rw [if_pos hr, hf0, hf1, hf2, hf3, hf4, hf5, hf6, hf7]

theorem srnd (t : BitVec 9) (y : BitVec 4) (p : BitVec 2) (s i o : BitVec 1) : Statement (.srnd t y p s i o) := by
  intro ok
  obtain ⟨wd, hn⟩ : ∃ wd, wd = 0x84000000 + t.toNat * 65536 + y.toNat * 256 + p.toNat * 32 + s.toNat * 16 + i.toNat * 8 + o.toNat * 4 := ⟨_, rfl⟩
  obtain ⟨h32, hm, hr, hf0, hf1, hf2, hf3, hf4, hf5⟩ := word26 (m := 66) t y p s i o (by decide) rfl hn
  refine of_row ok (congrArg (fun k => some (BitVec.ofNat 32 k)) hn.symm) h32 ?_
  unfold decodeRow
  rw [hm]
  change (if wd % 4 = 0 ∧ wd / 128 % 2 = 0 ∧ wd / 4096 % 16 = 0 then some (Instr.srnd (fld wd 16 9) (fld wd 8 4) (fld wd 5 2) (fld wd 4 1) (fld wd 3 1) (fld wd 2 1)) else none : Option Instr) = some _
  rw [if_pos hr, hf0, hf1, hf2, hf3, hf4, hf5]

theorem rdflg (t : BitVec 9) (p : BitVec 2) (m : BitVec 14) : Statement (.rdflg t p m) := by
  intro ok
  obtain ⟨wd, hn⟩ : ∃ wd, wd = 0x86000000 + t.toNat * 65536 + p.toNat * 16384 + m.toNat := ⟨_, rfl⟩
  obtain ⟨h32, hm, hf0, hf1, hf2⟩ := word3 (m := 67) t p m (by decide) rfl hn
  refine of_row ok (congrArg (fun k => some (BitVec.ofNat 32 k)) hn.symm) h32 ?_
  unfold decodeRow
  rw [hm]
  change (some (Instr.rdflg (fld wd 16 9) (fld wd 14 2) (fld wd 0 14)) : Option Instr) = some _
  rw [hf0, hf1, hf2]

theorem clrflg (t : BitVec 9) (p : BitVec 2) (m : BitVec 14) : Statement (.clrflg t p m) := by
  intro ok
  obtain ⟨wd, hn⟩ : ∃ wd, wd = 0x88000000 + t.toNat * 65536 + p.toNat * 16384 + m.toNat := ⟨_, rfl⟩
  obtain ⟨h32, hm, hf0, hf1, hf2⟩ := word3 (m := 68) t p m (by decide) rfl hn
  refine of_row ok (congrArg (fun k => some (BitVec.ofNat 32 k)) hn.symm) h32 ?_
  unfold decodeRow
  rw [hm]
  change (some (Instr.clrflg (fld wd 16 9) (fld wd 14 2) (fld wd 0 14)) : Option Instr) = some _
  rw [hf0, hf1, hf2]

theorem rngn (t : BitVec 9) (p : BitVec 2) (c k : BitVec 7) : Statement (.rngn t p c k) := by
  intro ok
  obtain ⟨wd, hn⟩ : ∃ wd, wd = 0x8A000000 + t.toNat * 65536 + p.toNat * 16384 + c.toNat * 128 + k.toNat := ⟨_, rfl⟩
  obtain ⟨h32, hm, hf0, hf1, hf2, hf3⟩ := word27 (m := 69) t p c k (by decide) rfl hn
  refine of_row ok (congrArg (fun k => some (BitVec.ofNat 32 k)) hn.symm) h32 ?_
  unfold decodeRow
  rw [hm]
  change (some (Instr.rngn (fld wd 16 9) (fld wd 14 2) (fld wd 7 7) (fld wd 0 7)) : Option Instr) = some _
  rw [hf0, hf1, hf2, hf3]

theorem ld (t : BitVec 9) (p : BitVec 2) (n : BitVec 5) (s z : BitVec 2) (q : BitVec 3) : Statement (.ld t p n s z q) := by
  intro ok
  obtain ⟨wd, hn⟩ : ∃ wd, wd = 0x90000000 + t.toNat * 65536 + p.toNat * 16384 + n.toNat * 512 + s.toNat * 128 + z.toNat * 32 + q.toNat * 4 := ⟨_, rfl⟩
  obtain ⟨h32, hm, hr, hf0, hf1, hf2, hf3, hf4, hf5⟩ := word28 (m := 72) t p n s z q (by decide) rfl hn
  refine of_row ok (congrArg (fun k => some (BitVec.ofNat 32 k)) hn.symm) h32 ?_
  unfold decodeRow
  rw [hm]
  change (if wd % 4 = 0 then some (Instr.ld (fld wd 16 9) (fld wd 14 2) (fld wd 9 5) (fld wd 7 2) (fld wd 5 2) (fld wd 2 3)) else none : Option Instr) = some _
  rw [if_pos hr, hf0, hf1, hf2, hf3, hf4, hf5]

theorem st (t : BitVec 9) (p : BitVec 2) (n : BitVec 5) (s z : BitVec 2) (q : BitVec 3) : Statement (.st t p n s z q) := by
  intro ok
  obtain ⟨wd, hn⟩ : ∃ wd, wd = 0x92000000 + t.toNat * 65536 + p.toNat * 16384 + n.toNat * 512 + s.toNat * 128 + z.toNat * 32 + q.toNat * 4 := ⟨_, rfl⟩
  obtain ⟨h32, hm, hr, hf0, hf1, hf2, hf3, hf4, hf5⟩ := word28 (m := 73) t p n s z q (by decide) rfl hn
  refine of_row ok (congrArg (fun k => some (BitVec.ofNat 32 k)) hn.symm) h32 ?_
  unfold decodeRow
  rw [hm]
  change (if wd % 4 = 0 then some (Instr.st (fld wd 16 9) (fld wd 14 2) (fld wd 9 5) (fld wd 7 2) (fld wd 5 2) (fld wd 2 3)) else none : Option Instr) = some _
  rw [if_pos hr, hf0, hf1, hf2, hf3, hf4, hf5]

theorem ldv (t : BitVec 9) (p : BitVec 2) (n : BitVec 5) (s z : BitVec 2) (q : BitVec 3) : Statement (.ldv t p n s z q) := by
  intro ok
  obtain ⟨wd, hn⟩ : ∃ wd, wd = 0x94000000 + t.toNat * 65536 + p.toNat * 16384 + n.toNat * 512 + s.toNat * 128 + z.toNat * 32 + q.toNat * 4 := ⟨_, rfl⟩
  obtain ⟨h32, hm, hr, hf0, hf1, hf2, hf3, hf4, hf5⟩ := word28 (m := 74) t p n s z q (by decide) rfl hn
  refine of_row ok (congrArg (fun k => some (BitVec.ofNat 32 k)) hn.symm) h32 ?_
  unfold decodeRow
  rw [hm]
  change (if wd % 4 = 0 then some (Instr.ldv (fld wd 16 9) (fld wd 14 2) (fld wd 9 5) (fld wd 7 2) (fld wd 5 2) (fld wd 2 3)) else none : Option Instr) = some _
  rw [if_pos hr, hf0, hf1, hf2, hf3, hf4, hf5]

theorem stv (t : BitVec 9) (p : BitVec 2) (n : BitVec 5) (s z : BitVec 2) (q : BitVec 3) : Statement (.stv t p n s z q) := by
  intro ok
  obtain ⟨wd, hn⟩ : ∃ wd, wd = 0x96000000 + t.toNat * 65536 + p.toNat * 16384 + n.toNat * 512 + s.toNat * 128 + z.toNat * 32 + q.toNat * 4 := ⟨_, rfl⟩
  obtain ⟨h32, hm, hr, hf0, hf1, hf2, hf3, hf4, hf5⟩ := word28 (m := 75) t p n s z q (by decide) rfl hn
  refine of_row ok (congrArg (fun k => some (BitVec.ofNat 32 k)) hn.symm) h32 ?_
  unfold decodeRow
  rw [hm]
  change (if wd % 4 = 0 then some (Instr.stv (fld wd 16 9) (fld wd 14 2) (fld wd 9 5) (fld wd 7 2) (fld wd 5 2) (fld wd 2 3)) else none : Option Instr) = some _
  rw [if_pos hr, hf0, hf1, hf2, hf3, hf4, hf5]

theorem feset (t : BitVec 9) (p : BitVec 2) (n : BitVec 5) (s z : BitVec 2) (q : BitVec 3) : Statement (.feset t p n s z q) := by
  intro ok
  obtain ⟨wd, hn⟩ : ∃ wd, wd = 0x98000000 + t.toNat * 65536 + p.toNat * 16384 + n.toNat * 512 + s.toNat * 128 + z.toNat * 32 + q.toNat * 4 := ⟨_, rfl⟩
  obtain ⟨h32, hm, hr, hf0, hf1, hf2, hf3, hf4, hf5⟩ := word28 (m := 76) t p n s z q (by decide) rfl hn
  refine of_row ok (congrArg (fun k => some (BitVec.ofNat 32 k)) hn.symm) h32 ?_
  unfold decodeRow
  rw [hm]
  change (if wd % 4 = 0 then some (Instr.feset (fld wd 16 9) (fld wd 14 2) (fld wd 9 5) (fld wd 7 2) (fld wd 5 2) (fld wd 2 3)) else none : Option Instr) = some _
  rw [if_pos hr, hf0, hf1, hf2, hf3, hf4, hf5]

theorem cbinit (t : BitVec 9) (p : BitVec 2) (s : BitVec 1) (h : BitVec 4) : Statement (.cbinit t p s h) := by
  intro ok
  obtain ⟨wd, hn⟩ : ∃ wd, wd = 0x9A000000 + t.toNat * 65536 + p.toNat * 16384 + s.toNat * 16 + h.toNat := ⟨_, rfl⟩
  obtain ⟨h32, hm, hr, hf0, hf1, hf2, hf3⟩ := word29 (m := 77) t p s h (by decide) rfl hn
  refine of_row ok (congrArg (fun k => some (BitVec.ofNat 32 k)) hn.symm) h32 ?_
  unfold decodeRow
  rw [hm]
  change (if wd / 32 % 512 = 0 then some (Instr.cbinit (fld wd 16 9) (fld wd 14 2) (fld wd 4 1) (fld wd 0 4)) else none : Option Instr) = some _
  rw [if_pos hr, hf0, hf1, hf2, hf3]

theorem cbwait (t : BitVec 9) (p : BitVec 2) (n : BitVec 9) (y : BitVec 1) (h : BitVec 4) : Statement (.cbwait t p n y h) := by
  intro ok
  obtain ⟨wd, hn⟩ : ∃ wd, wd = 0x9C000000 + t.toNat * 65536 + p.toNat * 16384 + n.toNat * 32 + y.toNat * 16 + h.toNat := ⟨_, rfl⟩
  obtain ⟨h32, hm, hf0, hf1, hf2, hf3, hf4⟩ := word30 (m := 78) t p n y h (by decide) rfl hn
  refine of_row ok (congrArg (fun k => some (BitVec.ofNat 32 k)) hn.symm) h32 ?_
  unfold decodeRow
  rw [hm]
  change (some (Instr.cbwait (fld wd 16 9) (fld wd 14 2) (fld wd 5 9) (fld wd 4 1) (fld wd 0 4)) : Option Instr) = some _
  rw [hf0, hf1, hf2, hf3, hf4]

theorem cbrsv (t : BitVec 9) (p : BitVec 2) (n : BitVec 9) (y : BitVec 1) (h : BitVec 4) : Statement (.cbrsv t p n y h) := by
  intro ok
  obtain ⟨wd, hn⟩ : ∃ wd, wd = 0x9E000000 + t.toNat * 65536 + p.toNat * 16384 + n.toNat * 32 + y.toNat * 16 + h.toNat := ⟨_, rfl⟩
  obtain ⟨h32, hm, hf0, hf1, hf2, hf3, hf4⟩ := word30 (m := 79) t p n y h (by decide) rfl hn
  refine of_row ok (congrArg (fun k => some (BitVec.ofNat 32 k)) hn.symm) h32 ?_
  unfold decodeRow
  rw [hm]
  change (some (Instr.cbrsv (fld wd 16 9) (fld wd 14 2) (fld wd 5 9) (fld wd 4 1) (fld wd 0 4)) : Option Instr) = some _
  rw [hf0, hf1, hf2, hf3, hf4]

theorem cbadv (t : BitVec 9) (p : BitVec 2) (n : BitVec 9) (e : BitVec 1) (h : BitVec 4) : Statement (.cbadv t p n e h) := by
  intro ok
  obtain ⟨wd, hn⟩ : ∃ wd, wd = 0xA0000000 + t.toNat * 65536 + p.toNat * 16384 + n.toNat * 32 + e.toNat * 16 + h.toNat := ⟨_, rfl⟩
  obtain ⟨h32, hm, hf0, hf1, hf2, hf3, hf4⟩ := word30 (m := 80) t p n e h (by decide) rfl hn
  refine of_row ok (congrArg (fun k => some (BitVec.ofNat 32 k)) hn.symm) h32 ?_
  unfold decodeRow
  rw [hm]
  change (some (Instr.cbadv (fld wd 16 9) (fld wd 14 2) (fld wd 5 9) (fld wd 4 1) (fld wd 0 4)) : Option Instr) = some _
  rw [hf0, hf1, hf2, hf3, hf4]

theorem sbind (t : BitVec 9) (p : BitVec 2) (c r : BitVec 1) (z s : BitVec 2) (o : BitVec 1) (n : BitVec 6) : Statement (.sbind t p c r z s o n) := by
  intro ok
  obtain ⟨wd, hn⟩ : ∃ wd, wd = 0xA2000000 + t.toNat * 65536 + p.toNat * 16384 + c.toNat * 4096 + r.toNat * 2048 + z.toNat * 512 + s.toNat * 128 + o.toNat * 64 + n.toNat := ⟨_, rfl⟩
  obtain ⟨h32, hm, hr, hf0, hf1, hf2, hf3, hf4, hf5, hf6, hf7⟩ := word31 (m := 81) t p c r z s o n (by decide) rfl hn
  refine of_row ok (congrArg (fun k => some (BitVec.ofNat 32 k)) hn.symm) h32 ?_
  unfold decodeRow
  rw [hm]
  change (if wd / 8192 % 2 = 0 then some (Instr.sbind (fld wd 16 9) (fld wd 14 2) (fld wd 12 1) (fld wd 11 1) (fld wd 9 2) (fld wd 7 2) (fld wd 6 1) (fld wd 0 6)) else none : Option Instr) = some _
  rw [if_pos hr, hf0, hf1, hf2, hf3, hf4, hf5, hf6, hf7]

theorem bset (t : BitVec 9) (p n : BitVec 2) : Statement (.bset t p n) := by
  intro ok
  obtain ⟨wd, hn⟩ : ∃ wd, wd = 0xA4000000 + t.toNat * 65536 + p.toNat * 16384 + n.toNat := ⟨_, rfl⟩
  obtain ⟨h32, hm, hr, hf0, hf1, hf2⟩ := word32 (m := 82) t p n (by decide) rfl hn
  refine of_row ok (congrArg (fun k => some (BitVec.ofNat 32 k)) hn.symm) h32 ?_
  unfold decodeRow
  rw [hm]
  change (if wd / 4 % 4096 = 0 then some (Instr.bset (fld wd 16 9) (fld wd 14 2) (fld wd 0 2)) else none : Option Instr) = some _
  rw [if_pos hr, hf0, hf1, hf2]

theorem bperm (t v : BitVec 9) (p n : BitVec 2) : Statement (.bperm t v p n) := by
  intro ok
  obtain ⟨wd, hn⟩ : ∃ wd, wd = 0xA6000000 + t.toNat * 65536 + v.toNat * 128 + p.toNat * 32 + n.toNat := ⟨_, rfl⟩
  obtain ⟨h32, hm, hr, hf0, hf1, hf2, hf3⟩ := word22 (m := 83) t v p n (by decide) rfl hn
  refine of_row ok (congrArg (fun k => some (BitVec.ofNat 32 k)) hn.symm) h32 ?_
  unfold decodeRow
  rw [hm]
  change (if wd / 4 % 8 = 0 then some (Instr.bperm (fld wd 16 9) (fld wd 7 9) (fld wd 5 2) (fld wd 0 2)) else none : Option Instr) = some _
  rw [if_pos hr, hf0, hf1, hf2, hf3]

theorem aadd (t : BitVec 9) (p : BitVec 2) (n : BitVec 5) (s z : BitVec 2) : Statement (.aadd t p n s z) := by
  intro ok
  obtain ⟨wd, hn⟩ : ∃ wd, wd = 0xB0000000 + t.toNat * 65536 + p.toNat * 16384 + n.toNat * 512 + s.toNat * 128 + z.toNat * 32 := ⟨_, rfl⟩
  obtain ⟨h32, hm, hr, hf0, hf1, hf2, hf3, hf4⟩ := word33 (m := 88) t p n s z (by decide) rfl hn
  refine of_row ok (congrArg (fun k => some (BitVec.ofNat 32 k)) hn.symm) h32 ?_
  unfold decodeRow
  rw [hm]
  change (if wd % 32 = 0 then some (Instr.aadd (fld wd 16 9) (fld wd 14 2) (fld wd 9 5) (fld wd 7 2) (fld wd 5 2)) else if wd % 32 = 4 then some (Instr.amin (fld wd 16 9) (fld wd 14 2) (fld wd 9 5) (fld wd 7 2) (fld wd 5 2)) else if wd % 32 = 8 then some (Instr.amax (fld wd 16 9) (fld wd 14 2) (fld wd 9 5) (fld wd 7 2) (fld wd 5 2)) else if wd % 32 = 12 then some (Instr.aand (fld wd 16 9) (fld wd 14 2) (fld wd 9 5) (fld wd 7 2) (fld wd 5 2)) else if wd % 32 = 16 then some (Instr.aor (fld wd 16 9) (fld wd 14 2) (fld wd 9 5) (fld wd 7 2) (fld wd 5 2)) else if wd % 32 = 20 then some (Instr.axor (fld wd 16 9) (fld wd 14 2) (fld wd 9 5) (fld wd 7 2) (fld wd 5 2)) else if wd % 32 = 24 then some (Instr.aswp (fld wd 16 9) (fld wd 14 2) (fld wd 9 5) (fld wd 7 2) (fld wd 5 2)) else none : Option Instr) = some _
  rw [if_pos hr, hf0, hf1, hf2, hf3, hf4]

theorem amin (t : BitVec 9) (p : BitVec 2) (n : BitVec 5) (s z : BitVec 2) : Statement (.amin t p n s z) := by
  intro ok
  obtain ⟨wd, hn⟩ : ∃ wd, wd = 0xB0000004 + t.toNat * 65536 + p.toNat * 16384 + n.toNat * 512 + s.toNat * 128 + z.toNat * 32 := ⟨_, rfl⟩
  obtain ⟨h32, hm, hr0, hr, hf0, hf1, hf2, hf3, hf4⟩ := word34 (m := 88) t p n s z (by decide) rfl hn
  refine of_row ok (congrArg (fun k => some (BitVec.ofNat 32 k)) hn.symm) h32 ?_
  unfold decodeRow
  rw [hm]
  change (if wd % 32 = 0 then some (Instr.aadd (fld wd 16 9) (fld wd 14 2) (fld wd 9 5) (fld wd 7 2) (fld wd 5 2)) else if wd % 32 = 4 then some (Instr.amin (fld wd 16 9) (fld wd 14 2) (fld wd 9 5) (fld wd 7 2) (fld wd 5 2)) else if wd % 32 = 8 then some (Instr.amax (fld wd 16 9) (fld wd 14 2) (fld wd 9 5) (fld wd 7 2) (fld wd 5 2)) else if wd % 32 = 12 then some (Instr.aand (fld wd 16 9) (fld wd 14 2) (fld wd 9 5) (fld wd 7 2) (fld wd 5 2)) else if wd % 32 = 16 then some (Instr.aor (fld wd 16 9) (fld wd 14 2) (fld wd 9 5) (fld wd 7 2) (fld wd 5 2)) else if wd % 32 = 20 then some (Instr.axor (fld wd 16 9) (fld wd 14 2) (fld wd 9 5) (fld wd 7 2) (fld wd 5 2)) else if wd % 32 = 24 then some (Instr.aswp (fld wd 16 9) (fld wd 14 2) (fld wd 9 5) (fld wd 7 2) (fld wd 5 2)) else none : Option Instr) = some _
  rw [if_neg hr0, if_pos hr, hf0, hf1, hf2, hf3, hf4]

theorem amax (t : BitVec 9) (p : BitVec 2) (n : BitVec 5) (s z : BitVec 2) : Statement (.amax t p n s z) := by
  intro ok
  obtain ⟨wd, hn⟩ : ∃ wd, wd = 0xB0000008 + t.toNat * 65536 + p.toNat * 16384 + n.toNat * 512 + s.toNat * 128 + z.toNat * 32 := ⟨_, rfl⟩
  obtain ⟨h32, hm, hr0, hr1, hr, hf0, hf1, hf2, hf3, hf4⟩ := word35 (m := 88) t p n s z (by decide) rfl hn
  refine of_row ok (congrArg (fun k => some (BitVec.ofNat 32 k)) hn.symm) h32 ?_
  unfold decodeRow
  rw [hm]
  change (if wd % 32 = 0 then some (Instr.aadd (fld wd 16 9) (fld wd 14 2) (fld wd 9 5) (fld wd 7 2) (fld wd 5 2)) else if wd % 32 = 4 then some (Instr.amin (fld wd 16 9) (fld wd 14 2) (fld wd 9 5) (fld wd 7 2) (fld wd 5 2)) else if wd % 32 = 8 then some (Instr.amax (fld wd 16 9) (fld wd 14 2) (fld wd 9 5) (fld wd 7 2) (fld wd 5 2)) else if wd % 32 = 12 then some (Instr.aand (fld wd 16 9) (fld wd 14 2) (fld wd 9 5) (fld wd 7 2) (fld wd 5 2)) else if wd % 32 = 16 then some (Instr.aor (fld wd 16 9) (fld wd 14 2) (fld wd 9 5) (fld wd 7 2) (fld wd 5 2)) else if wd % 32 = 20 then some (Instr.axor (fld wd 16 9) (fld wd 14 2) (fld wd 9 5) (fld wd 7 2) (fld wd 5 2)) else if wd % 32 = 24 then some (Instr.aswp (fld wd 16 9) (fld wd 14 2) (fld wd 9 5) (fld wd 7 2) (fld wd 5 2)) else none : Option Instr) = some _
  rw [if_neg hr0, if_neg hr1, if_pos hr, hf0, hf1, hf2, hf3, hf4]

theorem aand (t : BitVec 9) (p : BitVec 2) (n : BitVec 5) (s z : BitVec 2) : Statement (.aand t p n s z) := by
  intro ok
  obtain ⟨wd, hn⟩ : ∃ wd, wd = 0xB000000C + t.toNat * 65536 + p.toNat * 16384 + n.toNat * 512 + s.toNat * 128 + z.toNat * 32 := ⟨_, rfl⟩
  obtain ⟨h32, hm, hr0, hr1, hr2, hr, hf0, hf1, hf2, hf3, hf4⟩ := word36 (m := 88) t p n s z (by decide) rfl hn
  refine of_row ok (congrArg (fun k => some (BitVec.ofNat 32 k)) hn.symm) h32 ?_
  unfold decodeRow
  rw [hm]
  change (if wd % 32 = 0 then some (Instr.aadd (fld wd 16 9) (fld wd 14 2) (fld wd 9 5) (fld wd 7 2) (fld wd 5 2)) else if wd % 32 = 4 then some (Instr.amin (fld wd 16 9) (fld wd 14 2) (fld wd 9 5) (fld wd 7 2) (fld wd 5 2)) else if wd % 32 = 8 then some (Instr.amax (fld wd 16 9) (fld wd 14 2) (fld wd 9 5) (fld wd 7 2) (fld wd 5 2)) else if wd % 32 = 12 then some (Instr.aand (fld wd 16 9) (fld wd 14 2) (fld wd 9 5) (fld wd 7 2) (fld wd 5 2)) else if wd % 32 = 16 then some (Instr.aor (fld wd 16 9) (fld wd 14 2) (fld wd 9 5) (fld wd 7 2) (fld wd 5 2)) else if wd % 32 = 20 then some (Instr.axor (fld wd 16 9) (fld wd 14 2) (fld wd 9 5) (fld wd 7 2) (fld wd 5 2)) else if wd % 32 = 24 then some (Instr.aswp (fld wd 16 9) (fld wd 14 2) (fld wd 9 5) (fld wd 7 2) (fld wd 5 2)) else none : Option Instr) = some _
  rw [if_neg hr0, if_neg hr1, if_neg hr2, if_pos hr, hf0, hf1, hf2, hf3, hf4]

theorem aor (t : BitVec 9) (p : BitVec 2) (n : BitVec 5) (s z : BitVec 2) : Statement (.aor t p n s z) := by
  intro ok
  obtain ⟨wd, hn⟩ : ∃ wd, wd = 0xB0000010 + t.toNat * 65536 + p.toNat * 16384 + n.toNat * 512 + s.toNat * 128 + z.toNat * 32 := ⟨_, rfl⟩
  obtain ⟨h32, hm, hr0, hr1, hr2, hr3, hr, hf0, hf1, hf2, hf3, hf4⟩ := word37 (m := 88) t p n s z (by decide) rfl hn
  refine of_row ok (congrArg (fun k => some (BitVec.ofNat 32 k)) hn.symm) h32 ?_
  unfold decodeRow
  rw [hm]
  change (if wd % 32 = 0 then some (Instr.aadd (fld wd 16 9) (fld wd 14 2) (fld wd 9 5) (fld wd 7 2) (fld wd 5 2)) else if wd % 32 = 4 then some (Instr.amin (fld wd 16 9) (fld wd 14 2) (fld wd 9 5) (fld wd 7 2) (fld wd 5 2)) else if wd % 32 = 8 then some (Instr.amax (fld wd 16 9) (fld wd 14 2) (fld wd 9 5) (fld wd 7 2) (fld wd 5 2)) else if wd % 32 = 12 then some (Instr.aand (fld wd 16 9) (fld wd 14 2) (fld wd 9 5) (fld wd 7 2) (fld wd 5 2)) else if wd % 32 = 16 then some (Instr.aor (fld wd 16 9) (fld wd 14 2) (fld wd 9 5) (fld wd 7 2) (fld wd 5 2)) else if wd % 32 = 20 then some (Instr.axor (fld wd 16 9) (fld wd 14 2) (fld wd 9 5) (fld wd 7 2) (fld wd 5 2)) else if wd % 32 = 24 then some (Instr.aswp (fld wd 16 9) (fld wd 14 2) (fld wd 9 5) (fld wd 7 2) (fld wd 5 2)) else none : Option Instr) = some _
  rw [if_neg hr0, if_neg hr1, if_neg hr2, if_neg hr3, if_pos hr, hf0, hf1, hf2, hf3, hf4]

theorem axor (t : BitVec 9) (p : BitVec 2) (n : BitVec 5) (s z : BitVec 2) : Statement (.axor t p n s z) := by
  intro ok
  obtain ⟨wd, hn⟩ : ∃ wd, wd = 0xB0000014 + t.toNat * 65536 + p.toNat * 16384 + n.toNat * 512 + s.toNat * 128 + z.toNat * 32 := ⟨_, rfl⟩
  obtain ⟨h32, hm, hr0, hr1, hr2, hr3, hr4, hr, hf0, hf1, hf2, hf3, hf4⟩ := word38 (m := 88) t p n s z (by decide) rfl hn
  refine of_row ok (congrArg (fun k => some (BitVec.ofNat 32 k)) hn.symm) h32 ?_
  unfold decodeRow
  rw [hm]
  change (if wd % 32 = 0 then some (Instr.aadd (fld wd 16 9) (fld wd 14 2) (fld wd 9 5) (fld wd 7 2) (fld wd 5 2)) else if wd % 32 = 4 then some (Instr.amin (fld wd 16 9) (fld wd 14 2) (fld wd 9 5) (fld wd 7 2) (fld wd 5 2)) else if wd % 32 = 8 then some (Instr.amax (fld wd 16 9) (fld wd 14 2) (fld wd 9 5) (fld wd 7 2) (fld wd 5 2)) else if wd % 32 = 12 then some (Instr.aand (fld wd 16 9) (fld wd 14 2) (fld wd 9 5) (fld wd 7 2) (fld wd 5 2)) else if wd % 32 = 16 then some (Instr.aor (fld wd 16 9) (fld wd 14 2) (fld wd 9 5) (fld wd 7 2) (fld wd 5 2)) else if wd % 32 = 20 then some (Instr.axor (fld wd 16 9) (fld wd 14 2) (fld wd 9 5) (fld wd 7 2) (fld wd 5 2)) else if wd % 32 = 24 then some (Instr.aswp (fld wd 16 9) (fld wd 14 2) (fld wd 9 5) (fld wd 7 2) (fld wd 5 2)) else none : Option Instr) = some _
  rw [if_neg hr0, if_neg hr1, if_neg hr2, if_neg hr3, if_neg hr4, if_pos hr, hf0, hf1, hf2, hf3, hf4]

theorem aswp (t : BitVec 9) (p : BitVec 2) (n : BitVec 5) (s z : BitVec 2) : Statement (.aswp t p n s z) := by
  intro ok
  obtain ⟨wd, hn⟩ : ∃ wd, wd = 0xB0000018 + t.toNat * 65536 + p.toNat * 16384 + n.toNat * 512 + s.toNat * 128 + z.toNat * 32 := ⟨_, rfl⟩
  obtain ⟨h32, hm, hr0, hr1, hr2, hr3, hr4, hr5, hr, hf0, hf1, hf2, hf3, hf4⟩ := word39 (m := 88) t p n s z (by decide) rfl hn
  refine of_row ok (congrArg (fun k => some (BitVec.ofNat 32 k)) hn.symm) h32 ?_
  unfold decodeRow
  rw [hm]
  change (if wd % 32 = 0 then some (Instr.aadd (fld wd 16 9) (fld wd 14 2) (fld wd 9 5) (fld wd 7 2) (fld wd 5 2)) else if wd % 32 = 4 then some (Instr.amin (fld wd 16 9) (fld wd 14 2) (fld wd 9 5) (fld wd 7 2) (fld wd 5 2)) else if wd % 32 = 8 then some (Instr.amax (fld wd 16 9) (fld wd 14 2) (fld wd 9 5) (fld wd 7 2) (fld wd 5 2)) else if wd % 32 = 12 then some (Instr.aand (fld wd 16 9) (fld wd 14 2) (fld wd 9 5) (fld wd 7 2) (fld wd 5 2)) else if wd % 32 = 16 then some (Instr.aor (fld wd 16 9) (fld wd 14 2) (fld wd 9 5) (fld wd 7 2) (fld wd 5 2)) else if wd % 32 = 20 then some (Instr.axor (fld wd 16 9) (fld wd 14 2) (fld wd 9 5) (fld wd 7 2) (fld wd 5 2)) else if wd % 32 = 24 then some (Instr.aswp (fld wd 16 9) (fld wd 14 2) (fld wd 9 5) (fld wd 7 2) (fld wd 5 2)) else none : Option Instr) = some _
  rw [if_neg hr0, if_neg hr1, if_neg hr2, if_neg hr3, if_neg hr4, if_neg hr5, if_pos hr, hf0, hf1, hf2, hf3, hf4]

theorem acas (t : BitVec 9) (n : BitVec 5) (s z : BitVec 2) : Statement (.acas t n s z) := by
  intro ok
  obtain ⟨wd, hn⟩ : ∃ wd, wd = 0xB2000000 + t.toNat * 65536 + n.toNat * 512 + s.toNat * 128 + z.toNat * 32 := ⟨_, rfl⟩
  obtain ⟨h32, hm, hr, hf0, hf1, hf2, hf3⟩ := word40 (m := 89) t n s z (by decide) rfl hn
  refine of_row ok (congrArg (fun k => some (BitVec.ofNat 32 k)) hn.symm) h32 ?_
  unfold decodeRow
  rw [hm]
  change (if wd % 32 = 0 ∧ wd / 16384 % 4 = 0 then some (Instr.acas (fld wd 16 9) (fld wd 9 5) (fld wd 7 2) (fld wd 5 2)) else none : Option Instr) = some _
  rw [if_pos hr, hf0, hf1, hf2, hf3]

theorem aaddv (t : BitVec 9) (p : BitVec 2) (n : BitVec 5) (s z : BitVec 2) : Statement (.aaddv t p n s z) := by
  intro ok
  obtain ⟨wd, hn⟩ : ∃ wd, wd = 0xB4000000 + t.toNat * 65536 + p.toNat * 16384 + n.toNat * 512 + s.toNat * 128 + z.toNat * 32 := ⟨_, rfl⟩
  obtain ⟨h32, hm, hr, hf0, hf1, hf2, hf3, hf4⟩ := word33 (m := 90) t p n s z (by decide) rfl hn
  refine of_row ok (congrArg (fun k => some (BitVec.ofNat 32 k)) hn.symm) h32 ?_
  unfold decodeRow
  rw [hm]
  change (if wd % 32 = 0 then some (Instr.aaddv (fld wd 16 9) (fld wd 14 2) (fld wd 9 5) (fld wd 7 2) (fld wd 5 2)) else if wd % 32 = 4 then some (Instr.aminv (fld wd 16 9) (fld wd 14 2) (fld wd 9 5) (fld wd 7 2) (fld wd 5 2)) else if wd % 32 = 8 then some (Instr.amaxv (fld wd 16 9) (fld wd 14 2) (fld wd 9 5) (fld wd 7 2) (fld wd 5 2)) else if wd % 32 = 12 then some (Instr.aandv (fld wd 16 9) (fld wd 14 2) (fld wd 9 5) (fld wd 7 2) (fld wd 5 2)) else if wd % 32 = 16 then some (Instr.aorv (fld wd 16 9) (fld wd 14 2) (fld wd 9 5) (fld wd 7 2) (fld wd 5 2)) else if wd % 32 = 20 then some (Instr.axorv (fld wd 16 9) (fld wd 14 2) (fld wd 9 5) (fld wd 7 2) (fld wd 5 2)) else if wd % 32 = 24 then some (Instr.aswpv (fld wd 16 9) (fld wd 14 2) (fld wd 9 5) (fld wd 7 2) (fld wd 5 2)) else none : Option Instr) = some _
  rw [if_pos hr, hf0, hf1, hf2, hf3, hf4]

theorem aminv (t : BitVec 9) (p : BitVec 2) (n : BitVec 5) (s z : BitVec 2) : Statement (.aminv t p n s z) := by
  intro ok
  obtain ⟨wd, hn⟩ : ∃ wd, wd = 0xB4000004 + t.toNat * 65536 + p.toNat * 16384 + n.toNat * 512 + s.toNat * 128 + z.toNat * 32 := ⟨_, rfl⟩
  obtain ⟨h32, hm, hr0, hr, hf0, hf1, hf2, hf3, hf4⟩ := word34 (m := 90) t p n s z (by decide) rfl hn
  refine of_row ok (congrArg (fun k => some (BitVec.ofNat 32 k)) hn.symm) h32 ?_
  unfold decodeRow
  rw [hm]
  change (if wd % 32 = 0 then some (Instr.aaddv (fld wd 16 9) (fld wd 14 2) (fld wd 9 5) (fld wd 7 2) (fld wd 5 2)) else if wd % 32 = 4 then some (Instr.aminv (fld wd 16 9) (fld wd 14 2) (fld wd 9 5) (fld wd 7 2) (fld wd 5 2)) else if wd % 32 = 8 then some (Instr.amaxv (fld wd 16 9) (fld wd 14 2) (fld wd 9 5) (fld wd 7 2) (fld wd 5 2)) else if wd % 32 = 12 then some (Instr.aandv (fld wd 16 9) (fld wd 14 2) (fld wd 9 5) (fld wd 7 2) (fld wd 5 2)) else if wd % 32 = 16 then some (Instr.aorv (fld wd 16 9) (fld wd 14 2) (fld wd 9 5) (fld wd 7 2) (fld wd 5 2)) else if wd % 32 = 20 then some (Instr.axorv (fld wd 16 9) (fld wd 14 2) (fld wd 9 5) (fld wd 7 2) (fld wd 5 2)) else if wd % 32 = 24 then some (Instr.aswpv (fld wd 16 9) (fld wd 14 2) (fld wd 9 5) (fld wd 7 2) (fld wd 5 2)) else none : Option Instr) = some _
  rw [if_neg hr0, if_pos hr, hf0, hf1, hf2, hf3, hf4]

theorem amaxv (t : BitVec 9) (p : BitVec 2) (n : BitVec 5) (s z : BitVec 2) : Statement (.amaxv t p n s z) := by
  intro ok
  obtain ⟨wd, hn⟩ : ∃ wd, wd = 0xB4000008 + t.toNat * 65536 + p.toNat * 16384 + n.toNat * 512 + s.toNat * 128 + z.toNat * 32 := ⟨_, rfl⟩
  obtain ⟨h32, hm, hr0, hr1, hr, hf0, hf1, hf2, hf3, hf4⟩ := word35 (m := 90) t p n s z (by decide) rfl hn
  refine of_row ok (congrArg (fun k => some (BitVec.ofNat 32 k)) hn.symm) h32 ?_
  unfold decodeRow
  rw [hm]
  change (if wd % 32 = 0 then some (Instr.aaddv (fld wd 16 9) (fld wd 14 2) (fld wd 9 5) (fld wd 7 2) (fld wd 5 2)) else if wd % 32 = 4 then some (Instr.aminv (fld wd 16 9) (fld wd 14 2) (fld wd 9 5) (fld wd 7 2) (fld wd 5 2)) else if wd % 32 = 8 then some (Instr.amaxv (fld wd 16 9) (fld wd 14 2) (fld wd 9 5) (fld wd 7 2) (fld wd 5 2)) else if wd % 32 = 12 then some (Instr.aandv (fld wd 16 9) (fld wd 14 2) (fld wd 9 5) (fld wd 7 2) (fld wd 5 2)) else if wd % 32 = 16 then some (Instr.aorv (fld wd 16 9) (fld wd 14 2) (fld wd 9 5) (fld wd 7 2) (fld wd 5 2)) else if wd % 32 = 20 then some (Instr.axorv (fld wd 16 9) (fld wd 14 2) (fld wd 9 5) (fld wd 7 2) (fld wd 5 2)) else if wd % 32 = 24 then some (Instr.aswpv (fld wd 16 9) (fld wd 14 2) (fld wd 9 5) (fld wd 7 2) (fld wd 5 2)) else none : Option Instr) = some _
  rw [if_neg hr0, if_neg hr1, if_pos hr, hf0, hf1, hf2, hf3, hf4]

theorem aandv (t : BitVec 9) (p : BitVec 2) (n : BitVec 5) (s z : BitVec 2) : Statement (.aandv t p n s z) := by
  intro ok
  obtain ⟨wd, hn⟩ : ∃ wd, wd = 0xB400000C + t.toNat * 65536 + p.toNat * 16384 + n.toNat * 512 + s.toNat * 128 + z.toNat * 32 := ⟨_, rfl⟩
  obtain ⟨h32, hm, hr0, hr1, hr2, hr, hf0, hf1, hf2, hf3, hf4⟩ := word36 (m := 90) t p n s z (by decide) rfl hn
  refine of_row ok (congrArg (fun k => some (BitVec.ofNat 32 k)) hn.symm) h32 ?_
  unfold decodeRow
  rw [hm]
  change (if wd % 32 = 0 then some (Instr.aaddv (fld wd 16 9) (fld wd 14 2) (fld wd 9 5) (fld wd 7 2) (fld wd 5 2)) else if wd % 32 = 4 then some (Instr.aminv (fld wd 16 9) (fld wd 14 2) (fld wd 9 5) (fld wd 7 2) (fld wd 5 2)) else if wd % 32 = 8 then some (Instr.amaxv (fld wd 16 9) (fld wd 14 2) (fld wd 9 5) (fld wd 7 2) (fld wd 5 2)) else if wd % 32 = 12 then some (Instr.aandv (fld wd 16 9) (fld wd 14 2) (fld wd 9 5) (fld wd 7 2) (fld wd 5 2)) else if wd % 32 = 16 then some (Instr.aorv (fld wd 16 9) (fld wd 14 2) (fld wd 9 5) (fld wd 7 2) (fld wd 5 2)) else if wd % 32 = 20 then some (Instr.axorv (fld wd 16 9) (fld wd 14 2) (fld wd 9 5) (fld wd 7 2) (fld wd 5 2)) else if wd % 32 = 24 then some (Instr.aswpv (fld wd 16 9) (fld wd 14 2) (fld wd 9 5) (fld wd 7 2) (fld wd 5 2)) else none : Option Instr) = some _
  rw [if_neg hr0, if_neg hr1, if_neg hr2, if_pos hr, hf0, hf1, hf2, hf3, hf4]

theorem aorv (t : BitVec 9) (p : BitVec 2) (n : BitVec 5) (s z : BitVec 2) : Statement (.aorv t p n s z) := by
  intro ok
  obtain ⟨wd, hn⟩ : ∃ wd, wd = 0xB4000010 + t.toNat * 65536 + p.toNat * 16384 + n.toNat * 512 + s.toNat * 128 + z.toNat * 32 := ⟨_, rfl⟩
  obtain ⟨h32, hm, hr0, hr1, hr2, hr3, hr, hf0, hf1, hf2, hf3, hf4⟩ := word37 (m := 90) t p n s z (by decide) rfl hn
  refine of_row ok (congrArg (fun k => some (BitVec.ofNat 32 k)) hn.symm) h32 ?_
  unfold decodeRow
  rw [hm]
  change (if wd % 32 = 0 then some (Instr.aaddv (fld wd 16 9) (fld wd 14 2) (fld wd 9 5) (fld wd 7 2) (fld wd 5 2)) else if wd % 32 = 4 then some (Instr.aminv (fld wd 16 9) (fld wd 14 2) (fld wd 9 5) (fld wd 7 2) (fld wd 5 2)) else if wd % 32 = 8 then some (Instr.amaxv (fld wd 16 9) (fld wd 14 2) (fld wd 9 5) (fld wd 7 2) (fld wd 5 2)) else if wd % 32 = 12 then some (Instr.aandv (fld wd 16 9) (fld wd 14 2) (fld wd 9 5) (fld wd 7 2) (fld wd 5 2)) else if wd % 32 = 16 then some (Instr.aorv (fld wd 16 9) (fld wd 14 2) (fld wd 9 5) (fld wd 7 2) (fld wd 5 2)) else if wd % 32 = 20 then some (Instr.axorv (fld wd 16 9) (fld wd 14 2) (fld wd 9 5) (fld wd 7 2) (fld wd 5 2)) else if wd % 32 = 24 then some (Instr.aswpv (fld wd 16 9) (fld wd 14 2) (fld wd 9 5) (fld wd 7 2) (fld wd 5 2)) else none : Option Instr) = some _
  rw [if_neg hr0, if_neg hr1, if_neg hr2, if_neg hr3, if_pos hr, hf0, hf1, hf2, hf3, hf4]

theorem axorv (t : BitVec 9) (p : BitVec 2) (n : BitVec 5) (s z : BitVec 2) : Statement (.axorv t p n s z) := by
  intro ok
  obtain ⟨wd, hn⟩ : ∃ wd, wd = 0xB4000014 + t.toNat * 65536 + p.toNat * 16384 + n.toNat * 512 + s.toNat * 128 + z.toNat * 32 := ⟨_, rfl⟩
  obtain ⟨h32, hm, hr0, hr1, hr2, hr3, hr4, hr, hf0, hf1, hf2, hf3, hf4⟩ := word38 (m := 90) t p n s z (by decide) rfl hn
  refine of_row ok (congrArg (fun k => some (BitVec.ofNat 32 k)) hn.symm) h32 ?_
  unfold decodeRow
  rw [hm]
  change (if wd % 32 = 0 then some (Instr.aaddv (fld wd 16 9) (fld wd 14 2) (fld wd 9 5) (fld wd 7 2) (fld wd 5 2)) else if wd % 32 = 4 then some (Instr.aminv (fld wd 16 9) (fld wd 14 2) (fld wd 9 5) (fld wd 7 2) (fld wd 5 2)) else if wd % 32 = 8 then some (Instr.amaxv (fld wd 16 9) (fld wd 14 2) (fld wd 9 5) (fld wd 7 2) (fld wd 5 2)) else if wd % 32 = 12 then some (Instr.aandv (fld wd 16 9) (fld wd 14 2) (fld wd 9 5) (fld wd 7 2) (fld wd 5 2)) else if wd % 32 = 16 then some (Instr.aorv (fld wd 16 9) (fld wd 14 2) (fld wd 9 5) (fld wd 7 2) (fld wd 5 2)) else if wd % 32 = 20 then some (Instr.axorv (fld wd 16 9) (fld wd 14 2) (fld wd 9 5) (fld wd 7 2) (fld wd 5 2)) else if wd % 32 = 24 then some (Instr.aswpv (fld wd 16 9) (fld wd 14 2) (fld wd 9 5) (fld wd 7 2) (fld wd 5 2)) else none : Option Instr) = some _
  rw [if_neg hr0, if_neg hr1, if_neg hr2, if_neg hr3, if_neg hr4, if_pos hr, hf0, hf1, hf2, hf3, hf4]

theorem aswpv (t : BitVec 9) (p : BitVec 2) (n : BitVec 5) (s z : BitVec 2) : Statement (.aswpv t p n s z) := by
  intro ok
  obtain ⟨wd, hn⟩ : ∃ wd, wd = 0xB4000018 + t.toNat * 65536 + p.toNat * 16384 + n.toNat * 512 + s.toNat * 128 + z.toNat * 32 := ⟨_, rfl⟩
  obtain ⟨h32, hm, hr0, hr1, hr2, hr3, hr4, hr5, hr, hf0, hf1, hf2, hf3, hf4⟩ := word39 (m := 90) t p n s z (by decide) rfl hn
  refine of_row ok (congrArg (fun k => some (BitVec.ofNat 32 k)) hn.symm) h32 ?_
  unfold decodeRow
  rw [hm]
  change (if wd % 32 = 0 then some (Instr.aaddv (fld wd 16 9) (fld wd 14 2) (fld wd 9 5) (fld wd 7 2) (fld wd 5 2)) else if wd % 32 = 4 then some (Instr.aminv (fld wd 16 9) (fld wd 14 2) (fld wd 9 5) (fld wd 7 2) (fld wd 5 2)) else if wd % 32 = 8 then some (Instr.amaxv (fld wd 16 9) (fld wd 14 2) (fld wd 9 5) (fld wd 7 2) (fld wd 5 2)) else if wd % 32 = 12 then some (Instr.aandv (fld wd 16 9) (fld wd 14 2) (fld wd 9 5) (fld wd 7 2) (fld wd 5 2)) else if wd % 32 = 16 then some (Instr.aorv (fld wd 16 9) (fld wd 14 2) (fld wd 9 5) (fld wd 7 2) (fld wd 5 2)) else if wd % 32 = 20 then some (Instr.axorv (fld wd 16 9) (fld wd 14 2) (fld wd 9 5) (fld wd 7 2) (fld wd 5 2)) else if wd % 32 = 24 then some (Instr.aswpv (fld wd 16 9) (fld wd 14 2) (fld wd 9 5) (fld wd 7 2) (fld wd 5 2)) else none : Option Instr) = some _
  rw [if_neg hr0, if_neg hr1, if_neg hr2, if_neg hr3, if_neg hr4, if_neg hr5, if_pos hr, hf0, hf1, hf2, hf3, hf4]

theorem afadd (t : BitVec 9) (p : BitVec 2) (n : BitVec 5) (s : BitVec 2) : Statement (.afadd t p n s) := by
  intro ok
  obtain ⟨wd, hn⟩ : ∃ wd, wd = 0xB6000040 + t.toNat * 65536 + p.toNat * 16384 + n.toNat * 512 + s.toNat * 128 := ⟨_, rfl⟩
  obtain ⟨h32, hm, hr, hf0, hf1, hf2, hf3⟩ := word41 (m := 91) t p n s (by decide) rfl hn
  refine of_row ok (congrArg (fun k => some (BitVec.ofNat 32 k)) hn.symm) h32 ?_
  unfold decodeRow
  rw [hm]
  change (if wd % 128 = 64 then some (Instr.afadd (fld wd 16 9) (fld wd 14 2) (fld wd 9 5) (fld wd 7 2)) else none : Option Instr) = some _
  rw [if_pos hr, hf0, hf1, hf2, hf3]

theorem afinit (t v : BitVec 9) (p : BitVec 2) (l x : BitVec 1) : Statement (.afinit t v p l x) := by
  intro ok
  obtain ⟨wd, hn⟩ : ∃ wd, wd = 0xB8000000 + t.toNat * 65536 + v.toNat * 128 + p.toNat * 32 + l.toNat * 2 + x.toNat := ⟨_, rfl⟩
  obtain ⟨h32, hm, hr, hf0, hf1, hf2, hf3, hf4⟩ := word42 (m := 92) t v p l x (by decide) rfl hn
  refine of_row ok (congrArg (fun k => some (BitVec.ofNat 32 k)) hn.symm) h32 ?_
  unfold decodeRow
  rw [hm]
  change (if wd / 4 % 8 = 0 then some (Instr.afinit (fld wd 16 9) (fld wd 7 9) (fld wd 5 2) (fld wd 1 1) (fld wd 0 1)) else none : Option Instr) = some _
  rw [if_pos hr, hf0, hf1, hf2, hf3, hf4]

theorem phase (t : BitVec 9) (p : BitVec 2) (s : BitVec 3) : Statement (.phase t p s) := by
  intro ok
  obtain ⟨wd, hn⟩ : ∃ wd, wd = 0xBA000000 + t.toNat * 65536 + p.toNat * 16384 + s.toNat := ⟨_, rfl⟩
  obtain ⟨h32, hm, hr, hf0, hf1, hf2⟩ := word43 (m := 93) t p s (by decide) rfl hn
  refine of_row ok (congrArg (fun k => some (BitVec.ofNat 32 k)) hn.symm) h32 ?_
  unfold decodeRow
  rw [hm]
  change (if wd / 8 % 2048 = 0 then some (Instr.phase (fld wd 16 9) (fld wd 14 2) (fld wd 0 3)) else none : Option Instr) = some _
  rw [if_pos hr, hf0, hf1, hf2]

theorem fence (t : BitVec 9) (p : BitVec 2) (a w : BitVec 1) : Statement (.fence t p a w) := by
  intro ok
  obtain ⟨wd, hn⟩ : ∃ wd, wd = 0xBC000000 + t.toNat * 65536 + p.toNat * 16384 + a.toNat * 2 + w.toNat := ⟨_, rfl⟩
  obtain ⟨h32, hm, hr, hf0, hf1, hf2, hf3⟩ := word44 (m := 94) t p a w (by decide) rfl hn
  refine of_row ok (congrArg (fun k => some (BitVec.ofNat 32 k)) hn.symm) h32 ?_
  unfold decodeRow
  rw [hm]
  change (if wd / 4 % 4096 = 0 then some (Instr.fence (fld wd 16 9) (fld wd 14 2) (fld wd 1 1) (fld wd 0 1)) else none : Option Instr) = some _
  rw [if_pos hr, hf0, hf1, hf2, hf3]

theorem publish (t v : BitVec 9) (p : BitVec 2) (x : BitVec 1) : Statement (.publish t v p x) := by
  intro ok
  obtain ⟨wd, hn⟩ : ∃ wd, wd = 0xBE000000 + t.toNat * 65536 + v.toNat * 128 + p.toNat * 32 + x.toNat := ⟨_, rfl⟩
  obtain ⟨h32, hm, hr, hf0, hf1, hf2, hf3⟩ := word45 (m := 95) t v p x (by decide) rfl hn
  refine of_row ok (congrArg (fun k => some (BitVec.ofNat 32 k)) hn.symm) h32 ?_
  unfold decodeRow
  rw [hm]
  change (if wd / 2 % 16 = 0 then some (Instr.publish (fld wd 16 9) (fld wd 7 9) (fld wd 5 2) (fld wd 0 1)) else none : Option Instr) = some _
  rw [if_pos hr, hf0, hf1, hf2, hf3]

theorem mda (t : BitVec 9) (n p : BitVec 2) : Statement (.mda t n p) := by
  intro ok
  obtain ⟨wd, hn⟩ : ∃ wd, wd = 0xC0000000 + t.toNat * 65536 + n.toNat * 128 + p.toNat * 32 := ⟨_, rfl⟩
  obtain ⟨h32, hm, hr, hf0, hf1, hf2⟩ := word46 (m := 96) t n p (by decide) rfl hn
  refine of_row ok (congrArg (fun k => some (BitVec.ofNat 32 k)) hn.symm) h32 ?_
  unfold decodeRow
  rw [hm]
  change (if wd % 32 = 0 ∧ wd / 512 % 128 = 0 then some (Instr.mda (fld wd 16 9) (fld wd 7 2) (fld wd 5 2)) else if wd % 32 = 0 ∧ wd / 512 % 128 = 1 then some (Instr.mdb (fld wd 16 9) (fld wd 7 2) (fld wd 5 2)) else none : Option Instr) = some _
  rw [if_pos hr, hf0, hf1, hf2]

theorem mdb (t : BitVec 9) (n p : BitVec 2) : Statement (.mdb t n p) := by
  intro ok
  obtain ⟨wd, hn⟩ : ∃ wd, wd = 0xC0000200 + t.toNat * 65536 + n.toNat * 128 + p.toNat * 32 := ⟨_, rfl⟩
  obtain ⟨h32, hm, hr0, hr, hf0, hf1, hf2⟩ := word47 (m := 96) t n p (by decide) rfl hn
  refine of_row ok (congrArg (fun k => some (BitVec.ofNat 32 k)) hn.symm) h32 ?_
  unfold decodeRow
  rw [hm]
  change (if wd % 32 = 0 ∧ wd / 512 % 128 = 0 then some (Instr.mda (fld wd 16 9) (fld wd 7 2) (fld wd 5 2)) else if wd % 32 = 0 ∧ wd / 512 % 128 = 1 then some (Instr.mdb (fld wd 16 9) (fld wd 7 2) (fld wd 5 2)) else none : Option Instr) = some _
  rw [if_neg hr0, if_pos hr, hf0, hf1, hf2]

theorem mma (t : BitVec 9) (b a p : BitVec 2) (s : BitVec 1) : Statement (.mma t b a p s) := by
  intro ok
  obtain ⟨wd, hn⟩ : ∃ wd, wd = 0xC2000000 + t.toNat * 65536 + b.toNat * 512 + a.toNat * 128 + p.toNat * 32 + s.toNat * 16 := ⟨_, rfl⟩
  obtain ⟨h32, hm, hr, hf0, hf1, hf2, hf3, hf4⟩ := word48 (m := 97) t b a p s (by decide) rfl hn
  refine of_row ok (congrArg (fun k => some (BitVec.ofNat 32 k)) hn.symm) h32 ?_
  unfold decodeRow
  rw [hm]
  change (if wd % 16 = 0 ∧ wd / 2048 % 32 = 0 then some (Instr.mma (fld wd 16 9) (fld wd 9 2) (fld wd 7 2) (fld wd 5 2) (fld wd 4 1)) else none : Option Instr) = some _
  rw [if_pos hr, hf0, hf1, hf2, hf3, hf4]

theorem accrd (t : BitVec 9) (p : BitVec 2) : Statement (.accrd t p) := by
  intro ok
  obtain ⟨wd, hn⟩ : ∃ wd, wd = 0xC4000000 + t.toNat * 65536 + p.toNat * 32 := ⟨_, rfl⟩
  obtain ⟨h32, hm, hr, hf0, hf1⟩ := word49 (m := 98) t p (by decide) rfl hn
  refine of_row ok (congrArg (fun k => some (BitVec.ofNat 32 k)) hn.symm) h32 ?_
  unfold decodeRow
  rw [hm]
  change (if wd % 32 = 0 ∧ wd / 128 % 512 = 0 then some (Instr.accrd (fld wd 16 9) (fld wd 5 2)) else if wd % 32 = 0 ∧ wd / 128 % 512 = 1 then some (Instr.accwr (fld wd 16 9) (fld wd 5 2)) else none : Option Instr) = some _
  rw [if_pos hr, hf0, hf1]

theorem accwr (t : BitVec 9) (p : BitVec 2) : Statement (.accwr t p) := by
  intro ok
  obtain ⟨wd, hn⟩ : ∃ wd, wd = 0xC4000080 + t.toNat * 65536 + p.toNat * 32 := ⟨_, rfl⟩
  obtain ⟨h32, hm, hr0, hr, hf0, hf1⟩ := word50 (m := 98) t p (by decide) rfl hn
  refine of_row ok (congrArg (fun k => some (BitVec.ofNat 32 k)) hn.symm) h32 ?_
  unfold decodeRow
  rw [hm]
  change (if wd % 32 = 0 ∧ wd / 128 % 512 = 0 then some (Instr.accrd (fld wd 16 9) (fld wd 5 2)) else if wd % 32 = 0 ∧ wd / 128 % 512 = 1 then some (Instr.accwr (fld wd 16 9) (fld wd 5 2)) else none : Option Instr) = some _
  rw [if_neg hr0, if_pos hr, hf0, hf1]

theorem accz (t : BitVec 9) (p : BitVec 2) : Statement (.accz t p) := by
  intro ok
  obtain ⟨wd, hn⟩ : ∃ wd, wd = 0xC6000000 + t.toNat * 65536 + p.toNat * 32 := ⟨_, rfl⟩
  obtain ⟨h32, hm, hr, hf0, hf1⟩ := word49 (m := 99) t p (by decide) rfl hn
  refine of_row ok (congrArg (fun k => some (BitVec.ofNat 32 k)) hn.symm) h32 ?_
  unfold decodeRow
  rw [hm]
  change (if wd % 32 = 0 ∧ wd / 128 % 512 = 0 then some (Instr.accz (fld wd 16 9) (fld wd 5 2)) else none : Option Instr) = some _
  rw [if_pos hr, hf0, hf1]

theorem kld (t : BitVec 9) (k : BitVec 3) (p : BitVec 2) : Statement (.kld t k p) := by
  intro ok
  obtain ⟨wd, hn⟩ : ∃ wd, wd = 0xC8000000 + t.toNat * 65536 + k.toNat * 128 + p.toNat * 32 := ⟨_, rfl⟩
  obtain ⟨h32, hm, hr, hf0, hf1, hf2⟩ := word51 (m := 100) t k p (by decide) rfl hn
  refine of_row ok (congrArg (fun k => some (BitVec.ofNat 32 k)) hn.symm) h32 ?_
  unfold decodeRow
  rw [hm]
  change (if wd % 32 = 0 ∧ wd / 1024 % 64 = 0 then some (Instr.kld (fld wd 16 9) (fld wd 7 3) (fld wd 5 2)) else none : Option Instr) = some _
  rw [if_pos hr, hf0, hf1, hf2]

theorem drain (t : BitVec 9) (p : BitVec 2) : Statement (.drain t p) := by
  intro ok
  obtain ⟨wd, hn⟩ : ∃ wd, wd = 0xCA000000 + t.toNat * 65536 + p.toNat * 32 := ⟨_, rfl⟩
  obtain ⟨h32, hm, hr, hf0, hf1⟩ := word49 (m := 101) t p (by decide) rfl hn
  refine of_row ok (congrArg (fun k => some (BitVec.ofNat 32 k)) hn.symm) h32 ?_
  unfold decodeRow
  rw [hm]
  change (if wd % 32 = 0 ∧ wd / 128 % 512 = 0 then some (Instr.drain (fld wd 16 9) (fld wd 5 2)) else none : Option Instr) = some _
  rw [if_pos hr, hf0, hf1]

theorem rtset (t : BitVec 9) (r : BitVec 4) (p : BitVec 2) : Statement (.rtset t r p) := by
  intro ok
  obtain ⟨wd, hn⟩ : ∃ wd, wd = 0xCC000000 + t.toNat * 65536 + r.toNat * 128 + p.toNat * 32 := ⟨_, rfl⟩
  obtain ⟨h32, hm, hr, hf0, hf1, hf2⟩ := word52 (m := 102) t r p (by decide) rfl hn
  refine of_row ok (congrArg (fun k => some (BitVec.ofNat 32 k)) hn.symm) h32 ?_
  unfold decodeRow
  rw [hm]
  change (if wd % 32 = 0 ∧ wd / 2048 % 32 = 0 then some (Instr.rtset (fld wd 16 9) (fld wd 7 4) (fld wd 5 2)) else none : Option Instr) = some _
  rw [if_pos hr, hf0, hf1, hf2]

theorem mstat (t : BitVec 9) (p : BitVec 2) (c : BitVec 1) (e : BitVec 2) : Statement (.mstat t p c e) := by
  intro ok
  obtain ⟨wd, hn⟩ : ∃ wd, wd = 0xCE000000 + t.toNat * 65536 + p.toNat * 32 + c.toNat * 4 + e.toNat := ⟨_, rfl⟩
  obtain ⟨h32, hm, hr, hf0, hf1, hf2, hf3⟩ := word53 (m := 103) t p c e (by decide) rfl hn
  refine of_row ok (congrArg (fun k => some (BitVec.ofNat 32 k)) hn.symm) h32 ?_
  unfold decodeRow
  rw [hm]
  change (if wd / 8 % 4 = 0 ∧ wd / 128 % 512 = 0 then some (Instr.mstat (fld wd 16 9) (fld wd 5 2) (fld wd 2 1) (fld wd 0 2)) else none : Option Instr) = some _
  rw [if_pos hr, hf0, hf1, hf2, hf3]

theorem lcfg (t : BitVec 9) (n : BitVec 3) (p : BitVec 2) : Statement (.lcfg t n p) := by
  intro ok
  obtain ⟨wd, hn⟩ : ∃ wd, wd = 0xD0000000 + t.toNat * 65536 + n.toNat * 128 + p.toNat * 32 := ⟨_, rfl⟩
  obtain ⟨h32, hm, hr, hf0, hf1, hf2⟩ := word51 (m := 104) t n p (by decide) rfl hn
  refine of_row ok (congrArg (fun k => some (BitVec.ofNat 32 k)) hn.symm) h32 ?_
  unfold decodeRow
  rw [hm]
  change (if wd % 32 = 0 ∧ wd / 1024 % 64 = 0 then some (Instr.lcfg (fld wd 16 9) (fld wd 7 3) (fld wd 5 2)) else none : Option Instr) = some _
  rw [if_pos hr, hf0, hf1, hf2]

theorem lrun (t : BitVec 9) (n : BitVec 3) (p : BitVec 2) (s i o : BitVec 1) (r : BitVec 2) : Statement (.lrun t n p s i o r) := by
  intro ok
  obtain ⟨wd, hn⟩ : ∃ wd, wd = 0xD2000000 + t.toNat * 65536 + n.toNat * 128 + p.toNat * 32 + s.toNat * 16 + i.toNat * 8 + o.toNat * 4 + r.toNat := ⟨_, rfl⟩
  obtain ⟨h32, hm, hr, hf0, hf1, hf2, hf3, hf4, hf5, hf6⟩ := word54 (m := 105) t n p s i o r (by decide) rfl hn
  refine of_row ok (congrArg (fun k => some (BitVec.ofNat 32 k)) hn.symm) h32 ?_
  unfold decodeRow
  rw [hm]
  change (if wd / 1024 % 64 = 0 then some (Instr.lrun (fld wd 16 9) (fld wd 7 3) (fld wd 5 2) (fld wd 4 1) (fld wd 3 1) (fld wd 2 1) (fld wd 0 2)) else none : Option Instr) = some _
  rw [if_pos hr, hf0, hf1, hf2, hf3, hf4, hf5, hf6]

theorem lwait (t : BitVec 9) (p : BitVec 2) (y : BitVec 1) : Statement (.lwait t p y) := by
  intro ok
  obtain ⟨wd, hn⟩ : ∃ wd, wd = 0xD4000000 + t.toNat * 65536 + p.toNat * 32 + y.toNat * 16 := ⟨_, rfl⟩
  obtain ⟨h32, hm, hr, hf0, hf1, hf2⟩ := word55 (m := 106) t p y (by decide) rfl hn
  refine of_row ok (congrArg (fun k => some (BitVec.ofNat 32 k)) hn.symm) h32 ?_
  unfold decodeRow
  rw [hm]
  change (if wd % 16 = 0 ∧ wd / 128 % 512 = 0 then some (Instr.lwait (fld wd 16 9) (fld wd 5 2) (fld wd 4 1)) else none : Option Instr) = some _
  rw [if_pos hr, hf0, hf1, hf2]

theorem lstat (t : BitVec 9) (p : BitVec 2) (c : BitVec 1) (e : BitVec 2) : Statement (.lstat t p c e) := by
  intro ok
  obtain ⟨wd, hn⟩ : ∃ wd, wd = 0xD6000000 + t.toNat * 65536 + p.toNat * 32 + c.toNat * 4 + e.toNat := ⟨_, rfl⟩
  obtain ⟨h32, hm, hr, hf0, hf1, hf2, hf3⟩ := word53 (m := 107) t p c e (by decide) rfl hn
  refine of_row ok (congrArg (fun k => some (BitVec.ofNat 32 k)) hn.symm) h32 ?_
  unfold decodeRow
  rw [hm]
  change (if wd / 8 % 4 = 0 ∧ wd / 128 % 512 = 0 then some (Instr.lstat (fld wd 16 9) (fld wd 5 2) (fld wd 2 1) (fld wd 0 2)) else none : Option Instr) = some _
  rw [if_pos hr, hf0, hf1, hf2, hf3]

theorem steer (t v : BitVec 9) : Statement (.steer t v) := by
  intro ok
  obtain ⟨wd, hn⟩ : ∃ wd, wd = 0xE0000000 + t.toNat * 65536 + v.toNat * 128 := ⟨_, rfl⟩
  obtain ⟨h32, hm, hr, hf0, hf1⟩ := word7 (m := 112) t v (by decide) rfl hn
  refine of_row ok (congrArg (fun k => some (BitVec.ofNat 32 k)) hn.symm) h32 ?_
  unfold decodeRow
  rw [hm]
  change (if wd % 128 = 0 then some (Instr.steer (fld wd 16 9) (fld wd 7 9)) else none : Option Instr) = some _
  rw [if_pos hr, hf0, hf1]

theorem merge (t v : BitVec 9) : Statement (.merge t v) := by
  intro ok
  obtain ⟨wd, hn⟩ : ∃ wd, wd = 0xE2000000 + t.toNat * 65536 + v.toNat * 128 := ⟨_, rfl⟩
  obtain ⟨h32, hm, hr, hf0, hf1⟩ := word7 (m := 113) t v (by decide) rfl hn
  refine of_row ok (congrArg (fun k => some (BitVec.ofNat 32 k)) hn.symm) h32 ?_
  unfold decodeRow
  rw [hm]
  change (if wd % 128 = 0 then some (Instr.merge (fld wd 16 9) (fld wd 7 9)) else none : Option Instr) = some _
  rw [if_pos hr, hf0, hf1]

theorem carry (t v : BitVec 9) : Statement (.carry t v) := by
  intro ok
  obtain ⟨wd, hn⟩ : ∃ wd, wd = 0xE4000000 + t.toNat * 65536 + v.toNat * 128 := ⟨_, rfl⟩
  obtain ⟨h32, hm, hr, hf0, hf1⟩ := word7 (m := 114) t v (by decide) rfl hn
  refine of_row ok (congrArg (fun k => some (BitVec.ofNat 32 k)) hn.symm) h32 ?_
  unfold decodeRow
  rw [hm]
  change (if wd % 128 = 0 then some (Instr.carry (fld wd 16 9) (fld wd 7 9)) else none : Option Instr) = some _
  rw [if_pos hr, hf0, hf1]

theorem invar (t v : BitVec 9) : Statement (.invar t v) := by
  intro ok
  obtain ⟨wd, hn⟩ : ∃ wd, wd = 0xE6000000 + t.toNat * 65536 + v.toNat * 128 := ⟨_, rfl⟩
  obtain ⟨h32, hm, hr, hf0, hf1⟩ := word7 (m := 115) t v (by decide) rfl hn
  refine of_row ok (congrArg (fun k => some (BitVec.ofNat 32 k)) hn.symm) h32 ?_
  unfold decodeRow
  rw [hm]
  change (if wd % 128 = 0 then some (Instr.invar (fld wd 16 9) (fld wd 7 9)) else none : Option Instr) = some _
  rw [if_pos hr, hf0, hf1]

theorem rrmerge (t v : BitVec 9) (b : BitVec 1) : Statement (.rrmerge t v b) := by
  intro ok
  obtain ⟨wd, hn⟩ : ∃ wd, wd = 0xE8000000 + t.toNat * 65536 + v.toNat * 128 + b.toNat := ⟨_, rfl⟩
  obtain ⟨h32, hm, hr, hf0, hf1, hf2⟩ := word56 (m := 116) t v b (by decide) rfl hn
  refine of_row ok (congrArg (fun k => some (BitVec.ofNat 32 k)) hn.symm) h32 ?_
  unfold decodeRow
  rw [hm]
  change (if wd / 2 % 64 = 0 then some (Instr.rrmerge (fld wd 16 9) (fld wd 7 9) (fld wd 0 1)) else none : Option Instr) = some _
  rw [if_pos hr, hf0, hf1, hf2]

theorem hset (t : BitVec 9) (p : BitVec 2) : Statement (.hset t p) := by
  intro ok
  obtain ⟨wd, hn⟩ : ∃ wd, wd = 0xF0000080 + t.toNat * 65536 + p.toNat * 32 := ⟨_, rfl⟩
  obtain ⟨h32, hm, hx, hr, hf0, hf1⟩ := word57 (m := 120) (e := 1) t p (by decide) (by decide) rfl hn
  refine of_row ok (congrArg (fun k => some (BitVec.ofNat 32 k)) hn.symm) h32 ?_
  rw [row78 hm]
  unfold decodeGroup78
  rw [hx]
  change (if wd % 32 = 0 then some (Instr.hset (fld wd 16 9) (fld wd 5 2)) else none : Option Instr) = some _
  rw [if_pos hr, hf0, hf1]

theorem hmask (t : BitVec 9) (p : BitVec 2) (m : BitVec 1) : Statement (.hmask t p m) := by
  intro ok
  obtain ⟨wd, hn⟩ : ∃ wd, wd = 0xF0000100 + t.toNat * 65536 + p.toNat * 32 + m.toNat := ⟨_, rfl⟩
  obtain ⟨h32, hm, hx, hr, hf0, hf1, hf2⟩ := word58 (m := 120) (e := 2) t p m (by decide) (by decide) rfl hn
  refine of_row ok (congrArg (fun k => some (BitVec.ofNat 32 k)) hn.symm) h32 ?_
  rw [row78 hm]
  unfold decodeGroup78
  rw [hx]
  change (if wd / 2 % 16 = 0 then some (Instr.hmask (fld wd 16 9) (fld wd 5 2) (fld wd 0 1)) else none : Option Instr) = some _
  rw [if_pos hr, hf0, hf1, hf2]

theorem hclr (t : BitVec 9) (p : BitVec 2) (d : BitVec 1) : Statement (.hclr t p d) := by
  intro ok
  obtain ⟨wd, hn⟩ : ∃ wd, wd = 0xF0000180 + t.toNat * 65536 + p.toNat * 32 + d.toNat := ⟨_, rfl⟩
  obtain ⟨h32, hm, hx, hr, hf0, hf1, hf2⟩ := word58 (m := 120) (e := 3) t p d (by decide) (by decide) rfl hn
  refine of_row ok (congrArg (fun k => some (BitVec.ofNat 32 k)) hn.symm) h32 ?_
  rw [row78 hm]
  unfold decodeGroup78
  rw [hx]
  change (if wd / 2 % 16 = 0 then some (Instr.hclr (fld wd 16 9) (fld wd 5 2) (fld wd 0 1)) else none : Option Instr) = some _
  rw [if_pos hr, hf0, hf1, hf2]

theorem chsend (t : BitVec 9) (p : BitVec 2) : Statement (.chsend t p) := by
  intro ok
  obtain ⟨wd, hn⟩ : ∃ wd, wd = 0xF0000200 + t.toNat * 65536 + p.toNat * 32 := ⟨_, rfl⟩
  obtain ⟨h32, hm, hx, hr, hf0, hf1⟩ := word57 (m := 120) (e := 4) t p (by decide) (by decide) rfl hn
  refine of_row ok (congrArg (fun k => some (BitVec.ofNat 32 k)) hn.symm) h32 ?_
  rw [row78 hm]
  unfold decodeGroup78
  rw [hx]
  change (if wd % 32 = 0 then some (Instr.chsend (fld wd 16 9) (fld wd 5 2)) else none : Option Instr) = some _
  rw [if_pos hr, hf0, hf1]

theorem chmcast (t : BitVec 9) (p : BitVec 2) : Statement (.chmcast t p) := by
  intro ok
  obtain ⟨wd, hn⟩ : ∃ wd, wd = 0xF0000280 + t.toNat * 65536 + p.toNat * 32 := ⟨_, rfl⟩
  obtain ⟨h32, hm, hx, hr, hf0, hf1⟩ := word57 (m := 120) (e := 5) t p (by decide) (by decide) rfl hn
  refine of_row ok (congrArg (fun k => some (BitVec.ofNat 32 k)) hn.symm) h32 ?_
  rw [row78 hm]
  unfold decodeGroup78
  rw [hx]
  change (if wd % 32 = 0 then some (Instr.chmcast (fld wd 16 9) (fld wd 5 2)) else none : Option Instr) = some _
  rw [if_pos hr, hf0, hf1]

theorem inrd (t : BitVec 9) (p : BitVec 2) (c y : BitVec 1) : Statement (.inrd t p c y) := by
  intro ok
  obtain ⟨wd, hn⟩ : ∃ wd, wd = 0xF0000300 + t.toNat * 65536 + p.toNat * 32 + c.toNat * 16 + y.toNat * 8 := ⟨_, rfl⟩
  obtain ⟨h32, hm, hx, hr, hf0, hf1, hf2, hf3⟩ := word59 (m := 120) (e := 6) t p c y (by decide) (by decide) rfl hn
  refine of_row ok (congrArg (fun k => some (BitVec.ofNat 32 k)) hn.symm) h32 ?_
  rw [row78 hm]
  unfold decodeGroup78
  rw [hx]
  change (if wd % 8 = 0 then some (Instr.inrd (fld wd 16 9) (fld wd 5 2) (fld wd 4 1) (fld wd 3 1)) else none : Option Instr) = some _
  rw [if_pos hr, hf0, hf1, hf2, hf3]

theorem bara (t : BitVec 9) (p : BitVec 2) (b : BitVec 4) : Statement (.bara t p b) := by
  intro ok
  obtain ⟨wd, hn⟩ : ∃ wd, wd = 0xF0000380 + t.toNat * 65536 + p.toNat * 32 + b.toNat := ⟨_, rfl⟩
  obtain ⟨h32, hm, hx, hr, hf0, hf1, hf2⟩ := word60 (m := 120) (e := 7) t p b (by decide) (by decide) rfl hn
  refine of_row ok (congrArg (fun k => some (BitVec.ofNat 32 k)) hn.symm) h32 ?_
  rw [row78 hm]
  unfold decodeGroup78
  rw [hx]
  change (if wd / 16 % 2 = 0 then some (Instr.bara (fld wd 16 9) (fld wd 5 2) (fld wd 0 4)) else none : Option Instr) = some _
  rw [if_pos hr, hf0, hf1, hf2]

theorem barw (t : BitVec 9) (p : BitVec 2) (b : BitVec 4) : Statement (.barw t p b) := by
  intro ok
  obtain ⟨wd, hn⟩ : ∃ wd, wd = 0xF0000400 + t.toNat * 65536 + p.toNat * 32 + b.toNat := ⟨_, rfl⟩
  obtain ⟨h32, hm, hx, hr, hf0, hf1, hf2⟩ := word60 (m := 120) (e := 8) t p b (by decide) (by decide) rfl hn
  refine of_row ok (congrArg (fun k => some (BitVec.ofNat 32 k)) hn.symm) h32 ?_
  rw [row78 hm]
  unfold decodeGroup78
  rw [hx]
  change (if wd / 16 % 2 = 0 then some (Instr.barw (fld wd 16 9) (fld wd 5 2) (fld wd 0 4)) else none : Option Instr) = some _
  rw [if_pos hr, hf0, hf1, hf2]

theorem chapp (t : BitVec 9) (p : BitVec 2) : Statement (.chapp t p) := by
  intro ok
  obtain ⟨wd, hn⟩ : ∃ wd, wd = 0xF0000480 + t.toNat * 65536 + p.toNat * 32 := ⟨_, rfl⟩
  obtain ⟨h32, hm, hx, hr, hf0, hf1⟩ := word57 (m := 120) (e := 9) t p (by decide) (by decide) rfl hn
  refine of_row ok (congrArg (fun k => some (BitVec.ofNat 32 k)) hn.symm) h32 ?_
  rw [row78 hm]
  unfold decodeGroup78
  rw [hx]
  change (if wd % 32 = 0 then some (Instr.chapp (fld wd 16 9) (fld wd 5 2)) else none : Option Instr) = some _
  rw [if_pos hr, hf0, hf1]

theorem seqwait (t : BitVec 9) (p : BitVec 2) (c : BitVec 5) : Statement (.seqwait t p c) := by
  intro ok
  obtain ⟨wd, hn⟩ : ∃ wd, wd = 0xF0000500 + t.toNat * 65536 + p.toNat * 32 + c.toNat := ⟨_, rfl⟩
  obtain ⟨h32, hm, hx, hf0, hf1, hf2⟩ := word61 (m := 120) (e := 10) t p c (by decide) (by decide) rfl hn
  refine of_row ok (congrArg (fun k => some (BitVec.ofNat 32 k)) hn.symm) h32 ?_
  rw [row78 hm]
  unfold decodeGroup78
  rw [hx]
  change (some (Instr.seqwait (fld wd 16 9) (fld wd 5 2) (fld wd 0 5)) : Option Instr) = some _
  rw [hf0, hf1, hf2]

theorem seqrd (t : BitVec 9) (p : BitVec 2) : Statement (.seqrd t p) := by
  intro ok
  obtain ⟨wd, hn⟩ : ∃ wd, wd = 0xF0000580 + t.toNat * 65536 + p.toNat * 32 := ⟨_, rfl⟩
  obtain ⟨h32, hm, hx, hr, hf0, hf1⟩ := word57 (m := 120) (e := 11) t p (by decide) (by decide) rfl hn
  refine of_row ok (congrArg (fun k => some (BitVec.ofNat 32 k)) hn.symm) h32 ?_
  rw [row78 hm]
  unfold decodeGroup78
  rw [hx]
  change (if wd % 32 = 0 then some (Instr.seqrd (fld wd 16 9) (fld wd 5 2)) else none : Option Instr) = some _
  rw [if_pos hr, hf0, hf1]

theorem park (p : BitVec 2) (x : BitVec 3) : Statement (.park p x) := by
  intro ok
  obtain ⟨wd, hn⟩ : ∃ wd, wd = 0xF0000600 + p.toNat * 32 + x.toNat := ⟨_, rfl⟩
  obtain ⟨h32, hm, hx, hr, hf0, hf1⟩ := word62 (m := 120) (e := 12) p x (by decide) (by decide) rfl hn
  refine of_row ok (congrArg (fun k => some (BitVec.ofNat 32 k)) hn.symm) h32 ?_
  rw [row78 hm]
  unfold decodeGroup78
  rw [hx]
  change (if wd / 8 % 4 = 0 ∧ wd / 65536 % 512 = 0 then some (Instr.park (fld wd 5 2) (fld wd 0 3)) else none : Option Instr) = some _
  rw [if_pos hr, hf0, hf1]

theorem wgrpDef (t : BitVec 9) (p : BitVec 2) : Statement (.wgrpDef t p) := by
  intro ok
  obtain ⟨wd, hn⟩ : ∃ wd, wd = 0xF2000080 + t.toNat * 65536 + p.toNat * 32 := ⟨_, rfl⟩
  obtain ⟨h32, hm, hx, hr, hf0, hf1⟩ := word57 (m := 121) (e := 1) t p (by decide) (by decide) rfl hn
  refine of_row ok (congrArg (fun k => some (BitVec.ofNat 32 k)) hn.symm) h32 ?_
  rw [row79 hm]
  unfold decodeGroup79
  rw [hx]
  change (if wd % 32 = 0 then some (Instr.wgrpDef (fld wd 16 9) (fld wd 5 2)) else if wd % 32 = 1 then some (Instr.wgrpPresent (fld wd 16 9) (fld wd 5 2)) else if wd % 32 = 2 then some (Instr.wgrpRel (fld wd 16 9) (fld wd 5 2)) else none : Option Instr) = some _
  rw [if_pos hr, hf0, hf1]

theorem wgrpPresent (t : BitVec 9) (p : BitVec 2) : Statement (.wgrpPresent t p) := by
  intro ok
  obtain ⟨wd, hn⟩ : ∃ wd, wd = 0xF2000081 + t.toNat * 65536 + p.toNat * 32 := ⟨_, rfl⟩
  obtain ⟨h32, hm, hx, hr0, hr, hf0, hf1⟩ := word63 (m := 121) (e := 1) t p (by decide) (by decide) rfl hn
  refine of_row ok (congrArg (fun k => some (BitVec.ofNat 32 k)) hn.symm) h32 ?_
  rw [row79 hm]
  unfold decodeGroup79
  rw [hx]
  change (if wd % 32 = 0 then some (Instr.wgrpDef (fld wd 16 9) (fld wd 5 2)) else if wd % 32 = 1 then some (Instr.wgrpPresent (fld wd 16 9) (fld wd 5 2)) else if wd % 32 = 2 then some (Instr.wgrpRel (fld wd 16 9) (fld wd 5 2)) else none : Option Instr) = some _
  rw [if_neg hr0, if_pos hr, hf0, hf1]

theorem wgrpRel (t : BitVec 9) (p : BitVec 2) : Statement (.wgrpRel t p) := by
  intro ok
  obtain ⟨wd, hn⟩ : ∃ wd, wd = 0xF2000082 + t.toNat * 65536 + p.toNat * 32 := ⟨_, rfl⟩
  obtain ⟨h32, hm, hx, hr0, hr1, hr, hf0, hf1⟩ := word64 (m := 121) (e := 1) t p (by decide) (by decide) rfl hn
  refine of_row ok (congrArg (fun k => some (BitVec.ofNat 32 k)) hn.symm) h32 ?_
  rw [row79 hm]
  unfold decodeGroup79
  rw [hx]
  change (if wd % 32 = 0 then some (Instr.wgrpDef (fld wd 16 9) (fld wd 5 2)) else if wd % 32 = 1 then some (Instr.wgrpPresent (fld wd 16 9) (fld wd 5 2)) else if wd % 32 = 2 then some (Instr.wgrpRel (fld wd 16 9) (fld wd 5 2)) else none : Option Instr) = some _
  rw [if_neg hr0, if_neg hr1, if_pos hr, hf0, hf1]

theorem wld (t : BitVec 9) (p : BitVec 2) (k : BitVec 1) (y o : BitVec 2) : Statement (.wld t p k y o) := by
  intro ok
  obtain ⟨wd, hn⟩ : ∃ wd, wd = 0xF2000100 + t.toNat * 65536 + p.toNat * 32 + k.toNat * 16 + y.toNat * 4 + o.toNat := ⟨_, rfl⟩
  obtain ⟨h32, hm, hx, hf0, hf1, hf2, hf3, hf4⟩ := word65 (m := 121) (e := 2) t p k y o (by decide) (by decide) rfl hn
  refine of_row ok (congrArg (fun k => some (BitVec.ofNat 32 k)) hn.symm) h32 ?_
  rw [row79 hm]
  unfold decodeGroup79
  rw [hx]
  change (some (Instr.wld (fld wd 16 9) (fld wd 5 2) (fld wd 4 1) (fld wd 2 2) (fld wd 0 2)) : Option Instr) = some _
  rw [hf0, hf1, hf2, hf3, hf4]

theorem wlds (t : BitVec 9) (p y o : BitVec 2) : Statement (.wlds t p y o) := by
  intro ok
  obtain ⟨wd, hn⟩ : ∃ wd, wd = 0xF2000180 + t.toNat * 65536 + p.toNat * 32 + y.toNat * 4 + o.toNat := ⟨_, rfl⟩
  obtain ⟨h32, hm, hx, hr, hf0, hf1, hf2, hf3⟩ := word66 (m := 121) (e := 3) t p y o (by decide) (by decide) rfl hn
  refine of_row ok (congrArg (fun k => some (BitVec.ofNat 32 k)) hn.symm) h32 ?_
  rw [row79 hm]
  unfold decodeGroup79
  rw [hx]
  change (if wd / 16 % 2 = 0 then some (Instr.wlds (fld wd 16 9) (fld wd 5 2) (fld wd 2 2) (fld wd 0 2)) else none : Option Instr) = some _
  rw [if_pos hr, hf0, hf1, hf2, hf3]

theorem wstat (t : BitVec 9) (p : BitVec 2) (c : BitVec 1) : Statement (.wstat t p c) := by
  intro ok
  obtain ⟨wd, hn⟩ : ∃ wd, wd = 0xF2000200 + t.toNat * 65536 + p.toNat * 32 + c.toNat := ⟨_, rfl⟩
  obtain ⟨h32, hm, hx, hr, hf0, hf1, hf2⟩ := word58 (m := 121) (e := 4) t p c (by decide) (by decide) rfl hn
  refine of_row ok (congrArg (fun k => some (BitVec.ofNat 32 k)) hn.symm) h32 ?_
  rw [row79 hm]
  unfold decodeGroup79
  rw [hx]
  change (if wd / 2 % 16 = 0 then some (Instr.wstat (fld wd 16 9) (fld wd 5 2) (fld wd 0 1)) else none : Option Instr) = some _
  rw [if_pos hr, hf0, hf1, hf2]

theorem cpdef (t : BitVec 9) (p : BitVec 2) : Statement (.cpdef t p) := by
  intro ok
  obtain ⟨wd, hn⟩ : ∃ wd, wd = 0xF2002000 + t.toNat * 65536 + p.toNat * 32 := ⟨_, rfl⟩
  obtain ⟨h32, hm, hx, hr, hf0, hf1⟩ := word57 (m := 121) (e := 64) t p (by decide) (by decide) rfl hn
  refine of_row ok (congrArg (fun k => some (BitVec.ofNat 32 k)) hn.symm) h32 ?_
  rw [row79 hm]
  unfold decodeGroup79
  rw [hx]
  change (if wd % 32 = 0 then some (Instr.cpdef (fld wd 16 9) (fld wd 5 2)) else if wd % 32 = 1 then some (Instr.cpdefRel (fld wd 16 9) (fld wd 5 2)) else none : Option Instr) = some _
  rw [if_pos hr, hf0, hf1]

theorem cpdefRel (t : BitVec 9) (p : BitVec 2) : Statement (.cpdefRel t p) := by
  intro ok
  obtain ⟨wd, hn⟩ : ∃ wd, wd = 0xF2002001 + t.toNat * 65536 + p.toNat * 32 := ⟨_, rfl⟩
  obtain ⟨h32, hm, hx, hr0, hr, hf0, hf1⟩ := word63 (m := 121) (e := 64) t p (by decide) (by decide) rfl hn
  refine of_row ok (congrArg (fun k => some (BitVec.ofNat 32 k)) hn.symm) h32 ?_
  rw [row79 hm]
  unfold decodeGroup79
  rw [hx]
  change (if wd % 32 = 0 then some (Instr.cpdef (fld wd 16 9) (fld wd 5 2)) else if wd % 32 = 1 then some (Instr.cpdefRel (fld wd 16 9) (fld wd 5 2)) else none : Option Instr) = some _
  rw [if_neg hr0, if_pos hr, hf0, hf1]

theorem cpcall (t : BitVec 9) (p : BitVec 2) (n : BitVec 1) (r : BitVec 4) : Statement (.cpcall t p n r) := by
  intro ok
  obtain ⟨wd, hn⟩ : ∃ wd, wd = 0xF2002080 + t.toNat * 65536 + p.toNat * 32 + n.toNat * 16 + r.toNat := ⟨_, rfl⟩
  obtain ⟨h32, hm, hx, hf0, hf1, hf2, hf3⟩ := word67 (m := 121) (e := 65) t p n r (by decide) (by decide) rfl hn
  refine of_row ok (congrArg (fun k => some (BitVec.ofNat 32 k)) hn.symm) h32 ?_
  rw [row79 hm]
  unfold decodeGroup79
  rw [hx]
  change (some (Instr.cpcall (fld wd 16 9) (fld wd 5 2) (fld wd 4 1) (fld wd 0 4)) : Option Instr) = some _
  rw [hf0, hf1, hf2, hf3]

theorem cpread (t : BitVec 9) (p : BitVec 2) : Statement (.cpread t p) := by
  intro ok
  obtain ⟨wd, hn⟩ : ∃ wd, wd = 0xF2002100 + t.toNat * 65536 + p.toNat * 32 := ⟨_, rfl⟩
  obtain ⟨h32, hm, hx, hr, hf0, hf1⟩ := word57 (m := 121) (e := 66) t p (by decide) (by decide) rfl hn
  refine of_row ok (congrArg (fun k => some (BitVec.ofNat 32 k)) hn.symm) h32 ?_
  rw [row79 hm]
  unfold decodeGroup79
  rw [hx]
  change (if wd % 32 = 0 then some (Instr.cpread (fld wd 16 9) (fld wd 5 2)) else none : Option Instr) = some _
  rw [if_pos hr, hf0, hf1]

theorem cpwait (t : BitVec 9) (p : BitVec 2) (c : BitVec 5) : Statement (.cpwait t p c) := by
  intro ok
  obtain ⟨wd, hn⟩ : ∃ wd, wd = 0xF2002180 + t.toNat * 65536 + p.toNat * 32 + c.toNat := ⟨_, rfl⟩
  obtain ⟨h32, hm, hx, hf0, hf1, hf2⟩ := word61 (m := 121) (e := 67) t p c (by decide) (by decide) rfl hn
  refine of_row ok (congrArg (fun k => some (BitVec.ofNat 32 k)) hn.symm) h32 ?_
  rw [row79 hm]
  unfold decodeGroup79
  rw [hx]
  change (some (Instr.cpwait (fld wd 16 9) (fld wd 5 2) (fld wd 0 5)) : Option Instr) = some _
  rw [hf0, hf1, hf2]

theorem cptrim (t : BitVec 9) (p : BitVec 2) : Statement (.cptrim t p) := by
  intro ok
  obtain ⟨wd, hn⟩ : ∃ wd, wd = 0xF2002200 + t.toNat * 65536 + p.toNat * 32 := ⟨_, rfl⟩
  obtain ⟨h32, hm, hx, hr, hf0, hf1⟩ := word57 (m := 121) (e := 68) t p (by decide) (by decide) rfl hn
  refine of_row ok (congrArg (fun k => some (BitVec.ofNat 32 k)) hn.symm) h32 ?_
  rw [row79 hm]
  unfold decodeGroup79
  rw [hx]
  change (if wd % 32 = 0 then some (Instr.cptrim (fld wd 16 9) (fld wd 5 2)) else none : Option Instr) = some _
  rw [if_pos hr, hf0, hf1]

theorem cpstat (t : BitVec 9) (p : BitVec 2) (e : BitVec 3) : Statement (.cpstat t p e) := by
  intro ok
  obtain ⟨wd, hn⟩ : ∃ wd, wd = 0xF2002280 + t.toNat * 65536 + p.toNat * 32 + e.toNat := ⟨_, rfl⟩
  obtain ⟨h32, hm, hx, hr, hf0, hf1, hf2⟩ := word68 (m := 121) (e := 69) t p e (by decide) (by decide) rfl hn
  refine of_row ok (congrArg (fun k => some (BitVec.ofNat 32 k)) hn.symm) h32 ?_
  rw [row79 hm]
  unfold decodeGroup79
  rw [hx]
  change (if wd / 8 % 4 = 0 then some (Instr.cpstat (fld wd 16 9) (fld wd 5 2) (fld wd 0 3)) else none : Option Instr) = some _
  rw [if_pos hr, hf0, hf1, hf2]

theorem cparg (t : BitVec 9) (p : BitVec 2) (e : BitVec 3) : Statement (.cparg t p e) := by
  intro ok
  obtain ⟨wd, hn⟩ : ∃ wd, wd = 0xF2002300 + t.toNat * 65536 + p.toNat * 32 + e.toNat := ⟨_, rfl⟩
  obtain ⟨h32, hm, hx, hr, hf0, hf1, hf2⟩ := word68 (m := 121) (e := 70) t p e (by decide) (by decide) rfl hn
  refine of_row ok (congrArg (fun k => some (BitVec.ofNat 32 k)) hn.symm) h32 ?_
  rw [row79 hm]
  unfold decodeGroup79
  rw [hx]
  change (if wd / 8 % 4 = 0 then some (Instr.cparg (fld wd 16 9) (fld wd 5 2) (fld wd 0 3)) else none : Option Instr) = some _
  rw [if_pos hr, hf0, hf1, hf2]

theorem cpret (t : BitVec 9) (p : BitVec 2) : Statement (.cpret t p) := by
  intro ok
  obtain ⟨wd, hn⟩ : ∃ wd, wd = 0xF2002380 + t.toNat * 65536 + p.toNat * 32 := ⟨_, rfl⟩
  obtain ⟨h32, hm, hx, hr, hf0, hf1⟩ := word57 (m := 121) (e := 71) t p (by decide) (by decide) rfl hn
  refine of_row ok (congrArg (fun k => some (BitVec.ofNat 32 k)) hn.symm) h32 ?_
  rw [row79 hm]
  unfold decodeGroup79
  rw [hx]
  change (if wd % 32 = 0 then some (Instr.cpret (fld wd 16 9) (fld wd 5 2)) else none : Option Instr) = some _
  rw [if_pos hr, hf0, hf1]

theorem guess (t : BitVec 9) (p : BitVec 2) : Statement (.guess t p) := by
  intro ok
  obtain ⟨wd, hn⟩ : ∃ wd, wd = 0xF4000080 + t.toNat * 65536 + p.toNat * 32 := ⟨_, rfl⟩
  obtain ⟨h32, hm, hx, hr, hf0, hf1⟩ := word57 (m := 122) (e := 1) t p (by decide) (by decide) rfl hn
  refine of_row ok (congrArg (fun k => some (BitVec.ofNat 32 k)) hn.symm) h32 ?_
  rw [row7A hm]
  unfold decodeGroup7A
  rw [hx]
  change (if wd % 32 = 0 then some (Instr.guess (fld wd 16 9) (fld wd 5 2)) else none : Option Instr) = some _
  rw [if_pos hr, hf0, hf1]

theorem launch (t : BitVec 9) (p : BitVec 2) : Statement (.launch t p) := by
  intro ok
  obtain ⟨wd, hn⟩ : ∃ wd, wd = 0xF4000100 + t.toNat * 65536 + p.toNat * 32 := ⟨_, rfl⟩
  obtain ⟨h32, hm, hx, hr, hf0, hf1⟩ := word57 (m := 122) (e := 2) t p (by decide) (by decide) rfl hn
  refine of_row ok (congrArg (fun k => some (BitVec.ofNat 32 k)) hn.symm) h32 ?_
  rw [row7A hm]
  unfold decodeGroup7A
  rw [hx]
  change (if wd % 32 = 0 then some (Instr.launch (fld wd 16 9) (fld wd 5 2)) else none : Option Instr) = some _
  rw [if_pos hr, hf0, hf1]

theorem tagrd (t : BitVec 9) (p : BitVec 2) : Statement (.tagrd t p) := by
  intro ok
  obtain ⟨wd, hn⟩ : ∃ wd, wd = 0xF4000180 + t.toNat * 65536 + p.toNat * 32 := ⟨_, rfl⟩
  obtain ⟨h32, hm, hx, hr, hf0, hf1⟩ := word57 (m := 122) (e := 3) t p (by decide) (by decide) rfl hn
  refine of_row ok (congrArg (fun k => some (BitVec.ofNat 32 k)) hn.symm) h32 ?_
  rw [row7A hm]
  unfold decodeGroup7A
  rw [hx]
  change (if wd % 32 = 0 then some (Instr.tagrd (fld wd 16 9) (fld wd 5 2)) else none : Option Instr) = some _
  rw [if_pos hr, hf0, hf1]

theorem sqchk (t : BitVec 9) (p r : BitVec 2) (s : BitVec 3) : Statement (.sqchk t p r s) := by
  intro ok
  obtain ⟨wd, hn⟩ : ∃ wd, wd = 0xF4000200 + t.toNat * 65536 + p.toNat * 32 + r.toNat * 8 + s.toNat := ⟨_, rfl⟩
  obtain ⟨h32, hm, hx, hf0, hf1, hf2, hf3⟩ := word69 (m := 122) (e := 4) t p r s (by decide) (by decide) rfl hn
  refine of_row ok (congrArg (fun k => some (BitVec.ofNat 32 k)) hn.symm) h32 ?_
  rw [row7A hm]
  unfold decodeGroup7A
  rw [hx]
  change (some (Instr.sqchk (fld wd 16 9) (fld wd 5 2) (fld wd 3 2) (fld wd 0 3)) : Option Instr) = some _
  rw [hf0, hf1, hf2, hf3]

theorem sqregChan (t : BitVec 9) (p : BitVec 2) : Statement (.sqregChan t p) := by
  intro ok
  obtain ⟨wd, hn⟩ : ∃ wd, wd = 0xF4000280 + t.toNat * 65536 + p.toNat * 32 := ⟨_, rfl⟩
  obtain ⟨h32, hm, hx, hr, hf0, hf1⟩ := word57 (m := 122) (e := 5) t p (by decide) (by decide) rfl hn
  refine of_row ok (congrArg (fun k => some (BitVec.ofNat 32 k)) hn.symm) h32 ?_
  rw [row7A hm]
  unfold decodeGroup7A
  rw [hx]
  change (if wd % 32 = 0 then some (Instr.sqregChan (fld wd 16 9) (fld wd 5 2)) else if wd % 32 = 1 then some (Instr.sqregRows (fld wd 16 9) (fld wd 5 2)) else if wd % 32 = 2 then some (Instr.sqregRel (fld wd 16 9) (fld wd 5 2)) else none : Option Instr) = some _
  rw [if_pos hr, hf0, hf1]

theorem sqregRows (t : BitVec 9) (p : BitVec 2) : Statement (.sqregRows t p) := by
  intro ok
  obtain ⟨wd, hn⟩ : ∃ wd, wd = 0xF4000281 + t.toNat * 65536 + p.toNat * 32 := ⟨_, rfl⟩
  obtain ⟨h32, hm, hx, hr0, hr, hf0, hf1⟩ := word63 (m := 122) (e := 5) t p (by decide) (by decide) rfl hn
  refine of_row ok (congrArg (fun k => some (BitVec.ofNat 32 k)) hn.symm) h32 ?_
  rw [row7A hm]
  unfold decodeGroup7A
  rw [hx]
  change (if wd % 32 = 0 then some (Instr.sqregChan (fld wd 16 9) (fld wd 5 2)) else if wd % 32 = 1 then some (Instr.sqregRows (fld wd 16 9) (fld wd 5 2)) else if wd % 32 = 2 then some (Instr.sqregRel (fld wd 16 9) (fld wd 5 2)) else none : Option Instr) = some _
  rw [if_neg hr0, if_pos hr, hf0, hf1]

theorem sqregRel (t : BitVec 9) (p : BitVec 2) : Statement (.sqregRel t p) := by
  intro ok
  obtain ⟨wd, hn⟩ : ∃ wd, wd = 0xF4000282 + t.toNat * 65536 + p.toNat * 32 := ⟨_, rfl⟩
  obtain ⟨h32, hm, hx, hr0, hr1, hr, hf0, hf1⟩ := word64 (m := 122) (e := 5) t p (by decide) (by decide) rfl hn
  refine of_row ok (congrArg (fun k => some (BitVec.ofNat 32 k)) hn.symm) h32 ?_
  rw [row7A hm]
  unfold decodeGroup7A
  rw [hx]
  change (if wd % 32 = 0 then some (Instr.sqregChan (fld wd 16 9) (fld wd 5 2)) else if wd % 32 = 1 then some (Instr.sqregRows (fld wd 16 9) (fld wd 5 2)) else if wd % 32 = 2 then some (Instr.sqregRel (fld wd 16 9) (fld wd 5 2)) else none : Option Instr) = some _
  rw [if_neg hr0, if_neg hr1, if_pos hr, hf0, hf1]

theorem kvwr (t : BitVec 9) (p : BitVec 2) : Statement (.kvwr t p) := by
  intro ok
  obtain ⟨wd, hn⟩ : ∃ wd, wd = 0xF4000300 + t.toNat * 65536 + p.toNat * 32 := ⟨_, rfl⟩
  obtain ⟨h32, hm, hx, hr, hf0, hf1⟩ := word57 (m := 122) (e := 6) t p (by decide) (by decide) rfl hn
  refine of_row ok (congrArg (fun k => some (BitVec.ofNat 32 k)) hn.symm) h32 ?_
  rw [row7A hm]
  unfold decodeGroup7A
  rw [hx]
  change (if wd % 32 = 0 then some (Instr.kvwr (fld wd 16 9) (fld wd 5 2)) else none : Option Instr) = some _
  rw [if_pos hr, hf0, hf1]

theorem topk (t : BitVec 9) (p s : BitVec 2) : Statement (.topk t p s) := by
  intro ok
  obtain ⟨wd, hn⟩ : ∃ wd, wd = 0xF4002000 + t.toNat * 65536 + p.toNat * 32 + s.toNat := ⟨_, rfl⟩
  obtain ⟨h32, hm, hx, hr, hf0, hf1, hf2⟩ := word70 (m := 122) (e := 64) t p s (by decide) (by decide) rfl hn
  refine of_row ok (congrArg (fun k => some (BitVec.ofNat 32 k)) hn.symm) h32 ?_
  rw [row7A hm]
  unfold decodeGroup7A
  rw [hx]
  change (if wd / 4 % 8 = 0 then some (Instr.topk (fld wd 16 9) (fld wd 5 2) (fld wd 0 2)) else none : Option Instr) = some _
  rw [if_pos hr, hf0, hf1, hf2]

theorem candld (t : BitVec 9) (p : BitVec 2) : Statement (.candld t p) := by
  intro ok
  obtain ⟨wd, hn⟩ : ∃ wd, wd = 0xF4002080 + t.toNat * 65536 + p.toNat * 32 := ⟨_, rfl⟩
  obtain ⟨h32, hm, hx, hr, hf0, hf1⟩ := word57 (m := 122) (e := 65) t p (by decide) (by decide) rfl hn
  refine of_row ok (congrArg (fun k => some (BitVec.ofNat 32 k)) hn.symm) h32 ?_
  rw [row7A hm]
  unfold decodeGroup7A
  rw [hx]
  change (if wd % 32 = 0 then some (Instr.candld (fld wd 16 9) (fld wd 5 2)) else none : Option Instr) = some _
  rw [if_pos hr, hf0, hf1]

theorem candst (t : BitVec 9) (p : BitVec 2) : Statement (.candst t p) := by
  intro ok
  obtain ⟨wd, hn⟩ : ∃ wd, wd = 0xF4002100 + t.toNat * 65536 + p.toNat * 32 := ⟨_, rfl⟩
  obtain ⟨h32, hm, hx, hr, hf0, hf1⟩ := word57 (m := 122) (e := 66) t p (by decide) (by decide) rfl hn
  refine of_row ok (congrArg (fun k => some (BitVec.ofNat 32 k)) hn.symm) h32 ?_
  rw [row7A hm]
  unfold decodeGroup7A
  rw [hx]
  change (if wd % 32 = 0 then some (Instr.candst (fld wd 16 9) (fld wd 5 2)) else none : Option Instr) = some _
  rw [if_pos hr, hf0, hf1]

theorem rngseed (t : BitVec 9) (p n : BitVec 2) : Statement (.rngseed t p n) := by
  intro ok
  obtain ⟨wd, hn⟩ : ∃ wd, wd = 0xF4002180 + t.toNat * 65536 + p.toNat * 32 + n.toNat := ⟨_, rfl⟩
  obtain ⟨h32, hm, hx, hr, hf0, hf1, hf2⟩ := word70 (m := 122) (e := 67) t p n (by decide) (by decide) rfl hn
  refine of_row ok (congrArg (fun k => some (BitVec.ofNat 32 k)) hn.symm) h32 ?_
  rw [row7A hm]
  unfold decodeGroup7A
  rw [hx]
  change (if wd / 4 % 8 = 0 then some (Instr.rngseed (fld wd 16 9) (fld wd 5 2) (fld wd 0 2)) else none : Option Instr) = some _
  rw [if_pos hr, hf0, hf1, hf2]

theorem rngnext (t : BitVec 9) (p n : BitVec 2) : Statement (.rngnext t p n) := by
  intro ok
  obtain ⟨wd, hn⟩ : ∃ wd, wd = 0xF4002200 + t.toNat * 65536 + p.toNat * 32 + n.toNat := ⟨_, rfl⟩
  obtain ⟨h32, hm, hx, hr, hf0, hf1, hf2⟩ := word70 (m := 122) (e := 68) t p n (by decide) (by decide) rfl hn
  refine of_row ok (congrArg (fun k => some (BitVec.ofNat 32 k)) hn.symm) h32 ?_
  rw [row7A hm]
  unfold decodeGroup7A
  rw [hx]
  change (if wd / 4 % 8 = 0 then some (Instr.rngnext (fld wd 16 9) (fld wd 5 2) (fld wd 0 2)) else none : Option Instr) = some _
  rw [if_pos hr, hf0, hf1, hf2]

theorem draw (t : BitVec 9) (p : BitVec 2) (s g : BitVec 1) : Statement (.draw t p s g) := by
  intro ok
  obtain ⟨wd, hn⟩ : ∃ wd, wd = 0xF4002280 + t.toNat * 65536 + p.toNat * 32 + s.toNat * 16 + g.toNat := ⟨_, rfl⟩
  obtain ⟨h32, hm, hx, hr, hf0, hf1, hf2, hf3⟩ := word71 (m := 122) (e := 69) t p s g (by decide) (by decide) rfl hn
  refine of_row ok (congrArg (fun k => some (BitVec.ofNat 32 k)) hn.symm) h32 ?_
  rw [row7A hm]
  unfold decodeGroup7A
  rw [hx]
  change (if wd / 2 % 8 = 0 then some (Instr.draw (fld wd 16 9) (fld wd 5 2) (fld wd 4 1) (fld wd 0 1)) else none : Option Instr) = some _
  rw [if_pos hr, hf0, hf1, hf2, hf3]

theorem pen (t : BitVec 9) (p : BitVec 2) (s r q f : BitVec 1) : Statement (.pen t p s r q f) := by
  intro ok
  obtain ⟨wd, hn⟩ : ∃ wd, wd = 0xF4002300 + t.toNat * 65536 + p.toNat * 32 + s.toNat * 16 + r.toNat * 4 + q.toNat * 2 + f.toNat := ⟨_, rfl⟩
  obtain ⟨h32, hm, hx, hr, hf0, hf1, hf2, hf3, hf4, hf5⟩ := word72 (m := 122) (e := 70) t p s r q f (by decide) (by decide) rfl hn
  refine of_row ok (congrArg (fun k => some (BitVec.ofNat 32 k)) hn.symm) h32 ?_
  rw [row7A hm]
  unfold decodeGroup7A
  rw [hx]
  change (if wd / 8 % 2 = 0 then some (Instr.pen (fld wd 16 9) (fld wd 5 2) (fld wd 4 1) (fld wd 2 1) (fld wd 1 1) (fld wd 0 1)) else none : Option Instr) = some _
  rw [if_pos hr, hf0, hf1, hf2, hf3, hf4, hf5]

theorem jrnl (t : BitVec 9) (p : BitVec 2) : Statement (.jrnl t p) := by
  intro ok
  obtain ⟨wd, hn⟩ : ∃ wd, wd = 0xF4002380 + t.toNat * 65536 + p.toNat * 32 := ⟨_, rfl⟩
  obtain ⟨h32, hm, hx, hr, hf0, hf1⟩ := word57 (m := 122) (e := 71) t p (by decide) (by decide) rfl hn
  refine of_row ok (congrArg (fun k => some (BitVec.ofNat 32 k)) hn.symm) h32 ?_
  rw [row7A hm]
  unfold decodeGroup7A
  rw [hx]
  change (if wd % 32 = 0 then some (Instr.jrnl (fld wd 16 9) (fld wd 5 2)) else none : Option Instr) = some _
  rw [if_pos hr, hf0, hf1]

theorem jcommit (t : BitVec 9) (p : BitVec 2) : Statement (.jcommit t p) := by
  intro ok
  obtain ⟨wd, hn⟩ : ∃ wd, wd = 0xF4002400 + t.toNat * 65536 + p.toNat * 32 := ⟨_, rfl⟩
  obtain ⟨h32, hm, hx, hr, hf0, hf1⟩ := word57 (m := 122) (e := 72) t p (by decide) (by decide) rfl hn
  refine of_row ok (congrArg (fun k => some (BitVec.ofNat 32 k)) hn.symm) h32 ?_
  rw [row7A hm]
  unfold decodeGroup7A
  rw [hx]
  change (if wd % 32 = 0 then some (Instr.jcommit (fld wd 16 9) (fld wd 5 2)) else none : Option Instr) = some _
  rw [if_pos hr, hf0, hf1]

theorem jdrop (t : BitVec 9) (p : BitVec 2) : Statement (.jdrop t p) := by
  intro ok
  obtain ⟨wd, hn⟩ : ∃ wd, wd = 0xF4002480 + t.toNat * 65536 + p.toNat * 32 := ⟨_, rfl⟩
  obtain ⟨h32, hm, hx, hr, hf0, hf1⟩ := word57 (m := 122) (e := 73) t p (by decide) (by decide) rfl hn
  refine of_row ok (congrArg (fun k => some (BitVec.ofNat 32 k)) hn.symm) h32 ?_
  rw [row7A hm]
  unfold decodeGroup7A
  rw [hx]
  change (if wd % 32 = 0 then some (Instr.jdrop (fld wd 16 9) (fld wd 5 2)) else none : Option Instr) = some _
  rw [if_pos hr, hf0, hf1]

theorem gmask (t : BitVec 9) (p s : BitVec 2) : Statement (.gmask t p s) := by
  intro ok
  obtain ⟨wd, hn⟩ : ∃ wd, wd = 0xF4002500 + t.toNat * 65536 + p.toNat * 32 + s.toNat := ⟨_, rfl⟩
  obtain ⟨h32, hm, hx, hr, hf0, hf1, hf2⟩ := word70 (m := 122) (e := 74) t p s (by decide) (by decide) rfl hn
  refine of_row ok (congrArg (fun k => some (BitVec.ofNat 32 k)) hn.symm) h32 ?_
  rw [row7A hm]
  unfold decodeGroup7A
  rw [hx]
  change (if wd / 4 % 8 = 0 then some (Instr.gmask (fld wd 16 9) (fld wd 5 2) (fld wd 0 2)) else none : Option Instr) = some _
  rw [if_pos hr, hf0, hf1, hf2]

theorem gsnap (t : BitVec 9) (p : BitVec 2) : Statement (.gsnap t p) := by
  intro ok
  obtain ⟨wd, hn⟩ : ∃ wd, wd = 0xF4002580 + t.toNat * 65536 + p.toNat * 32 := ⟨_, rfl⟩
  obtain ⟨h32, hm, hx, hr, hf0, hf1⟩ := word57 (m := 122) (e := 75) t p (by decide) (by decide) rfl hn
  refine of_row ok (congrArg (fun k => some (BitVec.ofNat 32 k)) hn.symm) h32 ?_
  rw [row7A hm]
  unfold decodeGroup7A
  rw [hx]
  change (if wd % 32 = 0 then some (Instr.gsnap (fld wd 16 9) (fld wd 5 2)) else none : Option Instr) = some _
  rw [if_pos hr, hf0, hf1]

theorem grest (t : BitVec 9) (p : BitVec 2) : Statement (.grest t p) := by
  intro ok
  obtain ⟨wd, hn⟩ : ∃ wd, wd = 0xF4002600 + t.toNat * 65536 + p.toNat * 32 := ⟨_, rfl⟩
  obtain ⟨h32, hm, hx, hr, hf0, hf1⟩ := word57 (m := 122) (e := 76) t p (by decide) (by decide) rfl hn
  refine of_row ok (congrArg (fun k => some (BitVec.ofNat 32 k)) hn.symm) h32 ?_
  rw [row7A hm]
  unfold decodeGroup7A
  rw [hx]
  change (if wd % 32 = 0 then some (Instr.grest (fld wd 16 9) (fld wd 5 2)) else none : Option Instr) = some _
  rw [if_pos hr, hf0, hf1]

theorem tmask (t : BitVec 9) (p g : BitVec 2) : Statement (.tmask t p g) := by
  intro ok
  obtain ⟨wd, hn⟩ : ∃ wd, wd = 0xF4002680 + t.toNat * 65536 + p.toNat * 32 + g.toNat := ⟨_, rfl⟩
  obtain ⟨h32, hm, hx, hr, hf0, hf1, hf2⟩ := word70 (m := 122) (e := 77) t p g (by decide) (by decide) rfl hn
  refine of_row ok (congrArg (fun k => some (BitVec.ofNat 32 k)) hn.symm) h32 ?_
  rw [row7A hm]
  unfold decodeGroup7A
  rw [hx]
  change (if wd / 4 % 8 = 0 then some (Instr.tmask (fld wd 16 9) (fld wd 5 2) (fld wd 0 2)) else none : Option Instr) = some _
  rw [if_pos hr, hf0, hf1, hf2]

theorem tmload (t : BitVec 9) (p : BitVec 2) : Statement (.tmload t p) := by
  intro ok
  obtain ⟨wd, hn⟩ : ∃ wd, wd = 0xF4002700 + t.toNat * 65536 + p.toNat * 32 := ⟨_, rfl⟩
  obtain ⟨h32, hm, hx, hr, hf0, hf1⟩ := word57 (m := 122) (e := 78) t p (by decide) (by decide) rfl hn
  refine of_row ok (congrArg (fun k => some (BitVec.ofNat 32 k)) hn.symm) h32 ?_
  rw [row7A hm]
  unfold decodeGroup7A
  rw [hx]
  change (if wd % 32 = 0 then some (Instr.tmload (fld wd 16 9) (fld wd 5 2)) else none : Option Instr) = some _
  rw [if_pos hr, hf0, hf1]

theorem tdepth (t : BitVec 9) (p : BitVec 2) (x : BitVec 1) (g : BitVec 3) : Statement (.tdepth t p x g) := by
  intro ok
  obtain ⟨wd, hn⟩ : ∃ wd, wd = 0xF4002780 + t.toNat * 65536 + p.toNat * 32 + x.toNat * 8 + g.toNat := ⟨_, rfl⟩
  obtain ⟨h32, hm, hx, hr, hf0, hf1, hf2, hf3⟩ := word73 (m := 122) (e := 79) t p x g (by decide) (by decide) rfl hn
  refine of_row ok (congrArg (fun k => some (BitVec.ofNat 32 k)) hn.symm) h32 ?_
  rw [row7A hm]
  unfold decodeGroup7A
  rw [hx]
  change (if wd / 16 % 2 = 0 then some (Instr.tdepth (fld wd 16 9) (fld wd 5 2) (fld wd 3 1) (fld wd 0 3)) else none : Option Instr) = some _
  rw [if_pos hr, hf0, hf1, hf2, hf3]

theorem trap (t : BitVec 9) (p : BitVec 2) : Statement (.trap t p) := by
  intro ok
  obtain ⟨wd, hn⟩ : ∃ wd, wd = 0xF6000080 + t.toNat * 65536 + p.toNat * 32 := ⟨_, rfl⟩
  obtain ⟨h32, hm, hx, hr, hf0, hf1⟩ := word57 (m := 123) (e := 1) t p (by decide) (by decide) rfl hn
  refine of_row ok (congrArg (fun k => some (BitVec.ofNat 32 k)) hn.symm) h32 ?_
  rw [row7B hm]
  unfold decodeGroup7B
  rw [hx]
  change (if wd % 32 = 0 then some (Instr.trap (fld wd 16 9) (fld wd 5 2)) else none : Option Instr) = some _
  rw [if_pos hr, hf0, hf1]

theorem rft (t : BitVec 9) (p : BitVec 2) : Statement (.rft t p) := by
  intro ok
  obtain ⟨wd, hn⟩ : ∃ wd, wd = 0xF6000100 + t.toNat * 65536 + p.toNat * 32 := ⟨_, rfl⟩
  obtain ⟨h32, hm, hx, hr, hf0, hf1⟩ := word57 (m := 123) (e := 2) t p (by decide) (by decide) rfl hn
  refine of_row ok (congrArg (fun k => some (BitVec.ofNat 32 k)) hn.symm) h32 ?_
  rw [row7B hm]
  unfold decodeGroup7B
  rw [hx]
  change (if wd % 32 = 0 then some (Instr.rft (fld wd 16 9) (fld wd 5 2)) else none : Option Instr) = some _
  rw [if_pos hr, hf0, hf1]

theorem csrr (t : BitVec 9) (p : BitVec 2) : Statement (.csrr t p) := by
  intro ok
  obtain ⟨wd, hn⟩ : ∃ wd, wd = 0xF6000180 + t.toNat * 65536 + p.toNat * 32 := ⟨_, rfl⟩
  obtain ⟨h32, hm, hx, hr, hf0, hf1⟩ := word57 (m := 123) (e := 3) t p (by decide) (by decide) rfl hn
  refine of_row ok (congrArg (fun k => some (BitVec.ofNat 32 k)) hn.symm) h32 ?_
  rw [row7B hm]
  unfold decodeGroup7B
  rw [hx]
  change (if wd % 32 = 0 then some (Instr.csrr (fld wd 16 9) (fld wd 5 2)) else none : Option Instr) = some _
  rw [if_pos hr, hf0, hf1]

theorem csrw (t : BitVec 9) (p : BitVec 2) : Statement (.csrw t p) := by
  intro ok
  obtain ⟨wd, hn⟩ : ∃ wd, wd = 0xF6000200 + t.toNat * 65536 + p.toNat * 32 := ⟨_, rfl⟩
  obtain ⟨h32, hm, hx, hr, hf0, hf1⟩ := word57 (m := 123) (e := 4) t p (by decide) (by decide) rfl hn
  refine of_row ok (congrArg (fun k => some (BitVec.ofNat 32 k)) hn.symm) h32 ?_
  rw [row7B hm]
  unfold decodeGroup7B
  rw [hx]
  change (if wd % 32 = 0 then some (Instr.csrw (fld wd 16 9) (fld wd 5 2)) else none : Option Instr) = some _
  rw [if_pos hr, hf0, hf1]

theorem freeze (t : BitVec 9) (p : BitVec 2) : Statement (.freeze t p) := by
  intro ok
  obtain ⟨wd, hn⟩ : ∃ wd, wd = 0xF6000280 + t.toNat * 65536 + p.toNat * 32 := ⟨_, rfl⟩
  obtain ⟨h32, hm, hx, hr, hf0, hf1⟩ := word57 (m := 123) (e := 5) t p (by decide) (by decide) rfl hn
  refine of_row ok (congrArg (fun k => some (BitVec.ofNat 32 k)) hn.symm) h32 ?_
  rw [row7B hm]
  unfold decodeGroup7B
  rw [hx]
  change (if wd % 32 = 0 then some (Instr.freeze (fld wd 16 9) (fld wd 5 2)) else none : Option Instr) = some _
  rw [if_pos hr, hf0, hf1]

theorem thaw (t : BitVec 9) (p : BitVec 2) : Statement (.thaw t p) := by
  intro ok
  obtain ⟨wd, hn⟩ : ∃ wd, wd = 0xF6000300 + t.toNat * 65536 + p.toNat * 32 := ⟨_, rfl⟩
  obtain ⟨h32, hm, hx, hr, hf0, hf1⟩ := word57 (m := 123) (e := 6) t p (by decide) (by decide) rfl hn
  refine of_row ok (congrArg (fun k => some (BitVec.ofNat 32 k)) hn.symm) h32 ?_
  rw [row7B hm]
  unfold decodeGroup7B
  rw [hx]
  change (if wd % 32 = 0 then some (Instr.thaw (fld wd 16 9) (fld wd 5 2)) else none : Option Instr) = some _
  rw [if_pos hr, hf0, hf1]

theorem ctxout (t : BitVec 9) (p : BitVec 2) (w f : BitVec 1) : Statement (.ctxout t p w f) := by
  intro ok
  obtain ⟨wd, hn⟩ : ∃ wd, wd = 0xF6000380 + t.toNat * 65536 + p.toNat * 32 + w.toNat * 2 + f.toNat := ⟨_, rfl⟩
  obtain ⟨h32, hm, hx, hr, hf0, hf1, hf2, hf3⟩ := word74 (m := 123) (e := 7) t p w f (by decide) (by decide) rfl hn
  refine of_row ok (congrArg (fun k => some (BitVec.ofNat 32 k)) hn.symm) h32 ?_
  rw [row7B hm]
  unfold decodeGroup7B
  rw [hx]
  change (if wd / 4 % 8 = 0 then some (Instr.ctxout (fld wd 16 9) (fld wd 5 2) (fld wd 1 1) (fld wd 0 1)) else if wd / 4 % 8 = 1 then some (Instr.ctxoutDrop (fld wd 16 9) (fld wd 5 2) (fld wd 1 1) (fld wd 0 1)) else none : Option Instr) = some _
  rw [if_pos hr, hf0, hf1, hf2, hf3]

theorem ctxoutDrop (t : BitVec 9) (p : BitVec 2) (w f : BitVec 1) : Statement (.ctxoutDrop t p w f) := by
  intro ok
  obtain ⟨wd, hn⟩ : ∃ wd, wd = 0xF6000384 + t.toNat * 65536 + p.toNat * 32 + w.toNat * 2 + f.toNat := ⟨_, rfl⟩
  obtain ⟨h32, hm, hx, hr0, hr, hf0, hf1, hf2, hf3⟩ := word75 (m := 123) (e := 7) t p w f (by decide) (by decide) rfl hn
  refine of_row ok (congrArg (fun k => some (BitVec.ofNat 32 k)) hn.symm) h32 ?_
  rw [row7B hm]
  unfold decodeGroup7B
  rw [hx]
  change (if wd / 4 % 8 = 0 then some (Instr.ctxout (fld wd 16 9) (fld wd 5 2) (fld wd 1 1) (fld wd 0 1)) else if wd / 4 % 8 = 1 then some (Instr.ctxoutDrop (fld wd 16 9) (fld wd 5 2) (fld wd 1 1) (fld wd 0 1)) else none : Option Instr) = some _
  rw [if_neg hr0, if_pos hr, hf0, hf1, hf2, hf3]

theorem ctxin (t : BitVec 9) (p : BitVec 2) : Statement (.ctxin t p) := by
  intro ok
  obtain ⟨wd, hn⟩ : ∃ wd, wd = 0xF6000400 + t.toNat * 65536 + p.toNat * 32 := ⟨_, rfl⟩
  obtain ⟨h32, hm, hx, hr, hf0, hf1⟩ := word57 (m := 123) (e := 8) t p (by decide) (by decide) rfl hn
  refine of_row ok (congrArg (fun k => some (BitVec.ofNat 32 k)) hn.symm) h32 ?_
  rw [row7B hm]
  unfold decodeGroup7B
  rw [hx]
  change (if wd % 32 = 0 then some (Instr.ctxin (fld wd 16 9) (fld wd 5 2)) else none : Option Instr) = some _
  rw [if_pos hr, hf0, hf1]

theorem tlbinv (t : BitVec 9) (p : BitVec 2) (a : BitVec 1) : Statement (.tlbinv t p a) := by
  intro ok
  obtain ⟨wd, hn⟩ : ∃ wd, wd = 0xF6000480 + t.toNat * 65536 + p.toNat * 32 + a.toNat := ⟨_, rfl⟩
  obtain ⟨h32, hm, hx, hr, hf0, hf1, hf2⟩ := word58 (m := 123) (e := 9) t p a (by decide) (by decide) rfl hn
  refine of_row ok (congrArg (fun k => some (BitVec.ofNat 32 k)) hn.symm) h32 ?_
  rw [row7B hm]
  unfold decodeGroup7B
  rw [hx]
  change (if wd / 2 % 16 = 0 then some (Instr.tlbinv (fld wd 16 9) (fld wd 5 2) (fld wd 0 1)) else none : Option Instr) = some _
  rw [if_pos hr, hf0, hf1, hf2]

theorem tlbprobe (t : BitVec 9) (p : BitVec 2) (h : BitVec 1) : Statement (.tlbprobe t p h) := by
  intro ok
  obtain ⟨wd, hn⟩ : ∃ wd, wd = 0xF6000500 + t.toNat * 65536 + p.toNat * 32 + h.toNat := ⟨_, rfl⟩
  obtain ⟨h32, hm, hx, hr, hf0, hf1, hf2⟩ := word58 (m := 123) (e := 10) t p h (by decide) (by decide) rfl hn
  refine of_row ok (congrArg (fun k => some (BitVec.ofNat 32 k)) hn.symm) h32 ?_
  rw [row7B hm]
  unfold decodeGroup7B
  rw [hx]
  change (if wd / 2 % 16 = 0 then some (Instr.tlbprobe (fld wd 16 9) (fld wd 5 2) (fld wd 0 1)) else none : Option Instr) = some _
  rw [if_pos hr, hf0, hf1, hf2]

theorem cfginv (t : BitVec 9) (p : BitVec 2) (m : BitVec 1) : Statement (.cfginv t p m) := by
  intro ok
  obtain ⟨wd, hn⟩ : ∃ wd, wd = 0xF6000580 + t.toNat * 65536 + p.toNat * 32 + m.toNat := ⟨_, rfl⟩
  obtain ⟨h32, hm, hx, hr, hf0, hf1, hf2⟩ := word58 (m := 123) (e := 11) t p m (by decide) (by decide) rfl hn
  refine of_row ok (congrArg (fun k => some (BitVec.ofNat 32 k)) hn.symm) h32 ?_
  rw [row7B hm]
  unfold decodeGroup7B
  rw [hx]
  change (if wd / 2 % 16 = 0 then some (Instr.cfginv (fld wd 16 9) (fld wd 5 2) (fld wd 0 1)) else none : Option Instr) = some _
  rw [if_pos hr, hf0, hf1, hf2]

theorem halt (p : BitVec 2) : Statement (.halt p) := by
  intro ok
  obtain ⟨wd, hn⟩ : ∃ wd, wd = 0xF6000600 + p.toNat * 32 := ⟨_, rfl⟩
  obtain ⟨h32, hm, hx, hr, hf0⟩ := word76 (m := 123) (e := 12) p (by decide) (by decide) rfl hn
  refine of_row ok (congrArg (fun k => some (BitVec.ofNat 32 k)) hn.symm) h32 ?_
  rw [row7B hm]
  unfold decodeGroup7B
  rw [hx]
  change (if wd % 32 = 0 ∧ wd / 65536 % 512 = 0 then some (Instr.halt (fld wd 5 2)) else none : Option Instr) = some _
  rw [if_pos hr, hf0]

theorem memoryReply (n : Nat) : Statement (.memoryReply n) := fun h => Bool.noConfusion (show false = true from h)

theorem copyRebuilt (slab obj : Nat) : Statement (.copyRebuilt slab obj) := fun h => Bool.noConfusion (show false = true from h)

theorem configImageReloaded (unit addr : Nat) : Statement (.configImageReloaded unit addr) := fun h => Bool.noConfusion (show false = true from h)

theorem gatewayRefill : Statement (.gatewayRefill) := fun h => Bool.noConfusion (show false = true from h)

theorem moduleReset (boot : Option Boot) (version : BitVec 32) : Statement (.moduleReset boot version) := fun h => Bool.noConfusion (show false = true from h)

theorem hostMemWrite (line off : Nat) (data : List Byte) : Statement (.hostMemWrite line off data) := fun h => Bool.noConfusion (show false = true from h)

theorem hostMemRead (line off n : Nat) : Statement (.hostMemRead line off n) := fun h => Bool.noConfusion (show false = true from h)

theorem doorbellAddress (job : Nat) (val : Word) : Statement (.doorbellAddress job val) := fun h => Bool.noConfusion (show false = true from h)

theorem doorbellAppend (job : Nat) (val : Word) : Statement (.doorbellAppend job val) := fun h => Bool.noConfusion (show false = true from h)

theorem uncorrectableError (kind slab unit loc : Nat) : Statement (.uncorrectableError kind slab unit loc) := fun h => Bool.noConfusion (show false = true from h)

theorem blockFetch (k : Nat) : Statement (.blockFetch k) := fun h => Bool.noConfusion (show false = true from h)

theorem blockCommit (k : Nat) : Statement (.blockCommit k) := fun h => Bool.noConfusion (show false = true from h)

theorem nocommit (k : Nat) : Statement (.nocommit k) := fun h => Bool.noConfusion (show false = true from h)

theorem selector (unit : Nat) : Statement (.selector unit) := fun h => Bool.noConfusion (show false = true from h)

theorem handlerAging (k ch : Nat) : Statement (.handlerAging k ch) := fun h => Bool.noConfusion (show false = true from h)

theorem forcedYield (k : Nat) : Statement (.forcedYield k) := fun h => Bool.noConfusion (show false = true from h)

theorem channelWordArrival (n : Nat) : Statement (.channelWordArrival n) := fun h => Bool.noConfusion (show false = true from h)

theorem inboxRetry (n : Nat) : Statement (.inboxRetry n) := fun h => Bool.noConfusion (show false = true from h)

theorem updateWordAbsorb (n : Nat) : Statement (.updateWordAbsorb n) := fun h => Bool.noConfusion (show false = true from h)

theorem pageArrivalAbsorb (n : Nat) : Statement (.pageArrivalAbsorb n) := fun h => Bool.noConfusion (show false = true from h)

theorem mcastReplicate (n : Nat) : Statement (.mcastReplicate n) := fun h => Bool.noConfusion (show false = true from h)

theorem streamReadAhead (k port : Nat) : Statement (.streamReadAhead k port) := fun h => Bool.noConfusion (show false = true from h)

theorem streamOutStore (k port : Nat) : Statement (.streamOutStore k port) := fun h => Bool.noConfusion (show false = true from h)

theorem taskDispatch (chain slab : Nat) (nibs : List Nat) : Statement (.taskDispatch chain slab nibs) := fun h => Bool.noConfusion (show false = true from h)

theorem chainAging (chain : Nat) : Statement (.chainAging chain) := fun h => Bool.noConfusion (show false = true from h)

theorem taskComplete (chain num : Nat) : Statement (.taskComplete chain num) := fun h => Bool.noConfusion (show false = true from h)

theorem completionWrite (chain : Nat) : Statement (.completionWrite chain) := fun h => Bool.noConfusion (show false = true from h)

theorem chainEntryReread (chain : Nat) : Statement (.chainEntryReread chain) := fun h => Bool.noConfusion (show false = true from h)

theorem copyEntry (chain : Nat) : Statement (.copyEntry chain) := fun h => Bool.noConfusion (show false = true from h)

theorem swapOut (chain : Nat) (done : Nat × Bool) : Statement (.swapOut chain done) := fun h => Bool.noConfusion (show false = true from h)

theorem swapIn (chain : Nat) (done : Nat × Bool) : Statement (.swapIn chain done) := fun h => Bool.noConfusion (show false = true from h)

theorem barrierGenerationComplete (folio bar : Nat) : Statement (.barrierGenerationComplete folio bar) := fun h => Bool.noConfusion (show false = true from h)

theorem roundMarkerIssue : Statement (.roundMarkerIssue) := fun h => Bool.noConfusion (show false = true from h)

theorem regionRoundEdge (unit region : Nat) : Statement (.regionRoundEdge unit region) := fun h => Bool.noConfusion (show false = true from h)

theorem laneRunStart (unit : Nat) : Statement (.laneRunStart unit) := fun h => Bool.noConfusion (show false = true from h)

theorem laneRunComplete (unit : Nat) : Statement (.laneRunComplete unit) := fun h => Bool.noConfusion (show false = true from h)

theorem matrixEntryExecute (unit : Nat) : Statement (.matrixEntryExecute unit) := fun h => Bool.noConfusion (show false = true from h)

theorem matrixEntryComplete (unit : Nat) : Statement (.matrixEntryComplete unit) := fun h => Bool.noConfusion (show false = true from h)

theorem tileDispatch (chain : Nat) : Statement (.tileDispatch chain) := fun h => Bool.noConfusion (show false = true from h)

theorem tileSteal (unit : Nat) : Statement (.tileSteal unit) := fun h => Bool.noConfusion (show false = true from h)

theorem tileTask (unit : Nat) : Statement (.tileTask unit) := fun h => Bool.noConfusion (show false = true from h)

theorem tileTaskAged (unit : Nat) : Statement (.tileTaskAged unit) := fun h => Bool.noConfusion (show false = true from h)

theorem atomicApply (n : Nat) : Statement (.atomicApply n) := fun h => Bool.noConfusion (show false = true from h)

theorem afaddApply (n : Nat) : Statement (.afaddApply n) := fun h => Bool.noConfusion (show false = true from h)

theorem afinitApply (n : Nat) : Statement (.afinitApply n) := fun h => Bool.noConfusion (show false = true from h)

theorem scTokenVisit : Statement (.scTokenVisit) := fun h => Bool.noConfusion (show false = true from h)

theorem phaseBoundaryComplete (k : Nat) : Statement (.phaseBoundaryComplete k) := fun h => Bool.noConfusion (show false = true from h)

theorem phaseovf (k slot : Nat) : Statement (.phaseovf k slot) := fun h => Bool.noConfusion (show false = true from h)

theorem washMemberRead (n member : Nat) : Statement (.washMemberRead n member) := fun h => Bool.noConfusion (show false = true from h)

theorem copybookAppend (n : Nat) : Statement (.copybookAppend n) := fun h => Bool.noConfusion (show false = true from h)

theorem scribeApply (slab obj : Nat) : Statement (.scribeApply slab obj) := fun h => Bool.noConfusion (show false = true from h)

theorem squashAbsorb (n member : Nat) : Statement (.squashAbsorb n member) := fun h => Bool.noConfusion (show false = true from h)

theorem pageRequest (n : Nat) : Statement (.pageRequest n) := fun h => Bool.noConfusion (show false = true from h)

theorem enginePageRewalk (chain : Nat) : Statement (.enginePageRewalk chain) := fun h => Bool.noConfusion (show false = true from h)

theorem seqWatcherWake (n : Nat) : Statement (.seqWatcherWake n) := fun h => Bool.noConfusion (show false = true from h)

theorem seqOverflowScan (slab : Nat) : Statement (.seqOverflowScan slab) := fun h => Bool.noConfusion (show false = true from h)

theorem roundWrite : Statement (.roundWrite) := fun h => Bool.noConfusion (show false = true from h)

theorem ownrngWrite (idx : Nat) (val : Word) : Statement (.ownrngWrite idx val) := fun h => Bool.noConfusion (show false = true from h)

theorem wellshareWrite (slab idx : Nat) (val : Word) : Statement (.wellshareWrite slab idx val) := fun h => Bool.noConfusion (show false = true from h)

theorem smpctxAssign (slab idx : Nat) (part : BitVec 8) : Statement (.smpctxAssign slab idx part) := fun h => Bool.noConfusion (show false = true from h)

theorem smpctxUnassign (slab idx : Nat) : Statement (.smpctxUnassign slab idx) := fun h => Bool.noConfusion (show false = true from h)

theorem jobkill (job : Nat) : Statement (.jobkill job) := fun h => Bool.noConfusion (show false = true from h)

theorem prqWrite (idx : Nat) (val : Word) : Statement (.prqWrite idx val) := fun h => Bool.noConfusion (show false = true from h)

theorem nibpartWrite (slab idx : Nat) (val : Word) : Statement (.nibpartWrite slab idx val) := fun h => Bool.noConfusion (show false = true from h)

theorem keyslotLoad (idx : Nat) : Statement (.keyslotLoad idx) := fun h => Bool.noConfusion (show false = true from h)

theorem keyslotErase (idx : Nat) : Statement (.keyslotErase idx) := fun h => Bool.noConfusion (show false = true from h)

theorem swqWrite (slab idx : Nat) (val : Word) : Statement (.swqWrite slab idx val) := fun h => Bool.noConfusion (show false = true from h)

theorem roletabWrite (slab idx : Nat) (val : Word) : Statement (.roletabWrite slab idx val) := fun h => Bool.noConfusion (show false = true from h)

theorem replayWrite (idx : Nat) (val : Word) : Statement (.replayWrite idx val) := fun h => Bool.noConfusion (show false = true from h)

theorem bandwidthRefill (slab : Nat) : Statement (.bandwidthRefill slab) := fun h => Bool.noConfusion (show false = true from h)

theorem slewStep (slab : Nat) : Statement (.slewStep slab) := fun h => Bool.noConfusion (show false = true from h)

theorem routerPowerGate (slab site : Nat) : Statement (.routerPowerGate slab site) := fun h => Bool.noConfusion (show false = true from h)

theorem routerWake (slab site : Nat) : Statement (.routerWake slab site) := fun h => Bool.noConfusion (show false = true from h)

theorem correctableError (kind slab unit : Nat) : Statement (.correctableError kind slab unit) := fun h => Bool.noConfusion (show false = true from h)

theorem configStoreError (unit addr : Nat) : Statement (.configStoreError unit addr) := fun h => Bool.noConfusion (show false = true from h)

theorem dieLinkFlit (link : Nat × Nat) (seq : Nat) (crcOk : Bool) : Statement (.dieLinkFlit link seq crcOk) := fun h => Bool.noConfusion (show false = true from h)

theorem wydalFlit (port : Nat) (flit : Flit) (crc : BitVec 64) : Statement (.wydalFlit port flit crc) := fun h => Bool.noConfusion (show false = true from h)

theorem peerWordArrival (peer : Nat) (place word : Word) : Statement (.peerWordArrival peer place word) := fun h => Bool.noConfusion (show false = true from h)

theorem linkLaneRetrain (link : LinkId) : Statement (.linkLaneRetrain link) := fun h => Bool.noConfusion (show false = true from h)

theorem laneSpareRemap (unit lane : Nat) : Statement (.laneSpareRemap unit lane) := fun h => Bool.noConfusion (show false = true from h)

theorem wellRowRemap (slab well row : Nat) : Statement (.wellRowRemap slab well row) := fun h => Bool.noConfusion (show false = true from h)

theorem hostSnoop (hpa : Nat) (data : List Byte) : Statement (.hostSnoop hpa data) := fun h => Bool.noConfusion (show false = true from h)

theorem doorbellResultRead (job : Nat) : Statement (.doorbellResultRead job) := fun h => Bool.noConfusion (show false = true from h)

theorem doorbellStatusRead (job : Nat) : Statement (.doorbellStatusRead job) := fun h => Bool.noConfusion (show false = true from h)

theorem attestNonce (nonce : List Byte) : Statement (.attestNonce nonce) := fun h => Bool.noConfusion (show false = true from h)

theorem clockChange (mhz : Nat) : Statement (.clockChange mhz) := fun h => Bool.noConfusion (show false = true from h)

theorem peerMemoryAccess (peer : Nat) (access : PeerAccess) (tier pa n : Nat) (data : List Byte) : Statement (.peerMemoryAccess peer access tier pa n data) := fun h => Bool.noConfusion (show false = true from h)

theorem ucieLinkTraining (mods : Nat) : Statement (.ucieLinkTraining mods) := fun h => Bool.noConfusion (show false = true from h)

end Sys2Proof.Laws.RoundTrip
end

