-- ==== Sys2Proof/Tests/Slice0.lean ====
section
/-!
SUPPORT. Tests/Slice0.lean: ill-formed terms that are refused, words of the manual that decode to their instructions, values that the
manual gives, and for every statement with hypotheses a concrete state and operands that meet them.
-/
namespace Sys2Proof.Tests

set_option Elab.async false

open Sys2Proof.Machine Sys2Proof.Claim

/-! ## Ill-formed instructions: one for each check on one word (R38, R40, R43, R54) -/

/-- An event is no instruction word. -/
theorem test_ill_event : WellFormed .gatewayRefill = false := by decide
/-- Target (R38): no route with a nonzero rest. -/
theorem test_ill_target_none : WellFormed (.get 0x001 0 0) = false := by decide
/-- Target (R38): an edge port on port B. -/
theorem test_ill_target_edge : WellFormed (.movi 0x140 0 0) = false := by decide
/-- Target (R38): both targets on one input. -/
theorem test_ill_target_twice : WellFormed (.mov 0x081 0x081 0) = false := by decide
/-- PUT and the memory instructions allow modes 00 and 11 (R43). -/
theorem test_ill_mode_put : WellFormed (.put 1 0) = false := by decide
theorem test_ill_mode_ld : WellFormed (.ld 0x081 2 0 0 0 0) = false := by decide
theorem test_ill_mode_aadd : WellFormed (.aadd 0x081 1 0 1 0) = false := by decide
/-- Exits allow modes 00, 01 and 10 (R43). -/
theorem test_ill_mode_exit : WellFormed (.exit 0 3 0) = false := by decide
/-- An immediate shift amount at or above W (R95). -/
theorem test_ill_shift : WellFormed (.shli 0x081 0 0 1 32) = false := by decide
/-- A packed format that is neither FP16 nor BF16 (R103). -/
theorem test_ill_packed : WellFormed (.padd 0x081 3 0 0 0 0 0) = false := by decide
/-- A format code of CVT above 8, and one of SRND outside 1 to 4 (R76, R77). -/
theorem test_ill_cvt : WellFormed (.cvt 0x081 9 0 0 0 0 0 0) = false := by decide
theorem test_ill_srnd : WellFormed (.srnd 0x081 0 0 0 0 0) = false := by decide
/-- LD.sp with the qualifier of an SC access, ST in the own window with raw, LDV and FESET with sizes or qualifiers of no row (Table 5-6,
R116, R123). -/
theorem test_ill_ld : WellFormed (.ld 0x081 0 0 0 3 5) = false := by decide
theorem test_ill_st : WellFormed (.st 0x081 0 0 2 3 6) = false := by decide
theorem test_ill_ldv : WellFormed (.ldv 0x081 0 0 1 0 1) = false := by decide
theorem test_ill_stv : WellFormed (.stv 0x081 0 0 1 0 3) = false := by decide
theorem test_ill_feset : WellFormed (.feset 0x081 0 0 1 0 0) = false := by decide
/-- CBADV of no slot (R136). -/
theorem test_ill_cbadv : WellFormed (.cbadv 0x081 0 0 0 0) = false := by decide
/-- Vector atomics and AFADD outside the spaces 01 and 11 (R240, R241). -/
theorem test_ill_aaddv : WellFormed (.aaddv 0x081 0 0 0 0) = false := by decide
theorem test_ill_afadd : WellFormed (.afadd 0x081 0 0 2) = false := by decide
/-- A scope of 6, and a FENCE of nothing (R231, R232). -/
theorem test_ill_phase : WellFormed (.phase 0x081 0 6) = false := by decide
theorem test_ill_fence : WellFormed (.fence 0x081 0 0 0) = false := by decide
/-- CLR with a register that it does not clear (Tables 7-9 and 8-4). -/
theorem test_ill_mstat : WellFormed (.mstat 0x081 0 1 1) = false := by decide
theorem test_ill_lstat : WellFormed (.lstat 0x081 0 1 2) = false := by decide

/-- SBIND with CLR keeps bits 11:7 zero, and RAW needs a virtual space (R133). -/
theorem test_ill_sbind : WellFormed (.sbind 0x081 0 1 0 3 0 0 5) = false := by decide
theorem test_ill_sbind_raw : WellFormed (.sbind 0x081 0 0 1 3 0 0 5) = false := by decide
/-- An operation or type of a wash that Table 10-3 does not define. -/
theorem test_ill_wld : WellFormed (.wld 0x081 0 0 3 0) = false := by decide
theorem test_ill_wlds : WellFormed (.wlds 0x081 0 0 3) = false := by decide
/-- CPCALL with a channel but no NW, CPSTAT of an undefined selector (Table 11-6). -/
theorem test_ill_cpcall : WellFormed (.cpcall 0x081 0 0 1) = false := by decide
theorem test_ill_cpstat : WellFormed (.cpstat 0x081 0 6) = false := by decide
/-- SQCHK with RET 11, PEN of nothing, GMASK of a scratchpad, TDEPTH of depths with a pair number (Tables 12-5 and 13-4). -/
theorem test_ill_sqchk : WellFormed (.sqchk 0x081 0 3 0) = false := by decide
theorem test_ill_pen : WellFormed (.pen 0x081 0 1 0 0 0) = false := by decide
theorem test_ill_gmask : WellFormed (.gmask 0x081 0 0) = false := by decide
theorem test_ill_tdepth : WellFormed (.tdepth 0x081 0 0 1) = false := by decide
/-- Predicate modes of the counted stores KVWR and CANDST, of PARK and of TRAP (R43, R332, R366). -/
theorem test_ill_mode_kvwr : WellFormed (.kvwr 0x081 1) = false := by decide
theorem test_ill_mode_candst : WellFormed (.candst 0x081 2) = false := by decide
theorem test_ill_mode_park : WellFormed (.park 3 0) = false := by decide
theorem test_ill_mode_trap : WellFormed (.trap 0x081 3) = false := by decide

/-! ## Decoding -/

/-- Every word of a list decodes to its instruction. -/
def decodes (l : List (Nat × Instr)) : Bool := l.all fun e => decodeTableWord 32 e.1 == some e.2

/-- A word is refused by the given name. -/
def refusedAs (w : Nat) (e : DecodeError) : Bool :=
  match decodeWord (BitVec.ofNat 32 w) with
  | .error x => x == e
  | .ok _ => false

/-- Majors 0x00 and 0x7F, and extended opcode 0x000 of group 0x7B, are unassigned (Tables 2-6 and 2-10). -/
theorem test_reserved_opcodes : (refusedAs 0 .rsvOp && refusedAs 0xFE000000 .rsvOp && refusedAs 0xF6000000 .rsvOp) = true := by decide
/-- Reserved bits of FW and FM (R40). -/
theorem test_reserved_fields : (refusedAs 0x04010000 .rsvField && refusedAs 0x90850001 .rsvField) = true := by decide
/-- Modifier bits and an immediate that no entry defines (R41, R85). -/
theorem test_reserved_modifiers : (refusedAs 0x20830002 .rsvMod && refusedAs 0x0A814001 .rsvMod) = true := by decide

/-- Words that the manual's listings give for their instructions, majors 0x0 to 0x47. -/
theorem test_listing_arithmetic : decodes
  [(0x02884481, .get 0x88 0x89 1), (0x04000186, .put 3 6), (0x06823FFF, .movi 0x82 0 0x3fff), (0x08830040, .mov 0x83 0 2),
   (0x0B060000, .null 0x106 0), (0x0C840003, .recv 0x84 0 3), (0x0E850000, .sel 0x85 0), (0x10830000, .gate 0x83 0 0),
   (0x126FFFF8, .bra 1 2 0xffff8), (0x14500000, .bri 1 1 0), (0x18000000, .ret 0 0 0), (0x1A000005, .exit 0 0 5),
   (0x1C824200, .ctr 0x82 0x84 0 0), (0x1E88000C, .movx 0x88 0 0xc), (0x2084000C, .add 0x84 0 0 1 1),
   (0x22858320, .sub 0x85 0x106 1 0 0), (0x25023FFD, .addi 0x102 0 0x3ffd), (0x27070000, .mul 0x107 0 0 0 0),
   (0x38863FC0, .andi 0x86 0 0x3fc0), (0x3A840007, .ori 0x84 0 7), (0x46820020, .shli 0x82 0 0 0 0x20),
   (0x48820045, .shri 0x82 0 0 1 5), (0x519ACD8E, .cmp 0x19a 0x19b 0 1 1 2), (0x60870071, .fadd 0x87 0 3 1 0 0 1),
   (0x66890000, .ffma 0x89 0 0 0 0 0), (0x6E860003, .fclass 0x86 0 0 3), (0x76862000, .pdot 0x86 2 0 0 0 0),
   (0x82830201, .cvt 0x83 0 2 0 0 0 0 1), (0x84890200, .srnd 0x89 2 0 0 0 0), (0x8682001F, .rdflg 0x82 0 0x1f),
   (0x88000010, .clrflg 0 0 0x10), (0x8B070284, .rngn 0x107 0 5 4)] = true := by decide +kernel

/-- Words that the manual's listings give for their instructions, majors 0x48 to 0x5f. -/
theorem test_listing_memory : decodes
  [(0x9085044C, .ld 0x85 0 2 0 2 3), (0x92000764, .st 0 0 3 2 3 1), (0x948902CC, .ldv 0x89 0 1 1 2 3),
   (0x960009B8, .stv 0 0 4 3 1 6), (0x98000A44, .feset 0 0 5 0 2 1), (0x9A000013, .cbinit 0 0 1 3),
   (0x9C860082, .cbwait 0x86 0 4 0 2), (0x9E830031, .cbrsv 0x83 0 1 1 1), (0xA0880031, .cbadv 0x88 0 1 1 1),
   (0xA2810482, .sbind 0x81 0 0 0 2 1 0 2), (0xA4000002, .bset 0 0 2), (0xA6830001, .bperm 0x83 0 0 1),
   (0xB08500C0, .aadd 0x85 0 0 1 2), (0xB10707A8, .amax 0x107 0 3 3 1), (0xB2890280, .acas 0x89 1 1 0),
   (0xB48405D0, .aorv 0x84 0 2 3 2), (0xB68600C0, .afadd 0x86 0 0 1), (0xB8000003, .afinit 0 0 0 1 1),
   (0xBA840004, .phase 0x84 0 4), (0xBC820003, .fence 0x82 0 1 1), (0xBE880001, .publish 0x88 0 0 1)] = true := by decide +kernel

/-- Words that the manual's listings give for their instructions, majors 0x60 to 0x77. -/
theorem test_listing_engines : decodes
  [(0xC1050080, .mda 0x105 1 0), (0xC1060300, .mdb 0x106 2 0), (0xC2890690, .mma 0x89 3 1 0 1), (0xC4830080, .accwr 0x83 0),
   (0xC7020000, .accz 0x102 0), (0xC8840280, .kld 0x84 5 0), (0xCA870000, .drain 0x87 0), (0xCD040480, .rtset 0x104 9 0),
   (0xCE830004, .mstat 0x83 0 1 0), (0xD1050100, .lcfg 0x105 2 0), (0xD2870101, .lrun 0x87 2 0 0 0 0 1),
   (0xD4880010, .lwait 0x88 0 1), (0xD6830004, .lstat 0x83 0 1 0), (0xE0844280, .steer 0x84 0x85), (0xE4870000, .carry 0x87 0)] = true := by decide +kernel

/-- Words that the manual's listings give for their instructions, majors 0x78 to 0x78. -/
theorem test_listing_group78 : decodes
  [(0xF0000181, .hclr 0 0 1), (0xF0000640, .park 2 0), (0xF0820310, .inrd 0x82 0 1 0), (0xF0830480, .chapp 0x83 0),
   (0xF0840080, .hset 0x84 0), (0xF0850403, .barw 0x85 0 3), (0xF0860502, .seqwait 0x86 0 2), (0xF1070200, .chsend 0x107 0)] = true := by decide +kernel

/-- Words that the manual's listings give for their instructions, majors 0x79 to 0x79. -/
theorem test_listing_group79 : decodes
  [(0xF2000081, .wgrpPresent 0 0), (0xF2002001, .cpdefRel 0 0), (0xF2820201, .wstat 0x82 0 1), (0xF2830185, .wlds 0x83 0 1 1),
   (0xF2840080, .wgrpDef 0x84 0), (0xF2842000, .cpdef 0x84 0), (0xF285017A, .wld 0x85 3 1 2 2), (0xF2852183, .cpwait 0x85 0 3),
   (0xF2862091, .cpcall 0x86 0 1 1), (0xF2862200, .cptrim 0x86 0), (0xF2882380, .cpret 0x88 0), (0xF28C2100, .cpread 0x8c 0),
   (0xF28C2281, .cpstat 0x8c 0 1), (0xF3052301, .cparg 0x105 0 1)] = true := by decide +kernel

/-- Words that the manual's listings give for their instructions, majors 0x7a to 0x7a. -/
theorem test_listing_group7A : decodes
  [(0xF4000282, .sqregRel 0 0), (0xF4002100, .candst 0 0), (0xF4820180, .tagrd 0x82 0), (0xF4832306, .pen 0x83 0 0 1 1 0),
   (0xF4842400, .jcommit 0x84 0), (0xF4850208, .sqchk 0x85 0 1 0), (0xF4862503, .gmask 0x86 0 3), (0xF4872281, .draw 0x87 0 0 1),
   (0xF4892001, .topk 0x89 0 1), (0xF48E0100, .launch 0x8e 0), (0xF49700E0, .guess 0x97 3), (0xF4A52700, .tmload 0xa5 0),
   (0xF4AA278B, .tdepth 0xaa 0 1 3), (0xF5022600, .grest 0x102 0), (0xF5052202, .rngnext 0x105 0 2),
   (0xF50B0280, .sqregChan 0x10b 0), (0xF50C0281, .sqregRows 0x10c 0), (0xF5180300, .kvwr 0x118 0), (0xF5182682, .tmask 0x118 0 2)] = true := by decide +kernel

/-- Words that the manual's listings give for their instructions, majors 0x7b to 0x7b. -/
theorem test_listing_group7B : decodes
  [(0xF6000384, .ctxoutDrop 0 0 0 0), (0xF6000600, .halt 0), (0xF6820080, .trap 0x82 0), (0xF6820581, .cfginv 0x82 0 1),
   (0xF6830180, .csrr 0x83 0), (0xF6830480, .tlbinv 0x83 0 0), (0xF6860100, .rft 0x86 0), (0xF6860280, .freeze 0x86 0),
   (0xF6870300, .thaw 0x87 0), (0xF6880383, .ctxout 0x88 0 1 1), (0xF6890400, .ctxin 0x89 0), (0xF7040200, .csrw 0x104 0),
   (0xF7050501, .tlbprobe 0x105 0 1)] = true := by decide +kernel

/-- Words put together from the formats of Table 2-3 and the fields of the entries. -/
theorem test_fields_arithmetic : decodes
  [(0x16E80001, .call 3 2 0x80001), (0x2881814C, .mulh 0x81 0x102 2 1 1), (0x2A818135, .div 0x81 0x102 1 2 1 1),
   (0x2C818135, .rem 0x81 0x102 1 2 1 1), (0x2E81814C, .neg 0x81 0x102 2 1 1), (0x3081814C, .and 0x81 0x102 2 1 1),
   (0x3281814C, .or 0x81 0x102 2 1 1), (0x3481814C, .xor 0x81 0x102 2 1 1), (0x3681814C, .andn 0x81 0x102 2 1 1),
   (0x3C817F0F, .xori 0x81 1 0x3F0F), (0x3E81814C, .not 0x81 0x102 2 1 1), (0x4081814C, .shl 0x81 0x102 2 1 1),
   (0x4281814C, .shr 0x81 0x102 2 1 1), (0x4481814C, .asr 0x81 0x102 2 1 1), (0x4A81815F, .asri 0x81 2 1 1 31),
   (0x4C81814C, .clz 0x81 0x102 2 1 1), (0x4E81814C, .popc 0x81 0x102 2 1 1), (0x5281814C, .min 0x81 0x102 2 1 1),
   (0x5481814C, .max 0x81 0x102 2 1 1), (0x56818164, .bfx 0x81 0x102 3 1), (0x58818100, .bfi 0x81 0x102),
   (0x5A818155, .lea 0x81 0x102 2 1 5), (0x5C818135, .adds 0x81 0x102 1 2 1 1), (0x5E818135, .subs 0x81 0x102 1 2 1 1),
   (0x62818136, .fsub 0x81 0x102 1 1 0 1 2), (0x64818136, .fmul 0x81 0x102 1 1 0 1 2), (0x68818129, .fmax 0x81 0x102 1 0 1 0 0),
   (0x6881812A, .fmin 0x81 0x102 1 0 1 0 1), (0x6A818160, .fneg 0x81 0x102 3), (0x6A818161, .fabs 0x81 0x102 3),
   (0x6C818151, .fcmp 0x81 0x102 2 1 0 1), (0x70811027, .padd 0x81 1 1 0 0 1 3), (0x72812050, .pmul 0x81 2 2 1 0 0 0),
   (0x74811009, .pfma 0x81 1 0 1 0 1), (0x78818136, .rcp 0x81 0x102 1 1 0 1 2), (0x7A818136, .rsq 0x81 0x102 1 1 0 1 2),
   (0x7C818136, .exp2 0x81 0x102 1 1 0 1 2), (0x7E818136, .log2 0x81 0x102 1 1 0 1 2), (0x80818136, .tanh 0x81 0x102 1 1 0 1 2)] = true := by decide +kernel

/-- Words put together from the formats of Table 2-3 and the fields of the entries. -/
theorem test_fields_others : decodes
  [(0xB081D2C4, .amin 0x81 3 9 1 2), (0xB081D2CC, .aand 0x81 3 9 1 2), (0xB081D2D0, .aor 0x81 3 9 1 2),
   (0xB081D2D4, .axor 0x81 3 9 1 2), (0xB081D2D8, .aswp 0x81 3 9 1 2), (0xB481D3A0, .aaddv 0x81 3 9 3 1),
   (0xB481D3A4, .aminv 0x81 3 9 3 1), (0xB481D3A8, .amaxv 0x81 3 9 3 1), (0xB481D3AC, .aandv 0x81 3 9 3 1),
   (0xB481D3B4, .axorv 0x81 3 9 3 1), (0xB481D3B8, .aswpv 0x81 3 9 3 1), (0xC4810020, .accrd 0x81 1),
   (0xE2818100, .merge 0x81 0x102), (0xE6818100, .invar 0x81 0x102), (0xE8818101, .rrmerge 0x81 0x102 1),
   (0xF0810121, .hmask 0x81 1 1), (0xF08102C0, .chmcast 0x81 2), (0xF08103EB, .bara 0x81 3 11), (0xF08105A0, .seqrd 0x81 1),
   (0xF28100E2, .wgrpRel 0x81 3), (0xF48120A0, .candld 0x81 1), (0xF48121C3, .rngseed 0x81 2 3), (0xF48123E0, .jrnl 0x81 3),
   (0xF48124A0, .jdrop 0x81 1), (0xF48125C0, .gsnap 0x81 2)] = true := by decide +kernel

/-! ## Small states -/

/-- Stroke 0 of nib 0 (or of the unit the word needs) about to fire slot 0, whose ports hold `a`, `b` and `p`; slot 1 receives. -/
def at0 (w : Nat) (a b p : Option Token) : State :=
  let s := loadWord .reset w
  let k := homeUnit w * 32
  let s := s.modInst k fun i => { i with words := i.words ++ [0], slots := i.slots ++ [{}] }
  let s := s.modSlot k 0 fun x => { x with portA := a, portB := b, portP := p }
  { s with agenda := [], cur := { stroke := k } }

def ab (a b : Nat) : State := at0 0 (some (some (word a))) (some (some (word b))) (some (some 1))

/-- With the instruction's own unit. -/
def iu (i : Instr) (a b : Nat) (m : State → State) : Instr × State :=
  (i, m (at0 ((encode i).getD 0).toNat (some (some (word a))) (some (some (word b))) (some (some 1))))

def nx (r : Host.Outcome State Fault Refusal) : State :=
  match r with
  | .next s => s
  | _ => .reset

/-- The token that the slot sends to port A of slot 1. -/
def result (i : Instr) (s : State) : Option Token := ((nx (exec i s)).slot s.cur.stroke 1).bind (·.portA)

/-- Flags raised in the instance at the cursor (R72). -/
def flagsAfter (i : Instr) (s : State) : Option Flags := ((nx (exec i s)).inst s.cur.stroke).map (·.raised)

def gives (l : List (Instr × Nat × Nat × Word)) : Bool := l.all fun e => result e.1 (ab e.2.1 e.2.2.1) == some (some e.2.2.2)

/-! ## Values -/

/-- R92, R93: wrapping at W, extension by U; hand calculation. -/
theorem test_add_sub : gives
  [(.add 0x81 0 0 0 0, 2 ^ 64 - 1, 2, 1), (.add 0x81 0 0 1 0, 0x7FFFFFFF, 1, 0xFFFFFFFF80000000), (.sub 0x81 0 0 0 0, 3, 5, -2),
   (.addi 0x81 0 0x3FFD, 3, 0, 0), (.neg 0x81 0 0 3 1, 1, 0, 0xFF)] = true := by decide +kernel
theorem test_mul : gives
  [(.mul 0x81 0 0 3 0, 0x10, 8, 0xFFFFFFFFFFFFFF80), (.mulh 0x81 0 0 0 1, 2 ^ 64 - 1, 2 ^ 64 - 1, -2), (.mulh 0x81 0 0 0 0, 2 ^ 64 - 1, 1, -1)] = true := by
  decide +kernel
/-- R94: truncation, a zero divisor, the most negative number over -1. -/
theorem test_div_rem : gives
  [(.div 0x81 0 0 0 0 0, 2 ^ 64 - 7, 2, -3), (.rem 0x81 0 0 0 0 0, 2 ^ 64 - 7, 2, -1), (.div 0x81 0 0 0 1 0, 7, 0, -1), (.rem 0x81 0 0 0 1 0, 7, 0, 7),
   (.div 0x81 0 0 1 0 0, 0x80000000, 0xFFFFFFFF, 0xFFFFFFFF80000000), (.rem 0x81 0 0 1 0 0, 0x80000000, 0xFFFFFFFF, 0)] = true := by decide +kernel
theorem test_div_flags : (flagsAfter (.div 0x81 0 0 0 1 0) (ab 7 0) == some 8 && flagsAfter (.div 0x81 0 0 0 1 1) (ab 7 0) == some 0) = true := by
  decide +kernel
theorem test_saturate : gives
  [(.adds 0x81 0 0 0 0 0, 2 ^ 63 - 1, 1, 0x7FFFFFFFFFFFFFFF), (.subs 0x81 0 0 0 1 0, 3, 5, 0), (.subs 0x81 0 0 3 0 0, 0x80, 1, -128)] = true := by decide +kernel
theorem test_logic : gives
  [(.and 0x81 0 0 0 0, 0xFF, 0x3C, 0x3C), (.or 0x81 0 0 0 0, 0xF0, 0x0F, 0xFF), (.xor 0x81 0 0 0 0, 0xFF, 0x0F, 0xF0), (.andn 0x81 0 0 0 0, 0xFF, 0x0F, 0xF0),
   (.not 0x81 0 0 3 1, 0x0F, 0, 0xF0), (.andi 0x81 0 0x3FC0, 0xFFFF, 0, 0xFFC0), (.ori 0x81 0 7, 8, 0, 15), (.xori 0x81 0 0x3FFF, 0, 0, -1)] = true := by decide +kernel
/-- Shift amounts modulo W (R93). -/
theorem test_shift : gives
  [(.shl 0x81 0 0 0 0, 1, 65, 2), (.shr 0x81 0 0 2 1, 0x8000, 4, 0x800), (.asr 0x81 0 0 3 0, 0x80, 7, -1), (.shli 0x81 0 0 1 31, 1, 0, 0xFFFFFFFF80000000),
   (.shri 0x81 0 1 1 4, 0x80000000, 0, 0x8000000), (.asri 0x81 0 0 0 63, 2 ^ 63, 0, -1)] = true := by decide +kernel
theorem test_count_compare : gives
  [(.clz 0x81 0 0 2 1, 1, 0, 15), (.clz 0x81 0 0 0 1, 0, 0, 64), (.popc 0x81 0 0 3 1, 0xFFFF, 0, 8), (.cmp 0x81 0 0 0 0 2, 2 ^ 64 - 1, 1, 1),
   (.cmp 0x81 0 0 0 1 2, 2 ^ 64 - 1, 1, 0), (.min 0x81 0 0 0 0, 2 ^ 64 - 1, 1, -1), (.max 0x81 0 0 0 1, 2 ^ 64 - 1, 1, -1)] = true := by decide +kernel
/-- R96, R97: a field of 8 bits at 4, sign-extended; an index of 32 bits. -/
theorem test_field_lea : gives
  [(.bfx 0x81 0 0 0, 0xABCD, 0x0804, 0xFFFFFFFFFFFFFFBC), (.bfx 0x81 0 0 1, 0xABCD, 0x0804, 0xBC), (.lea 0x81 0 0 0 3, 100, 3, 124),
   (.lea 0x81 0 0 1 2, 100, 0xFFFFFFFF, 96)] = true := by decide +kernel
theorem test_bfi : result (.bfi 0x81 0) (at0 0 (some (some 0xFFFF)) (some (some 0)) (some (some 0x0804))) = some (some 0xF00F) := by decide +kernel
/-- FP32: 1 + 2, 3 - 1, 1.5 * 2, -0 below +0, 1 < 2, 1/2, 2^3, log2 8 (R99, R100, R102). -/
theorem test_float : gives
  [(.fadd 0x81 0 0 0 0 0 0, 0x3F800000, 0x40000000, 0x40400000), (.fsub 0x81 0 0 0 0 0 0, 0x40400000, 0x3F800000, 0x40000000),
   (.fmul 0x81 0 0 0 0 0 0, 0x3FC00000, 0x40000000, 0x40400000), (.fmin 0x81 0 0 0 0 0 0, 0, 0x80000000, 0x80000000),
   (.fmax 0x81 0 0 0 0 0 0, 0x7FC00000, 0x3F800000, 0x3F800000), (.fcmp 0x81 0 0 0 0 1, 0x3F800000, 0x40000000, 1),
   (.fneg 0x81 0 0, 0x3F800000, 0, 0xBF800000), (.fabs 0x81 0 0, 0xFFC00001, 0, 0x7FC00001)] = true := by decide +kernel
theorem test_functions : gives
  [(.rcp 0x81 0 0 0 0 0 0, 0x40000000, 0, 0x3F000000), (.rsq 0x81 0 0 0 0 0 0, 0x80000000, 0, 0xFF800000), (.exp2 0x81 0 0 0 0 0 0, 0x40400000, 0, 0x41000000),
   (.log2 0x81 0 0 0 0 0 0, 0x41000000, 0, 0x40400000), (.tanh 0x81 0 0 0 0 0 0, 0x7F800000, 0, 0x3F800000)] = true := by decide +kernel
/-- Packed FP16: 1 + 1 in each element (R103); FP32 1.0 to BF16 and INT32 to FP32 (R76). -/
theorem test_packed_convert : gives
  [(.padd 0x81 1 0 0 0 0 0, 0x3C003C003C003C00, 0x3C003C003C003C00, 0x4000400040004000), (.cvt 0x81 0 2 0 0 0 0 0, 0x3F800000, 0, 0x3F80)] = true := by
  decide +kernel
/-- The sample images of D8 codes (R63). -/
theorem test_d8_images : gives
  [(.cvt 0x81 3 0 0 0 0 0 0, 0x60, 0, 0x3F800000), (.cvt 0x81 3 0 0 0 0 0 0, 0x40, 0, 0x3C23D70A), (.cvt 0x81 3 0 0 0 0 0 0, 0x7F, 0, 0x42BCC000),
   (.cvt 0x81 3 0 0 0 0 0 0, 0x3F, 0, 0x493D3580)] = true := by decide +kernel
/-- The predicate modes of Table 2-5 on MOV: mode 11 with P zero sends null, mode 01 with P zero sends nothing. -/
theorem test_predicate_null : result (.mov 0x81 0 3) (at0 0 (some (some 5)) none (some (some 0))) = some none := by decide +kernel
theorem test_predicate_declines : result (.mov 0x81 0 1) (at0 0 (some (some 5)) none (some (some 0))) = none := by decide +kernel
/-- R44: null on a data port gives null and no flag. -/
theorem test_null_operand : result (.div 0x81 0 0 0 0 0) (at0 0 (some (some 5)) (some none) none) = some none := by decide +kernel
/-- R6, R111: a store of eight bytes, least significant byte first, and a misaligned one that traps with MISALIGN and the address. -/
theorem test_store_order :
    ((span 0 8).map fun i => (nx (exec (.st 0x81 0 0 0 3 0) (ab 16 0x0102030405060708))).mem.byte (spadKey 0 (16 + i))) = [8, 7, 6, 5, 4, 3, 2, 1] := by
  decide +kernel
theorem test_misaligned : ((nx (exec (.ld 0x81 0 0 0 3 0) (ab 3 0))).stroke 0).map (fun t => (t.regs.trapcause, t.regs.trapval)) = some (0x10, 3) := by
  decide +kernel
/-- R348, R353: TRAP leaves REQUEST, its slot and A, and posts the report of Table 14-4 to place (0, 162, 0). -/
theorem test_trap : ((nx (exec (.trap 0x81 0) (ab 77 0))).stroke 0).map (fun t => (t.regs.trapcause, t.regs.trapslot, t.regs.trapval)) =
    some (1, 0, 77) := by decide +kernel
theorem test_trap_report : (nx (exec (.trap 0x81 0) (ab 77 0))).net.words.map (fun w => (w.place, w.word)) = [(162 * 64, 0x7E01000000000000)] := by
  decide +kernel

/-! ## Witnesses: for each statement with hypotheses, states and operands that meet them -/

/-- The instruction fires, its table gives an effect, and its results may leave. -/
def meets (table : Instr → Option Effect) (p : Instr × State) : Bool :=
  match table p.1, firing p.1 p.2 with
  | some e, some (x, g) =>
    match e x g p.2 with
    | some (_, r1, r2) => routed p.1 p.2 x r1 r2
    | none => false
  | _, _ => false

/-- The instruction fires and its table gives what it owes. -/
def meetsOwed (table : Instr → Option Owed) (p : Instr × State) : Bool :=
  match table p.1, firing p.1 p.2 with
  | some e, some (x, g) => (e x g p.2).isSome
  | _, _ => false

/-- The instruction fires and its table gives a trap. -/
def meetsTrap (table : Instr → Option (Ctx → Args → State → Option (Nat × Word))) (p : Instr × State) : Bool :=
  match table p.1, firing p.1 p.2 with
  | some e, some (x, g) => (e x g p.2).isSome
  | _, _ => false

/-- The table gives a state. -/
def meetsEvent (table : Instr → State → Option State) (p : Instr × State) : Bool := (table p.1 p.2).isSome

def on (s : State) (l : List Instr) : List (Instr × State) := l.map fun i => (i, s)

def one : State := ab (2 ^ 63 + 1) 3

/-! ### Computing -/

theorem witness_IntegerArithmeticResults : (on one [.add 0x81 0x101 0 0 0, .sub 0x81 0 0 1 1, .mul 0x81 0 0 2 0, .mulh 0x81 0 0 3 1, .neg 0x81 0 1 0 0,
    .min 0x81 0 3 0 0, .max 0x81 0 0 0 1, .addi 0x81 0 0x2000]).all (meets integerArithmeticResults) = true := by decide +kernel

theorem witness_IntegerLogicResults : ((on one [.and 0x81 0 0 0 0, .or 0x81 0 0 0 0, .xor 0x81 0 0 0 0, .andn 0x81 0 0 0 0, .not 0x81 0 0 0 0,
    .andi 0x81 0 0x3FFF, .ori 0x81 0 0, .xori 0x81 0 1, .shl 0x81 0 0 0 0, .shr 0x81 0 0 3 0, .asr 0x81 0 0 3 0, .shli 0x81 0 0 0 63, .shri 0x81 0 1 3 7,
    .asri 0x81 0 0 2 15]).all (meets integerLogicResults) &&
    (on one [.clz 0x81 0 0 0 0, .popc 0x81 0 0 3 0, .cmp 0x81 0 0 0 0 0, .cmp 0x81 0 0 0 1 3, .bfx 0x81 0 0 0, .bfi 0x81 0, .lea 0x81 0 0 0 7,
    .lea 0x81 0 0 1 0]).all (meets integerFieldResults)) = true := by decide +kernel

theorem witness_IntegerFlaggedResults : ([ab 7 0, ab (2 ^ 63) (2 ^ 64 - 1), ab 7 2].all fun s => (on s [.div 0x81 0 0 0 0 0, .rem 0x81 0 0 0 0 1,
    .div 0x81 0 0 0 1 0, .adds 0x81 0 0 0 0 0, .subs 0x81 0 0 0 1 0]).all (meets integerFlaggedResults)) = true := by decide +kernel

theorem witness_FloatArithmeticResults : ([ab 0x3F800001 0x40000003, ab 0x7FC00000 0x7F800000].all fun s => (on s [.fadd 0x81 0 0 0 0 0 0, .fsub 0x81 0 0 1 0 0 1,
    .fmul 0x81 0 0 0 1 1 2, .ffma 0x81 0 0 0 0 3, .padd 0x81 1 0 0 0 0 0, .pmul 0x81 2 0 0 0 0 0, .pfma 0x81 1 0 0 0 0, .pdot 0x81 2 0 0 0 0,
    .cvt 0x81 0 3 0 0 0 0 0, .cvt 0x81 7 0 0 0 0 0 1, .srnd 0x81 2 0 0 0 0]).all (meets floatArithmeticResults)) = true := by decide +kernel

theorem witness_FloatSelectResults : ([ab 0x80000000 0, ab 0x7FC00000 0x7F800001].all fun s => (on s [.fneg 0x81 0 0, .fabs 0x81 0 0, .fcmp 0x81 0 0 0 0 0,
    .fcmp 0x81 0 0 0 1 3, .fclass 0x81 0 0 0, .fclass 0x81 0 0 3, .fmin 0x81 0 0 0 0 0 0, .fmax 0x81 0 0 0 0 1 1]).all (meets floatSelectResults)) = true := by
  decide +kernel

theorem witness_FunctionResults : ((on (ab 0x40400000 0) [.rcp 0x81 0 0 0 0 0 0, .rsq 0x81 0 0 0 0 0 1, .exp2 0x81 0 0 0 0 0 2, .log2 0x81 0 0 0 0 0 3,
    .tanh 0x81 0 0 0 0 0 0]).all (meets functionResults) && ([ab 0x7F800000 0, ab 0x80000000 0, ab 0x7FC00000 0].all fun s => (on s [.rcp 0x81 0 0 0 0 0 0,
    .rsq 0x81 0 0 0 0 0 0, .exp2 0x81 0 0 0 0 0 0, .log2 0x81 0 0 0 0 0 0, .tanh 0x81 0 0 0 0 0 0]).all (meets functionSpecialOperands))) = true := by
  decide +kernel

/-- 3, 1/2 and -2: an inexact value of each function, an exact power and logarithm, and a negative operand; 2^99 and 2^-99 lie at the far ends. -/
theorem witness_FunctionOrdinaryOperands : ([ab 0x40400000 0, ab 0x3F000000 0, ab 0xC0000000 0, ab 0x71000000 0, ab 0x0E000000 0].all fun s => (on s [.rcp 0x81 0 0 0 0 0 0,
    .rsq 0x81 0 0 0 0 0 1, .exp2 0x81 0 0 0 0 0 2, .log2 0x81 0 0 0 0 0 3, .tanh 0x81 0 0 0 0 0 0]).all (meets functionOrdinaryOperands)) = true := by decide +kernel

/-! ### Moves, exits, routers -/

theorem witness_MovesComplete : ((on one [.get 0x81 0x101 127, .put 0 3, .movi 0x81 0 0x2000, .movx 0x81 0 0x3FFF, .mov 0x81 0x101 0, .null 0x81 0, .sel 0x81 0x101,
    .gate 0x81 0x101 0]).all (meets movesComplete) &&
    (on one [.rdflg 0x81 0 0x1F, .clrflg 0x81 0 0x3FFF, .rngn 0x81 0 127 0]).all (meets flagAndRandomResults)) = true := by decide +kernel

/-- Five exits in a single-mode block, and one before the final iteration of a stream-mode block. -/
theorem witness_ExitsFire : ((on one [.bra 0 0 5, .bri 1 0 0xFFFFF, .call 7 1 0x80000, .ret 0 1 5, .exit 0 0 7, .park 0 3]).all (meets exits) &&
    (on (one.modInst 0 fun i => { i with header := 0x010000FF, bound := some 3 }) [.bra 0 0 5, .exit 0 0 7]).all (meetsTrap earlyExits)) = true := by decide +kernel

/-- A second exit, at its last firing, after another has fired. -/
theorem witness_SecondExit : ((exitKind (.bra 0 0 5)).isSome &&
    (firing (.bra 0 0 5) (one.modInst 0 fun i => { i with fired := [⟨1, .goto 0⟩] })).any fun e => decide (¬ e.1.me.done + 1 < e.1.ins.total.getD 1)) = true := by
  decide +kernel

/-- A true C has gone by, and the feedback token of its round stands on port B. -/
theorem witness_CarryDiscards : (let s := one.modSlot 0 0 fun y => { y with drop := true }
    s.ctx.any fun x => x.me.drop && x.me.portB.isSome && !((discarded x s).ctx.any fun y => y.me.drop)) = true := by decide +kernel

theorem witness_RoutersComplete : ((on one [.ctr 0x81 0x101 0 0, .ctr 0x81 0x101 1 1, .steer 0x81 0x101, .merge 0x81 0x101, .carry 0x81 0x101, .invar 0x81 0x101,
    .rrmerge 0x81 0x101 0, .rrmerge 0x81 0x101 1]) ++ on (at0 0 (some (some 5)) (some (some 6)) (some none)) [.steer 0x81 0x101, .merge 0x81 0x101, .carry 0x81 0x101,
    .invar 0x81 0x101] ++ on (one.modSlot 0 0 fun x => { x with turned := true, fresh := false, keep := some (some 9) }) [.merge 0x81 0x101, .carry 0x81 0x101,
    .invar 0x81 0x101, .rrmerge 0x81 0x101 0]).all (meets routersComplete) = true := by decide +kernel

/-- The root counter of a stream-mode block takes its bound, and emits its last index. -/
theorem witness_RootCounter : ([one.modInst 0 fun i => { i with header := 0x010000FF, emitted := 0 },
    one.modInst 0 fun i => { i with header := 0x010000FF, bound := some 3, emitted := 2 }].all fun s => s.ctx.any fun x =>
      x.n == 0 && x.ins.stream && x.me.mode != .owed && x.me.out1.isNone && x.me.out2.isNone && decide (s.rounds.issued ≤ s.edgeOf x.k x.st) &&
      ((x.ins.bound == some 3 && decide (x.ins.emitted < 3)) || (x.ins.bound.isNone && x.me.portA.isSome)) &&
      (s.routeTrap x.k 0x81 (some none)).isNone && (s.routeTrap x.k 0x101 (some none)).isNone) = true := by decide +kernel

/-! ### Structure: predicates, null, traps, frames, stepping -/

/-- A slot that the statements about predicates and null speak of: short of a token, declining, sending null, firing, and given null. -/
theorem witness_PredicateModes : ([(at0 0 (some (some 5)) none none, false, Outcome25.fires), (at0 0 (some (some 5)) (some (some 6)) (some (some 0)), true, .null),
    (at0 0 (some (some 5)) (some (some 6)) (some none), true, .null), (at0 0 (some (some 5)) (some (some 6)) (some (some 1)), true, .fires)].all fun e =>
      e.1.ctx.any fun x => ordinary (.add 0x81 0 3 0 0) x && (formOf (.add 0x81 0 3 0 0) x.me).fed x.me == e.2.1 && x.fireable (formOf (.add 0x81 0 3 0 0) x.me) == e.2.1 &&
        (!e.2.1 || table25 3 x.me.portP.join == e.2.2)) = true := by decide +kernel

theorem witness_PredicateDeclines : ((at0 0 (some (some 5)) (some (some 6)) (some (some 0))).ctx.any fun x => ordinary (.add 0x81 0 1 0 0) x &&
    x.fireable (formOf (.add 0x81 0 1 0 0) x.me) && table25 1 x.me.portP.join == .nothing) = true := by decide +kernel

theorem witness_NullOperands : ((at0 0 (some (some 5)) (some none) none).ctx.any fun x => ordinary (.add 0x81 0 0 0 0) x &&
    x.fireable (formOf (.add 0x81 0 0 0 0) x.me) && table25 0 x.me.portP.join == .fires && !(formOf (.add 0x81 0 0 0 0) x.me).ownNull &&
    (formOf (.add 0x81 0 0 0 0) x.me).anyNull { a := x.me.portA.join, b := x.me.portB.join, c := x.me.portP.join }) = true := by decide +kernel

/-- The slots of an instance, counted. -/
def counted (i : Instance) : Bool := decide (i.slots.length = i.words.length ∧ i.words.length ≤ 64 ∧ ∀ f ∈ i.fired, f.slot < i.slots.length)

theorem numbered_of {s : State} (h : (s.strokes.all (fun e => e.2.run.inst.all counted) && s.rounds.saved.all (fun c => c.stroke.run.inst.all counted) &&
    s.units.all fun e => e.2.images.all fun m => decide (m.words.length ≤ 64)) = true) : Numbered s := by
  simp only [Bool.and_eq_true, List.all_eq_true, Option.all_eq_true, decide_eq_true_eq] at h
  exact ⟨fun e he i hi => by simpa [counted, numbered, and_assoc] using h.1.1 e he i hi, fun c hc i hi => by simpa [counted, numbered, and_assoc] using h.1.2 c hc i hi, h.2⟩

/-- The state of the frames, and the one that a step of it answers. -/
theorem witness_Numbered : Numbered one ∧ (match step one with | .next _ => true | _ => false) = true :=
  ⟨numbered_of (by decide +kernel), by decide +kernel⟩

theorem witness_NumberedStore : Numbered (ab 16 5) := numbered_of (by decide +kernel)

/-- exec answers a next state for the instructions of the two frames. -/
theorem witness_Frames : ((computes (.add 0x81 0 0 0 0) && accesses (.st 0x81 0 0 0 3 0)) && decide (one.cur.slot < 64) &&
    (match exec (.add 0x81 0 0 0 0) one, exec (.st 0x81 0 0 0 3 0) (ab 16 5) with | .next _, .next _ => true | _, _ => false) &&
    (storedAt (.st 0x81 0 0 0 3 0) (ab 16 5)).isSome) = true := by decide +kernel

/-- A stroke of a user nib, of the management nib, and one of another nib. -/
theorem witness_TrapEntry : ((one.stroke 0).isSome && ((iu (.halt 0) 0 0 id).2.stroke (162 * 32)).isSome && !isScribe 0 && unitPriv 0 != 2 && unitPriv 162 == 2) = true := by
  decide +kernel

theorem witness_DecodesEncoded : WellFormed (.get 0x81 0x101 127) = true := by decide
theorem witness_EncodesDecoded : decodeTableWord 32 0x9086C44C = some (.ld 0x86 3 2 0 2 3) := by decide +kernel
theorem witness_ReservedWords : (dashMajor 0x7F && !usedExt 0x78 0 && (blockCheck 0 false 0x080008FF [0x06810005, 0x04000003, 0x12000004]).isNone) = true := by decide +kernel
theorem witness_StepKeepsInv : Inv one ∧ (match step one with | .next _ => true | _ => false) = true :=
  ⟨show one.mem.wf = true by decide +kernel, by decide +kernel⟩
/-- A choice that is not a reset, while the module is held in reset. -/
theorem witness_HeldInReset : (({ one with inReset := true, agenda := [.event .gatewayRefill] } : State).nextPick.any fun e =>
    match e.1 with | .event (.moduleReset ..) => false | _ => true) = true := by decide +kernel

/-- A word laid out where a step fetches, an event, a choice of the model's own, and one of a log that is replayed. -/
theorem witness_StepRunsInstruction : (((State.reset.withFetchWord 32 0x2083000C).inst 0).any (·.words.length == 1) && !isWord .gatewayRefill && one.agenda.isEmpty &&
    ({ one with cur := {} } : State).choose.isSome && !one.replaying &&
    (({ one.csrPut 0x63 0 0 (2 ^ 63) with log := { ring := [(.slot 0 0 false, 0)] } } : State).replaying) && decodeTableWord 32 0x2083000C == some (.add 0x83 0 0 1 1)) = true := by decide +kernel

/-! ### Memory and streams -/

def poke (l : List (Nat × Byte)) (s : State) : State := s.modMem fun m => l.foldl (fun m e => m.setByte e.1 e.2) m

/-- Some bytes in the own window, and a full granule. -/
def pre (s : State) : State :=
  (poke [(spadKey 0 16, 0xC8), (spadKey 0 17, 0x91), (spadKey 0 23, 0x80)] s).modMem fun m => m.setFull (spadKey 0 16) true

/-- Region 0 with page 1 mapped, readable, writable and plain, to 0x50000 of tier one, through tables at 0x100000 and up. -/
def mapped (s : State) : State :=
  poke [(0x50000, 100), (0x50001, 3), (0x100002, 0x20), (0x100007, 0x80), (0x200002, 0x21), (0x200007, 0x80), (0x210002, 0x22), (0x210007, 0x80), (0x220002, 0x23),
    (0x220007, 0x80), (0x230010, 0xF0), (0x230011, 0xF0), (0x230012, 0x05), (0x230017, 0xE0)] (s.csrPut 0x50 0 0 (2 ^ 63 + 0x100000))

/-- Each qualifier on a full granule, and stores with and without `.fs`, up to the last byte of the window. -/
theorem witness_WindowAccesses : ((on (pre (ab 16 0)) [.ld 0x81 0 0 0 3 0, .ld 0x81 0 0 0 0 1, .ld 0x81 0 0 0 1 3, .ld 0x81 0 0 0 2 4, .ld 0x81 0 0 0 3 6, .ld 0x81 0 0 0 3 7,
      .st 0x81 0 0 0 3 0, .st 0x81 0 0 0 0 1, .feset 0x81 0 0 0 0 1]
    ++ on (ab 1572856 5) [.st 0x81 0 0 0 3 0, .ld 0x81 0 0 0 3 0]).all (meets windowAccesses) &&
    ([ab 3 0, ab 1572864 0, ab (2 ^ 63 + 15) 0].all fun s =>
      (on s [.ld 0x81 0 0 0 3 0, .st 0x81 0 0 0 3 0, .feset 0x81 0 0 0 0 1]).all (meetsTrap windowTraps))) = true := by decide +kernel

theorem witness_MemoryAccessesIssue : (on (mapped (ab 0x10000 0)) [.ld 0x81 0 0 1 3 0, .ld 0x81 0 0 1 1 1, .ld 0x81 0 0 1 0 2, .st 0x81 0 0 1 3 0, .ldv 0x81 0 0 1 0 0,
    .ldv 0x81 0 0 1 2 0, .stv 0x81 0 0 1 0 0, .stv 0x81 0 0 1 1 0]).all (meetsOwed memoryAccesses) = true := by decide +kernel

/-- The page of region 0 in another format (R65). -/
def paged (f : Nat) (s : State) : State := poke [(0x230010, BitVec.ofNat 8 (16 * f))] (mapped s)

/-- Each format at a size that it takes, raw accesses on it, and vectors of its elements. -/
theorem witness_FormattedAccesses : ([(0, 2), (1, 1), (2, 1), (3, 0), (4, 0), (4, 1), (5, 0), (6, 1), (7, 2), (8, 3)].all fun e =>
    (on (paged e.1 (ab 0x10000 32)) [.ld 0x81 0 0 1 (BitVec.ofNat 2 e.2) 0, .ld 0x81 0 0 1 3 2, .st 0x81 0 0 1 (BitVec.ofNat 2 e.2) 0, .st 0x81 0 0 1 0 2, .ldv 0x81 0 0 1 0 0,
      .stv 0x81 0 0 1 0 0]).all (meetsOwed memoryAccesses)) = true := by decide +kernel

/-- Another nib's scratchpad, and vectors within the own one. -/
theorem witness_ScratchpadCopies : ((on (ab (160 * 2 ^ 21 + 32) 64) [.ld 0x81 0 0 2 3 0, .st 0x81 0 0 2 3 0, .st 0x81 0 0 2 3 1, .feset 0x81 0 0 2 0 1, .ldv 0x81 0 0 2 0 0,
      .stv 0x81 0 0 2 0 0]).all (meetsOwed memoryAccesses) &&
    (on (ab 32 64) [.ldv 0x81 0 0 0 0 0, .stv 0x81 0 0 0 0 0] ++ on (pre (ab 16 64)) [.ldv 0x81 0 0 0 0 1, .ldv 0x81 0 0 0 0 2]).all (meets windowAccesses)) = true := by
  decide +kernel

/-- Each waiting form at a granule whose bit is clear. -/
theorem witness_FullBitWaits : (on (ab 32 64) [.ld 0x81 0 0 0 3 3, .ld 0x81 0 0 0 3 4, .ld 0x81 0 0 0 3 6, .ld 0x81 0 0 0 3 7, .ldv 0x81 0 0 0 0 1, .ldv 0x81 0 0 0 0 2,
    .stv 0x81 0 0 0 0 1, .stv 0x81 0 0 0 0 2]).all (meetsOwed fullBitWaits) = true := by decide +kernel

def buffer : Handle := { buffer := word (4 * 2 ^ 39 + 1 * 2 ^ 33 + 1024), partner := 0, producer := true, head := 5, tail := 7, ready := true }
def handled (h : Handle) : State := (ab 5 0).modRun 0 fun r => { r with handles := tabPut r.handles 3 h }

/-- Counts at and beyond what the buffer holds. -/
theorem witness_BufferInstructions : ((on (ab (4 * 2 ^ 39 + 1 * 2 ^ 33 + 15 * 2 ^ 29 + 255 * 2 ^ 21 + 1024) 0) [.cbinit 0x81 0 0 3, .cbinit 0x81 0 1 15] ++
    on (handled buffer) [.cbwait 0x81 0 2 0 3, .cbwait 0x81 0 3 1 3, .cbrsv 0x81 0 2 0 3, .cbrsv 0x81 0 3 1 3, .cbadv 0x81 0 2 0 3, .cbadv 0x81 0 2 1 3] ++
    on (handled { buffer with head := 0xFFFFFFFF, tail := 1 }) [.cbwait 0x81 0 2 0 3, .cbadv 0x81 0 2 1 3]).all (meets bufferInstructions) &&
    (on (handled buffer) [.cbwait 0x81 0 6 0 3, .cbwait 0x81 0 2 1 4, .cbrsv 0x81 0 6 1 3, .cbadv 0x81 0 3 0 3, .cbadv 0x81 0 4 1 3, .cbinit 0x81 0 0 3]).all
      (meetsTrap bufferTraps)) = true := by decide +kernel

/-- In-port 5 of stroke 0 is bound, with tokens read ahead, or a seam route of its folio ends there. -/
def bound5 (l : List Ahead) (s : State) : State :=
  s.modRun 0 fun r => { r with binds := tabPut r.binds 5 { space := 0, size := 3, raw := false, base := 0, levels := [word (8 * 2 ^ 32 + 4)], ahead := l, pos := 4 } }
def seamed (src : Nat) (toks : List SeamItem) (s : State) : State := s.modFolio 1 fun f => { f with seams := [{ src, sport := 5, dst := 0, dport := 5, toks }] }

theorem witness_StreamInstructions : ((on (pre (ab 16 0)) [.sbind 0x81 0 0 0 3 0 0 5, .sbind 0x81 0 0 1 2 3 1 5, .sbind 0x81 0 1 0 0 0 0 5, .bset 0x81 0 2, .bperm 0x81 0x101 0 2] ++
    [((.recv 0x81 0 5 : Instr), bound5 [.tok 9 false] (ab 5 0)), (.recv 0x81 0 5, seamed 0 [.tok none] (ab 5 0)), (.recv 0x81 0 5, seamed 99 [.tok (some 7)] (ab 5 0))]).all
      (meets streamInstructions) &&
    [((.sbind 0x81 0 0 0 3 0 0 5 : Instr), ab 20 0), (.sbind 0x81 0 0 0 3 0 1 5, ab (1572864 - 32) 0), (.sbind 0x81 0 1 0 0 0 0 5, seamed 0 [] (ab 5 0)),
      (.recv 0x81 0 5, ab 5 0), (.recv 0x81 0 5, bound5 [] (ab 5 0))].all (meetsTrap streamTraps)) = true := by decide +kernel

/-! ### Atomics, phases, barriers -/

/-- The page is owned by node (7, 3), as a range or as an SC ring range. -/
def owned (sc : Bool) (s : State) : State :=
  ((mapped s).csrPut 0x41 0 0 (2 ^ 63 + (if sc then 2 ^ 62 else 0) + 0x50000)).csrPut 0x41 0 1 (0x50000 + 7 * 32 + 3)

/-- Two updates in a record of the own window: 5 at displacement 8, 7 at 16. -/
def record (s : State) : State := poke [(spadKey 0 0, 2), (spadKey 0 16, 8), (spadKey 0 24, 5), (spadKey 0 32, 16), (spadKey 0 40, 7)] s

theorem witness_AtomicsSendRequests : ((on (owned false (ab 0x10000 3)) [.aadd 0x81 0 0 1 0, .amin 0x81 0 0 1 1, .amax 0x81 0 0 1 2, .aand 0x81 0 0 1 3, .aor 0x81 0 0 1 0, .axor 0x81 0 0 1 2,
      .aswp 0x81 0 0 1 1, .acas 0x81 0 1 3, .afadd 0x81 0 0 1, .afinit 0x81 0x101 0 0 0, .afinit 0x81 0x101 0 1 0]) ++ on (owned true (ab 0x10000 3)) [.aadd 0x81 0 0 1 0] ++
    on (record (owned false (ab 0x10000 0))) [.aaddv 0x81 0 0 1 0, .aminv 0x81 0 0 1 0, .amaxv 0x81 0 0 1 0, .aandv 0x81 0 0 1 0, .aorv 0x81 0 0 1 0, .axorv 0x81 0 0 1 0,
      .aswpv 0x81 0 0 1 0]).all (meetsOwed atomicRequests) = true := by decide +kernel

/-- LD.sc and ST.sc of eight bytes, and of a D8 page. -/
theorem witness_ScAccesses : ((on (owned true (ab 0x10000 3)) [.ld 0x81 0 0 1 3 5, .st 0x81 0 0 1 3 5] ++
    on (poke [(0x230010, 0x30)] (owned true (ab 0x10000 3))) [.ld 0x81 0 0 1 0 5, .st 0x81 0 0 1 0 5]).all (meetsOwed scAccesses)) = true := by decide +kernel

/-- A record whose two lanes have been sent; a record off a multiple of 16, and one at the end of the window. -/
theorem witness_VectorEnds : ((on ((record (owned false (ab 0x10000 0))).modRegs 0 fun r => { r with resumeidx := 2 }) [.aaddv 0x81 0 0 1 0, .aminv 0x81 0 0 1 0,
      .amaxv 0x81 0 0 1 0, .aandv 0x81 0 0 1 0, .aorv 0x81 0 0 1 0, .axorv 0x81 0 0 1 0, .aswpv 0x81 0 0 1 0]).all (meets vectorEnds) &&
    ([ab 0x10000 8, ab 0x10000 1572864].all fun s => meetsTrap recordTraps (.aaddv 0x81 0 0 1 0, s))) = true := by decide +kernel

theorem witness_AtomicUpdatesApply : ((on (owned false (pre (ab 0x10000 0xF000000000000003))) [.aadd 0x81 0 0 1 0, .amin 0x81 0 0 1 1, .amax 0x81 0 0 1 2, .aand 0x81 0 0 1 3, .aor 0x81 0 0 1 0,
    .axor 0x81 0 0 1 2, .aswp 0x81 0 0 1 1, .acas 0x81 0 1 3]).map fun e => (.atomicApply 0, nx (exec e.1 e.2))).all (meetsEvent atomicApplies) = true := by decide +kernel

def queued (sc : Bool) : State := nx (exec (.afadd 0x81 0 0 1) ((owned sc (ab 0x10000 (3 * 2 ^ 32 + 0x40490FDB))).setAfCtx { node := 7 * 32 + 3, key := 0x50000, next := 3 }))

theorem witness_SequencedAddsApply : ([(.afinitApply 0, nx (exec (.afinit 0x81 0x101 0 0 0) (owned false (ab 0x10000 3)))),
    (.afinitApply 0, nx (exec (.afinit 0x81 0x101 0 1 0) (owned false (ab 0x10000 3)))), (.afaddApply 0, queued false),
    (.scTokenVisit, { queued false with csr := (owned true (ab 0 0)).csr })] : List (Instr × State)).all (meetsEvent sequencedAdds) = true := by decide +kernel

def barred : State := (ab 0 0).modFolio 1 fun f => { f with bars := [{}, { gen := 4 }] }

theorem witness_BoundariesFire : (on barred [.phase 0x81 0 3, .bara 0x81 0 0, .barw 0x81 0 1]).all (meetsOwed boundariesFire) = true := by decide +kernel

theorem witness_BoundariesComplete : ((on barred [.phase 0x81 0 0, .phase 0x81 0 5, .bara 0x81 0 0, .barw 0x81 0 1]).map fun e => (.phaseBoundaryComplete 0, nx (exec e.1 e.2))).all
      (meetsEvent boundariesComplete) = true ∧
    meetsEvent boundariesComplete (.barrierGenerationComplete 1 1, (ab 0 0).modFolio 1 fun f =>
      { f with bars := [{}, { gen := 4, arrived := [0], settled := [0], waiters := [(0, 5)] }] }) = true := by decide +kernel

theorem witness_FenceAndPublishComplete : ((on (ab 0 0) [.fence 0x81 0 1 1, .fence 0x81 0 0 1]) ++
    [((.publish 0x81 0 0 0 : Instr), poke [(0x230017, 0xA0), (0x23001A, 0x07), (0x23001F, 0x80)] (mapped (ab 0x10000 1)))]).all (meets fenceAndPublish) = true := by
  decide +kernel

/-! ### Lanes and matrices -/

/-- Doublewords from an offset of the own window on; a zero needs no byte. -/
def dws (a : Nat) : List Nat → State → State
  | [], s => s
  | v :: l, s => dws (a + 8) l (if v = 0 then s else s.modMem fun m => m.put (spadKey 0 a) 8 v)

theorem witness_LaneInstructionsComplete : (on (ab 0 0) [.lcfg 0x81 3 0, .lwait 0x81 0 1, .lstat 0x81 0 1 0, .lstat 0x81 0 1 1, .lstat 0x81 0 0 2, .lstat 0x81 0 0 3] ++
    [((.lrun 0x81 3 0 1 0 1 2 : Instr), dws 64 [1024, 2048, 3] (ab 64 0))]).all (meets laneInstructions) = true := by decide +kernel

theorem witness_MatrixSettingsComplete : (on (ab (64 * 2 ^ 32 + 1024) (1 * 2 ^ 24 + 4096)) [.mda 0x81 1 0, .mdb 0x81 3 0, .mstat 0x81 0 1 0, .mstat 0x81 0 0 2] ++
    [((.rtset 0x81 5 0 : Instr), ab (1024 + 2 ^ 21 * 4) (2 ^ 63 + 256))]).all (meets matrixSettings) = true := by decide +kernel

/-- Descriptors and routes of the matrix unit of nib 0. -/
def described (s : State) : State :=
  s.modUnit 0 fun u => { u with matrix := { u.matrix with
    ma := listSet u.matrix.ma 1 (word (64 * 2 ^ 32 + 1024), word (1 * 2 ^ 24 + 4096)), mb := listSet u.matrix.mb 2 (word (64 * 2 ^ 32 + 1024), word (1 * 2 ^ 24 + 4096)),
    rt := [(word (160 * 2 ^ 21), word (2 ^ 63 + 1 * 2 ^ 42 + 256)), (word (15 * 2 ^ 29 + 255 * 2 ^ 21 + 1024), word (2 ^ 63 + 256 + 2 ^ 42))] } }

theorem witness_MatrixInstructionsQueue : ([(.mma 0x81 2 1 0 1, described (ab 0x835 0)), (.kld 0x81 3 0, ab 16 0), (.accz 0x81 0, ab 0xFFFF 0), (.accrd 0x81 0, ab (256 * 65536 + 5) 16),
    (.accwr 0x81 0, ab (272 * 65536 + 15) 4096), (.drain 0x81 0, described (ab 3 1)), (.drain 0x81 0, described (ab 3 0)),
    (.tmload 0x81 0, dws 64 [1, 0, 0, 0, 0x10000] (ab 64 0))] : List (Instr × State)).all (meetsOwed matrixInstructions) = true := by decide +kernel

/-! ### Handlers, channels, chains, washes -/

def bound1 (words : List InWord) (s : State) : State :=
  s.modUnit 0 fun u => ({ u with handlers := [(0, { stroke := 5, entry := 0, prio := 0, masked := true })] } : UnitSt).setInbox 0 words

theorem witness_HandlerInstructionsComplete : ([(.hset 0x81 0, ab 0x1000 0x803F), (.hmask 0x81 0 1, bound1 [] (ab 0 0)), (.hmask 0x81 0 0, ab 0 0), (.hclr 0x81 0 0, bound1 [] (ab 0 0)),
    (.hclr 0x81 0 1, bound1 [{ word := 5, round := 0 }] (ab 0 0)), (.inrd 0x81 0 0 1, bound1 [{ word := 5, round := 0 }] (ab 0 0)), (.inrd 0x81 0 0 1, ab 0 0)] :
    List (Instr × State)).all (meets handlerInstructions) = true := by decide +kernel

theorem witness_SendInstructionsIssue : ([(.chsend 0x81 0, ab (0xFF000000 + 160 * 64) 77),
    (.chmcast 0x81 0, dws 64 [2, 0xFF000000 + 160 * 64, 0xFF000000 + 161 * 64] (ab 77 64))] : List (Instr × State)).all (meetsOwed sendInstructions) = true := by decide +kernel

def chained (s : State) : State :=
  (mapped s).setChain (chainKey 1 0 2 0 0) { kind := 1, slab := 0, engine := 2, chain := 0, job := 0, part := 0, region := 0, prio := 0 }

/-- A sequence word that has reached the value, and one that has not. -/
theorem witness_ChainInstructionsComplete : ([(.chapp 0x81 0, chained (ab 0x10000 0x10020000)), (.seqrd 0x81 0, mapped (ab 0x10000 0)), (.seqwait 0x81 0 0, mapped (ab 0x10000 868)),
    (.seqwait 0x81 0 0, mapped (ab 0x10000 869))] : List (Instr × State)).all (meets chainInstructions) = true := by decide +kernel

def grouped (s : State) : State := s.modSvc fun v => { v with groups := [(3, { part := 0, members := [0xFF000000, 0xFF000040], present := 3, marks := [0, 0] })] }
def washing : State := grouped (ab (2 ^ 32 * 5 + 64 * 256 + 3) 64)

theorem witness_WashInstructions : (([(.wgrpDef 0x81 0, dws 64 [2, 3, 0xFF000000 + 160 * 64, 0xFF000000 + 161 * 64] (ab 3 64)), (.wgrpPresent 0x81 0, grouped (ab 3 1)),
    (.wgrpRel 0x81 0, grouped (ab 3 1)), (.wld 0x81 0 1 0 1, washing), (.wld 0x81 0 1 1 1, washing), (.wstat 0x81 0 0, ab 0 0),
    (.wstat 0x81 0 1, ab 0 0)] : List (Instr × State)).all (meets washInstructions) && meetsOwed washToToken (.wlds 0x81 0 1 2, washing)) = true := by decide +kernel

/-! ### Copybook, pipeline, sampler -/

def object0 : CbObject :=
  { part := 0, region := 0, statesz := 2, caplog := 4, hslab := 0, hwell := 0, next := 5, trim := 2, applied := [4, 3, 3, 3, 3, 3, 3, 3, 3, 3, 3, 3],
    methods := [{ entry := 0x1000, ro := false, args := 3 }, { entry := 0x2000, ro := true, args := 6 }] }
def defined (s : State) : State := s.setObject 7 object0
def inMethod (s : State) : State :=
  s.modBook fun b => { b with runs := [(0, { obj := 7, method := 0, ro := false, index := 3, entry := [3, 9, 1, 2, 3, 4, 5, 6] })] }

theorem witness_CopybookInstructionsComplete : ([((.cpdef 0x81 0 : Instr), (dws 64 [4 * 2 ^ 40 + 2 * 2 ^ 16 + 1, 0, 0x1000, 3, 0x2000, 256 + 6] (ab 5 64)).csrPut 0x42 0 0 (4 * 256)),
      (.cpdefRel 0x81 0, (ab 7 0).setObject 7 { object0 with next := 4 })] ++
    on (defined (ab 7 4)) [.cpwait 0x81 0 3, .cpstat 0x81 0 0, .cpstat 0x81 0 1, .cpstat 0x81 0 5] ++ on (defined (ab 7 5)) [.cpwait 0x81 0 3, .cptrim 0x81 0] ++
    on (defined (ab 7 3)) [.cptrim 0x81 0] ++ on (inMethod (ab 99 0)) [.cparg 0x81 0 0, .cparg 0x81 0 5, .cparg 0x81 0 6, .cparg 0x81 0 7, .cpret 0x81 0]).all
      (meets copybookInstructions) = true := by decide +kernel

theorem witness_CopybookCallsAndReads : (meetsOwed copybookCalls (.cpcall 0x81 0 1 3, defined (dws 64 [1, 2, 3] (ab 7 64))) &&
    [dws 64 [1, 2, 3] (ab (7 + 1024) 64), dws 64 [4, 2, 3] (ab (7 + 1024) 64)].all fun s => meetsOwed copybookReads (.cpread 0x81 0, defined s)) = true := by decide +kernel

/-- A pipeline's record at 0x50000 of tier one (Table 12-1), owned by node (7, 3): STAGE0, NEXT_LSEQ 5, no member, LOW 2, END 3, and ring slot 2. -/
def recd (s : State) : State :=
  poke [(0x50000, 0), (0x50001, 0x28), (0x50008, 5), (0x50010, 2), (0x50018, 3), (0x51020, 2), (0x51024, 4), (0x51028, 77), (0x5102C, 1), (0x5102F, 0x80)] (owned false s)
def tagged (p l : Nat) (s : State) : State := s.modInst 0 fun i => { i with start := { i.start with gentag := word (l * 2 ^ 32 + p) } }
/-- The next position stands in ring slot 3, with guess 88. -/
def guessed (s : State) : State := poke [(0x51030, 3), (0x51034, 4), (0x51038, 88), (0x5103C, 1), (0x5103F, 0x80)] s
/-- One member unit: place (0, 160, 0). -/
def member1 (s : State) : State := poke [(0x5000C, 1), (0x50801, 0x28), (0x50803, 0xFF)] s
def withRows : State := nx (exec (.sqregRows 0x81 0) (recd (ab 0x10000 (1 * 2 ^ 40 + 1 * 2 ^ 32 + 3 * 2 ^ 24 + 256))))
def again (a b : Nat) : State := withRows.modSlot 0 0 fun _ => ((ab a b).slot 0 0).getD {}

theorem witness_PipelineActionsIssue : ([(.guess 0x81 0, tagged 2 4 (recd (ab 0x10000 88))), (.guess 0x81 0, tagged 2 3 (recd (ab 0x10000 88))), (.guess 0x81 0, tagged 2 4 (guessed (recd (ab 0x10000 88)))),
    (.guess 0x81 0, tagged 2 4 (member1 (guessed (recd (ab 0x10000 89))))), (.launch 0x81 0, recd (ab 0x10000 (3 * 2 ^ 32 + 9))), (.sqregChan 0x81 0, recd (ab 0x10000 5)),
    (.sqregRows 0x81 0, recd (ab 0x10000 (1 * 2 ^ 40 + 1 * 2 ^ 32 + 3 * 2 ^ 24 + 256))), (.sqregRel 0x81 0, again 0x10000 0), (.sqchk 0x81 0 2 0, again (4 * 2 ^ 32 + 2) 0),
    (.sqchk 0x81 0 1 0, again 2 0)] : List (Instr × State)).all (meetsOwed pipelineActions) = true := by decide +kernel

/-- An action on the record is under way: the next waits. -/
def busy (s : State) : State := s.modSvc fun v =>
  { v with acts := [{ id := 77, stroke := 9, serial := 0, slot := 0, record := 0x50000, result := 0, squash := none, members := [], launch := (0, 0) }] }

theorem witness_PipelineWaits : ([(.guess 0x81 0, busy (tagged 2 4 (recd (ab 0x10000 88)))), (.launch 0x81 0, busy (recd (ab 0x10000 (3 * 2 ^ 32 + 9))))] :
    List (Instr × State)).all (meetsOwed pipelineWaits) = true := by decide +kernel

/-- The rows of nib 0 stand on nib 1 too, which is of the stroke's partition, 3. -/
def farRows : State :=
  (((tagged 2 4 (again (2 ^ 21 + 256 + 64) 1024)).modUnit 1 fun u => { u with pipe := (withRows.unit 0).pipe }).csrPut 0x46 0 1 3).modStroke 0
    fun t => { t with decl := { t.decl with part := 3 } }

theorem witness_RowsSent : meetsOwed rowsSent (.kvwr 0x81 0, farRows) = true := by decide +kernel

theorem witness_PipelineChecksComplete : ([(.sqregRel 0x81 0, recd (ab 0x10000 0)), (.sqchk 0x81 0 0 0, again (4 * 2 ^ 32 + 2) 0), (.sqchk 0x81 0 1 0, again (4 * 2 ^ 32 + 2) 0), (.sqchk 0x81 0 0 0, again 2 0), (.tagrd 0x81 0, tagged 1 2 (again 0 0)),
    (.kvwr 0x81 0, tagged 2 4 (again (15 * 2 ^ 29 + 255 * 2 ^ 21 + 256 + 64) 1024)),
    (.kvwr 0x81 0, dws 320 [5 * 2 ^ 32 + 2] (tagged 2 4 (again (15 * 2 ^ 29 + 255 * 2 ^ 21 + 256 + 64) 1024)))] : List (Instr × State)).all (meets pipelineChecks) = true := by
  decide +kernel

/-- Contexts 0 and 3 of sampler core 0 belong to partition 0. -/
def assigned (s : State) : State := (s.csrPut 0x44 0 3 (2 ^ 63)).csrPut 0x44 0 0 (2 ^ 63)
def area (o : Nat) (l : List Nat) (s : State) : State := s.modMem fun m => m.setBytes (candKey 0xF0 (3 * 32768) + o) (l.flatMap fun v => toBytes v 8)
def cands (s : State) : State :=
  area 0x200 [5 * 2 ^ 32 + 0x40000000, 9 * 2 ^ 32 + 0xC0400000] (area 0 [2 * 65536 + 2, 0x3F800000, 0x3F80000040000000, 0x3E800000] (area 0x800 [5, 2 ^ 32 * 3 + 9] (assigned s)))

theorem witness_SamplerInstructionsComplete : ([iu (.candld 0x81 0) (3 * 65536 + 0x208) 0 cands, iu (.candst 0x81 0) (3 * 65536 + 0x208) 99 cands, iu (.rngseed 0x81 0 2) 3 12345 cands,
      iu (.rngnext 0x81 0 2) 3 12345 cands, iu (.jrnl 0x81 0) 3 (2 ^ 35 + 77) cands, iu (.jcommit 0x81 0) 3 9 cands, iu (.jdrop 0x81 0) 3 1 cands, iu (.pen 0x81 0 0 1 1 1) 3 9 cands,
      iu (.pen 0x81 0 1 0 0 1) 3 1 cands, iu (.gsnap 0x81 0) 3 5 (fun s => area 0x40 [5 * 2 ^ 32 + 4, 3, 7] (cands s)), iu (.grest 0x81 0) 3 1 (fun s => area 0x440 [5 * 2 ^ 32 + 4, 3, 7] (cands s)),
      iu (.draw 0x81 0 0 0) 3 0x80000000 cands, iu (.draw 0x81 0 0 1) 3 0 cands, iu (.draw 0x81 0 0 1) 3 0 assigned].all (meets samplerInstructions) &&
    [iu (.tmask 0x81 0 0) 0 5 id, iu (.tmask 0x81 0 3) 0xEDCBA98765432100 16 id, iu (.tdepth 0x81 0 0 0) 0x43211100 8 id,
      iu (.tdepth 0x81 0 1 3) 0x43211100 (5 * 2 ^ 32 + 8) id].all (meets treeInstructions)) = true := by decide +kernel

theorem witness_SamplerReadsIssue : ([iu (.topk 0x81 0 0) 64 (3 * 2 ^ 32 + 2 * 2 ^ 20 + 7) (fun s => (assigned s).modMem fun m => m.setBytes (spadKey 0xF0 64) (toBytes 0x400000003F800000 8)),
    iu (.gmask 0x81 0 1) 3 0x10000 (fun s => mapped (cands s))]).all (meetsOwed samplerReads) = true := by decide +kernel

/-! ### System -/

/-- On supervisor nib 160 of slab 0, where RFT stands. -/
def sv (i : Instr) (a b : Nat) (m : State → State) : Instr × State :=
  (i, m (at0 ((encode (.rft 0x81 0)).getD 0).toNat (some (some (word a))) (some (some (word b))) (some (some 1))))

/-- Stroke 0 in folio 1, trapped with its slot 0 an ADD that holds its tokens; the folio frozen or not. -/
def trapped (frozen : Bool) (s : State) : State :=
  let i : Instance :=
    { serial := 1, addr := 0, header := 0xFF, words := [0x20810000, 0], slots := [{ portA := some (some 5), portB := some (some 6) }, {}], emitted := 1 }
  (s.setStroke 0 { decl := { folio := 1 }, run := { state := .trapped, before := .run, region := some 1, inst := some i }, regs := { trapslot := 0, trapcause := 1 } }).modFolio 1
    fun f => { f with strokes := f.strokes ++ [0], frozen }

theorem witness_SystemInstructionsComplete : [iu (.csrr 0x81 0) 1 0 id, iu (.csrr 0x81 0) 8 0 id, iu (.csrw 0x81 0) 1 5 id, iu (.csrw 0x81 0) 0x21 7 id, sv (.csrr 0x81 0) 0x40 0 id,
    sv (.csrw 0x81 0) 0x43 (2 ^ 63 + 160 * 64) id, sv (.csrw 0x81 0) (0x46 + 3 * 256) 5 id, sv (.rft 0x81 0) 0 0 (trapped false), sv (.rft 0x81 0) 0 1 (trapped false),
    sv (.rft 0x81 0) 0 2 (trapped false), sv (.rft 0x81 0) 0 1 (trapped true), sv (.tlbinv 0x81 0 1) 0 0 id, sv (.tlbinv 0x81 0 0) 0x10000 2 mapped,
    sv (.tlbprobe 0x81 0 0) 0x10000 0 mapped, sv (.tlbprobe 0x81 0 1) 0x90000 0 mapped,
    sv (.cfginv 0x81 0 1) 0 4096 (fun s => s.modUnit 5 fun u => { u with images := [{ addr := 128, header := 0, words := [0], bad := none, sig := 0 }] }),
    sv (.freeze 0x81 0) 0 0 (trapped true), sv (.thaw 0x81 0) 0 0 (trapped true), iu (.halt 0) 0 0 id].all (meets systemInstructions) = true := by decide +kernel

/-- FREEZE of a running folio; selectors that name no register, one above the privilege, and a read-only one; TRAP that fires. -/
theorem witness_SystemRequests : (meetsOwed freezeRequests (sv (.freeze 0x81 0) 0 0 (trapped false)) && [iu (.csrr 0x81 0) 0x43 0 id, iu (.csrr 0x81 0) 0x99 0 id, iu (.csrw 0x81 0) 0x43 0 id,
    iu (.csrw 0x81 0) 0x66 0 id, iu (.csrw 0x81 0) 0x05 0 id, sv (.csrw 0x81 0) 0x66 0 id,
      sv (.tlbprobe 0x81 0 0) 0x10000 0 fun s => (mapped s).modMem fun m => { m with poison := [(0x230010 / 4, true)] }].all (meetsTrap registerTraps) && (firing (.trap 0x81 0) one).isSome) = true := by decide +kernel

/-- Stroke 0 alone in frozen folio 2, parked; page 1 of its region mapped above its tables, with a byte between. -/
def frozenOne (s : State) : State :=
  poke [(0x230012, 0x60), (0x5FFFFF, 1)] (mapped ((s.setStroke 0 { decl := { folio := 2, wsize := 4096 }, run := { state := .parked, frozen := true } }).modEng fun e =>
    { e with nextFolio := 3, folios := e.folios ++ [{ id := 2, slab := 0, job := 0, strokes := [0], frozen := true }] }))

/-- A context of stroke 0 saved with its channels kept, of whose area the first word still stands at 0x10000. -/
def saved1 : State :=
  let x := (sv (.ctxin 0x81 0) 0x10000 0 mapped).2
  { x with rounds := { nextSave := 2, saved := [{ id := 1, home := 0, free := false, win := false, rows := 0, area := [(0, 868)], stroke := { decl := { folio := 2 } } }] } }

theorem witness_ContextInstructionsComplete : ([sv (.ctxout 0x81 0 0 1) 0 0x10000 frozenOne, sv (.ctxoutDrop 0x81 0 1 1) 0 0x10000 frozenOne].all
    (meets contextInstructions) && meets contextInstructions (.ctxin 0x81 0, saved1)) = true := by decide +kernel

/-! ### Events -/

/-- Stroke 0 in region 0 with its PC at the image of a block at 0x100. -/
def fetching : State := (ab 0 0).modStroke 0 fun t => { t with regs := { t.regs with pc := 0x100 }, run := { t.run with inst := none } }
def imaged (ws : List (BitVec 32)) (h : BitVec 32) (s : State) : State :=
  s.modUnit 0 fun u => { u with images := [{ addr := 0x100, header := h, words := ws, bad := none, sig := 0 }] }
/-- An instance at 0x100 whose exit goes to `a`, with a PUT that holds 77. -/
def ending (h : BitVec 32) (a : Word) (forced : Bool) : State :=
  fetching.modRun 0 fun r => { r with forced, inst := some {
    serial := 1, addr := 0x100, header := h, words := [0x04000003, 0x12000005],
    slots := [{ done := 1, put := some 77 }, { done := 1 }], emitted := 1, fired := [⟨1, .goto a⟩], raised := 3, clear := 5 } }
def unmet : State := fetching.modRun 0 fun r => { r with inst := some {
  serial := 1, addr := 0x100, header := 0, words := [0x04000083, 0x12000005],
  slots := [{ portA := some (some 3) }, { done := 1 }], emitted := 1, fired := [⟨1, .goto 0⟩] } }
def ready : State := fetching.modRun 0 fun r => { r with state := .ready, region := none, lastRegion := 1 }
def parked : State :=
  (fetching.modRun 0 fun r => { r with state := .parked, region := none }).modUnit 0 fun u =>
    ({ u with handlers := [(3, { stroke := 0, entry := 0x500, prio := 2, masked := false })] } : UnitSt).setInbox 3 [{ word := 9, round := 0 }]
/-- Four running strokes and a ready one on nib 0. -/
def crowd : State := (List.range 5).foldl (fun s i =>
  s.setStroke (i + 1) { decl := { folio := 1 }, run := { state := if i == 4 then .ready else .run, region := if i == 4 then none else some (i + 1) } }) (ab 0 0)

theorem witness_BlockEventsHappen : ([(.blockFetch 0, imaged [0x06810005, 0x12000000] 0 fetching), (.blockCommit 0, ending 0 64 false), (.blockCommit 0, ending (2 ^ 23) 64 false),
    (.blockCommit 0, ending 0 68 true), (.nocommit 0, unmet), (.selector 0, ready), (.selector 0, parked), (.handlerAging 0 64, ready), (.handlerAging 0 3, parked), (.forcedYield 0, crowd),
    (.roundMarkerIssue, { fetching with rounds := { requested := true } }), (.regionRoundEdge 0 1, { fetching with rounds := { issued := 2 } })] : List (Instr × State)).all
      (meetsEvent blockEvents) = true := by decide +kernel

/-- How an instance at 0x100 ends whose slot 1 has fired `e`. -/
def exiting (e : ExitKind) (f : Instance → Instance) : State := (ending 0 64 false).modInst 0 fun i => f { i with fired := [⟨1, e⟩] }

/-- EXIT, PARK, HALT, recorded CSRWs of FLAGS and AREGION, a deferred trap, a PC off a multiple of 4, and no exit at all. -/
theorem witness_Commits : ([exiting (.exit 7) id, exiting .park id, exiting (.goto 64) fun i => { i with halting := true },
    exiting (.goto 64) fun i => { i with csrw := [{ slot := 0, code := 1, value := 9 }, { slot := 1, code := 8, value := 5 }] },
    (exiting (.goto 64) id).modRun 0 fun r => { r with deferred := [(0x0E, 16)] }, exiting (.goto 66) id,
    exiting (.exit 7) fun i => { i with fired := [] }].all fun s => meetsEvent blockEvents (.blockCommit 0, s)) = true := by decide +kernel

/-- A handler whose block is none of mode HANDLER, a word without its register, and a block that must be fetched. -/
theorem witness_Fetches : ([(imaged [0x06810005, 0x12000000] 0 fetching).modRun 0 fun r => { r with startCh := some 3 },
    (imaged [0x06810005, 0x12000000] 0 fetching).modUnit 0 fun u => { u with badRegs := [0] }, mapped (fetching.modRegs 0 fun r => { r with pc := 0x10000 }),
    fetching].all fun s => meetsEvent blockEvents (.blockFetch 0, s)) = true := by decide +kernel

/-- A block whose word and header stand at 0x50000. -/
theorem witness_ImagesComeFromMemory : (match (mapped (ab 0 0)).image 0 0x10000 with | (.ok i, _) => i.words.length == 1 | _ => false) = true ∧
    ((mapped (ab 0 0)).unit 0).images = [] := by decide +kernel

/-- Nothing waits in the state of the frames. -/
theorem witness_NothingWaits : nothingWaits one ∧ one.inReset = false := by
  unfold nothingWaits
  decide +kernel

/-! ### A stalled store: 4,096 pending granules -/

def fullPend : List PendByte := (List.range 4096).map fun i => { writer := 0, folio := 0, order := 0, key := i * 16, val := 1 }

/-- Slot 0 holds a store of eight bytes to nib 160, whose granule would be the 4,097th pending one of stroke 0. -/
def stalledStore : State :=
  let s := (iu (.st 0x81 0 0 2 3 0) (160 * 2 ^ 21 + 16) 5 id).2.modSlot 0 0 fun x => { x with mode := .held }
  { s with mem := { s.mem with pend := fullPend } }

theorem distinct_of_nodup {l : List Nat} (h : l.Nodup) : distinct l = l := by
  induction l with
  | nil => rfl
  | cons x t ih =>
    obtain ⟨hx, ht⟩ := List.nodup_cons.mp h
    simp [distinct, ih ht, hx]

theorem fullPend_count (m : Memory) (h : m.pend = fullPend) : m.pendCount 0 = 4096 := by
  have hf : fullPend.filter (fun p => p.writer == 0 && decide (p.scope < 4)) = fullPend := by
    rw [List.filter_eq_self]
    intro p hp
    obtain ⟨i, -, rfl⟩ := List.mem_map.mp hp
    rfl
  have hm : fullPend.map (fun p => granule p.key) = List.range 4096 := by
    rw [fullPend, List.map_map]
    exact (List.map_congr_left fun i _ => Nat.mul_div_cancel i (by decide)).trans (List.map_id'' (fun _ => rfl) _)
  rw [Memory.pendCount, h, hf, hm, distinct_of_nodup List.nodup_range, List.length_range]

theorem pendFits_full {s : State} {k key n g : Nat} (hn : newGranules s.mem k key n = [g]) (hc : s.mem.pendCount k = 4096) :
    s.pendFits k key n = false := by simp [State.pendFits, hn, hc]

theorem full_fits {s : State} (hp : s.mem.pend = fullPend) : s.pendFits 0 (spadKey 160 16) 8 = false := by
  have ha : (fullPend.any fun p => p.writer == 0 && decide (p.scope < 4) && granule p.key == 2 ^ 56 + 160 * 2 ^ 17 + 1) = false := by
    rw [List.any_eq_false]
    intro p hq
    obtain ⟨i, hi, rfl⟩ := List.mem_map.mp hq
    simp [granule] at hi ⊢
    omega
  have h : newGranules s.mem 0 (spadKey 160 16) 8 = [2 ^ 56 + 160 * 2 ^ 17 + 1] := by
    rw [newGranules, hp, show span (spadKey 160 16 / 16) (granules (spadKey 160 16) 8) = [2 ^ 56 + 160 * 2 ^ 17 + 1] by decide]
    simp only [List.filter, ha]
    rfl
  exact pendFits_full h (fullPend_count _ hp)

theorem witness_StalledStore : meetsEvent blockEvents (.phaseovf 0 0, stalledStore) = true := by
  have hr : ((stalledStore.stroke 0).any fun t => t.running) = true := by decide +kernel
  obtain ⟨i, hi⟩ := Option.isSome_iff_exists.mp (show (stalledStore.inst 0).isSome = true by decide +kernel)
  have hx : ((stalledStore.inst 0).bind fun i => i.slots[0]?).map (fun x => (x.mode, x.portA)) = some (.held, some (some 0x14000010)) := by decide +kernel
  have hn : (stalledStore.inst 0).bind (fun i => i.instr 0) = some (.st 0x81 0 0 2 3 0) := by decide +kernel
  have hl : (stalledStore.locateScalar 0 false ((0 : BitVec 3) == 2) (2 : BitVec 2).toNat (((some (some 0x14000010) : Option Token).join.getD 0).toNat)
    (3 : BitVec 2).toNat 2).1 = .spad 160 16 := by decide +kernel
  rw [hi, Option.bind_some] at hx hn
  obtain ⟨x, hs, hxx⟩ := Option.map_eq_some_iff.mp hx
  obtain ⟨hm, ha⟩ := Prod.mk.inj hxx
  have hf : stalledStore.pendFits 0 (spadKey 160 16) (2 ^ (3 : BitVec 2).toNat) = false := full_fits (by simp only [stalledStore])
  have : stalledStore.stalled 0 0 = some (word 0x14000010) := by
    rw [State.stalled, hi]
    simp only [hs, hn, hm, ha, hl, hf]
    simp [unitOf, word]
  simp only [meetsEvent, blockEvents, hr, this]
  rfl

def stream0 : Binding := { space := 0, size := 2, raw := false, base := 16, levels := [word (8 * 2 ^ 32 + 4)], pos := 1 }
def streaming (p : Nat) (b : Binding) : State := (ab 5 0).modRun 0 fun r => { r with binds := tabPut r.binds p b }

/-- Out-port 5 stores elements of eight bytes to nib 160. -/
def farPort : Binding := { space := 2, size := 3, raw := false, base := 160 * 2 ^ 21 + 16, levels := [word (8 * 2 ^ 32 + 4)], sent := [some 5] }
def stalledPort : State :=
  let s := streaming 69 farPort
  { s with mem := { s.mem with pend := fullPend } }

theorem witness_StalledPort : meetsEvent blockEvents (.phaseovf 0 69, stalledPort) = true := by
  have hb : (stalledPort.stroke 0).bind (fun t => tabFind t.run.binds 69) = some farPort := by decide +kernel
  have hl : (stalledPort.locateScalar 0 false farPort.raw farPort.space (farPort.addr farPort.pos) farPort.size 2).1 = .spad 160 16 := by decide +kernel
  have hf : stalledPort.pendFits 0 (spadKey 160 16) 8 = false := full_fits (by simp only [stalledPort])
  have h : stalledPort.outStalled 0 5 = true := by
    rw [State.outStalled, hb]
    simp only [hl, show 2 ^ farPort.size = 8 from rfl, hf]
    decide +kernel
  simp only [meetsEvent, blockEvents, hb, show 69 - 64 = 5 from rfl, h]
  rfl

def sent1 : State :=
  (nx (exec (.chsend 0x81 0) (ab (0xFF000000 + 160 * 64 + 3) 77))).modUnit 160 fun u => { u with handlers := [(3, { stroke := 5120, entry := 0, prio := 0, masked := false })] }
def updated : State :=
  let s := (ab 5 0).modStroke 0 fun t =>
    { t with decl := { t.decl with chans := 8 }, run := { t.run with handles := tabPut t.run.handles 3 { buffer with partner := (0x8000000000000000 : Word), armed := some (true, 3) } } }
  let s := s.modUnit 0 fun u => { u with chanRuns := [{ base := 0, len := 8, owner := 0 }] }
  { s with net := { s.net with words := [{ sender := .engine 1, place := 0, word := cbUpdate false 3 2, round := 0, kind := 1 }] } }
def pageWaiting : State :=
  let s := fetching.modStroke 0 fun t => { t with decl := { t.decl with chans := 8 }, run := { t.run with state := .pagewait, region := none, waitPage := some (3, 5) } }
  { s with net := { s.net with words := [{ sender := .engine 1, place := 0, word := arrivalWord 3 5, round := 0, kind := 2 }] } }

theorem witness_WordEventsHappen : ([(.channelWordArrival 0, sent1), (.channelWordArrival 0, sent1.modUnit 160 fun u => u.setInbox 3 (List.replicate 8 { word := 1, round := 0 })),
    (.channelWordArrival 0, sent1.modUnit 160 fun u => u.setInbox 3 (List.replicate 7 { word := 1, round := 0 })),
    (.inboxRetry 0, { sent1 with net := { sent1.net with words := sent1.net.words.map fun w => { w with refused := true } } }),
    (.mcastReplicate 0, nx (exec (.chmcast 0x81 0) (dws 64 [2, 0xFF000000 + 160 * 64, 0xFF000000 + 161 * 64] (ab 77 64)))),
    (.memoryReply 0, nx (exec (.ld 0x81 0 0 1 3 0) (mapped (ab 0x10000 0)))), (.updateWordAbsorb 0, updated), (.pageArrivalAbsorb 0, pageWaiting), (.streamReadAhead 0 5, streaming 5 stream0),
    (.streamOutStore 0 5, streaming 69 { stream0 with sent := [some 0x1122334455667788, some 2] }), (.streamOutStore 0 5, streaming 69 { stream0 with sent := [none] })] :
      List (Instr × State)).all (meetsEvent wordEvents) = true := by decide +kernel

def entry0 (num : Nat) (ws : List Nat) : ChainEntry := { num, addr := 0x10000, region := 0, priv := 0, stroke := 0, upto := 0, words := ws.map word }
def chain9 (kind part : Nat) (es : List ChainEntry) : State :=
  (mapped (ab 0 0)).setChain 9 { kind, slab := 0, engine := 0, chain := 0, job := 0, part, region := 0, prio := 0, entries := es }
/-- A task of two nibs' worth of instances, `n` still to place. -/
def task (n : Nat) : ChainEntry := { entry0 1 ([0, 0, 1 * 2 ^ 16, 0, 0, 0, 99, 0] ++ [1 * 2 ^ 10 + 2, 1, 0x1000, 0, 0, 0, 0, 0]) with toPlace := n, total := 2 }
def watched (overflow : Bool) : State := (mapped (ab 0 0)).modEng fun e => { e with watchers := [{ stroke := 0, place := 5, key := some 0x50000, slab := 0, value := 3, overflow }] }

theorem witness_ChainEventsHappen : ([(.taskDispatch 9 0 [7], (chain9 0 3 [task 2]).csrPut 0x46 0 7 3), (.chainAging 9, chain9 0 3 [task 2]), (.taskComplete 9 1, chain9 0 0 [task 0]),
    (.completionWrite 9, chain9 1 0 [{ entry0 1 [0, 0, 0, 0, 0, 0x10010, 0, 2 ^ 63 + 160 * 64] with finished := true, code := 1 }]),
    (.chainEntryReread 9, (chain9 1 0 []).modChain 9 fun x => { x with halted := true }), (.enginePageRewalk 9, (chain9 1 0 []).modChain 9 fun x => { x with waiting := some (0, 5) }),
    (.seqWatcherWake 0, watched false), (.seqOverflowScan 0, watched true)] : List (Instr × State)).all (meetsEvent chainEvents) = true := by decide +kernel

/-- A swap chain whose entry moves one page with namespace 5, through pair 0. -/
def swapping (op : Nat) (l : List SwapCmd) : State :=
  (poke [(0x23001A, 0x06), (0x23001F, 0x80)] ((chain9 2 0 [entry0 1 [0, op, 0x10000, 1, 7, 5, 0x10010, 0]]).csrPut 0x4D 0 0 (2 ^ 63 + 4 * 2 ^ 48 + 5))).modEng
    fun e => { e with swapCmds := [(9, l)] }
/-- The one command of such an entry. -/
def moving (status : Option Bool) : List SwapCmd := [{ pair := 0, page := 0, lba := 7, count := 128, status }]

theorem witness_EngineEntriesRun : ([(.copyEntry 9, chain9 1 0 [entry0 1 [0, 80, 0x10000, 0x10100, 16, 0, 0, 0]]), (.copyEntry 9, chain9 1 0 [entry0 1 [0, 80, 0x10000, 0x10101, 16, 0, 0, 0]]),
    (.copyEntry 9, chain9 1 0 [entry0 1 [0, 80, 0x10000, 0x90100, 16, 0, 0, 0]]), (.swapOut 9 (0, true), swapping 0 []),
    (.swapOut 9 (0, true), swapping 0 (moving none)), (.swapOut 9 (0, false), swapping 0 (moving none)), (.swapOut 9 (0, true), swapping 0 (moving (some true))),
    (.swapOut 9 (0, true), swapping 0 (moving (some false))), (.swapIn 9 (0, true), swapping 1 []), (.swapIn 9 (0, false), swapping 1 (moving none)),
    (.swapIn 9 (0, true), swapping 1 (moving (some true))), (.swapIn 9 (0, true), swapping 1 (moving (some false)))] : List (Instr × State)).all
      (meetsEvent engineEntries) = true := by decide +kernel

def queuedLane : State := nx (exec (.lrun 0x81 3 0 0 0 1 2) (dws 64 [1024, 2048] (ab 64 0)))
def queuedAccz (tiles : Nat) : State := nx (exec (.accz 0x81 0) (ab tiles 0))
/-- A tile chain of partition 3 with one posted entry, nib 7 of the partition, and region 0 mapped for it. -/
def tiled : State :=
  ((poke [(0x100001, 3)] (mapped (ab 0 0))).setChain 9 {
    kind := 3, slab := 0, engine := 0, chain := 0, job := 0, part := 3, region := 0, prio := 0, appended := 1, tail := 0x10000,
    posted := [{ num := 1, addr := 0x10000, region := 0, priv := 0, stroke := 0, upto := 0 }] }).csrPut 0x46 0 7 3
def tasked (ops : Nat) : State :=
  (nx (exec (.tileDispatch 9) tiled)).modChain 9 fun x => { x with entries := [entry0 1 [0, ops * 2 ^ 20, 0x10000, 0x10000, 0x14000, 0, 256 * 2 ^ 42 + 64 * 2 ^ 21 + 64, 0]] }

/-- Each kind of matrix entry: KLD, ACCRD, ACCWR, MMA, DRAIN. -/
theorem witness_MatrixEntries : ([(.kld 0x81 3 0, ab 16 0), (.accrd 0x81 0, ab (256 * 65536 + 5) 16), (.accwr 0x81 0, ab (272 * 65536 + 15) 4096),
    (.mma 0x81 2 1 0 1, described (ab 0x835 0)), (.drain 0x81 0, described (ab 3 1)), (.drain 0x81 0, described (ab 3 0))] : List (Instr × State)).all (fun e =>
      meetsEvent unitEvents (.matrixEntryExecute 0, nx (exec e.1 e.2))) = true := by decide +kernel

/-- One step of INT8 codes, to a tile of FP32 words. -/
theorem witness_TileTask : meetsEvent unitEvents (.tileTask 7, (nx (exec (.tileDispatch 9) tiled)).modChain 9 fun x =>
    { x with entries := [entry0 1 [0, 2 ^ 32 + 5 * 2 ^ 24 + 5 * 2 ^ 20, 0x10000, 0x10000, 0x14000, 0, 256 * 2 ^ 42 + 32 * 2 ^ 21 + 32, 0]] }) = true := by
  decide +kernel

/-- The tile-task here has a pair of formats that no step takes: its entry completes with CODE 7. -/
theorem witness_UnitEventsHappen : ([(.laneRunStart 0, queuedLane), (.laneRunComplete 0, nx (exec (.laneRunStart 0) queuedLane)), (.matrixEntryExecute 0, queuedAccz 1),
    (.matrixEntryComplete 0, nx (exec (.matrixEntryExecute 0) (queuedAccz 0))), (.tileDispatch 9, tiled),
    (.tileSteal 7, (tiled.csrPut 0x46 0 9 3).modUnit 9 fun u => { u with matrix := { u.matrix with tiles := [(9, 1, 0x10000), (9, 2, 0x10040)] } }),
    (.tileTaskAged 9, tiled.modUnit 9 fun u => { u with matrix := { u.matrix with tiles := [(9, 1, 0x10000)] } }), (.tileTask 7, tasked 0x77)] : List (Instr × State)).all
      (meetsEvent unitEvents) = true := by decide +kernel

def washed (mark : BitVec 32) : State :=
  (nx (exec (.wld 0x81 0 1 0 1) washing)).modSvc fun v => { v with groups := [(3, { part := 0, members := [0xFF000000, 0xFF000040], present := 3, marks := [mark, mark] })] }
def called : State := nx (exec (.cpcall 0x81 0 0 3) ((dws 64 [1, 2, 3] (ab 7 64)).setObject 7 { object0 with next := 3 }))
def appended : State := nx (exec (.copybookAppend 0) called)
def damagedCopy (l : List Nat) : State := appended.setObject 7 { object0 with next := 4, damaged := l, results := [(3, (9, 0))] }
def squashing (l : List Word) : State :=
  (mapped (ab 0 0)).modSvc fun v => { v with acts := [{ id := 0, stroke := 0, serial := 0, slot := 0, record := 0x50000, result := 5, squash := some (3, 4, 2), members := l, launch := (3, 8) }] }

theorem witness_ServiceEventsHappen : ([(.washMemberRead 0 0, washed 9), (.washMemberRead 0 1, nx (exec (.washMemberRead 0 0) (washed 9))), (.copybookAppend 0, called),
    (.scribeApply 2 7, (appended.setObject 7 { object0 with next := 4, applied := List.replicate 12 2, log := ((appended.object 7).map (·.log)).getD [] })),
    (.copyRebuilt 3 7, damagedCopy [3, 0]), (.squashAbsorb 0 1, squashing [0xFF000000, 0xFF000040]), (.squashAbsorb 0 0, squashing [0xFF000000]),
    (.pageRequest 0, ((ab 0 0).modEng fun e => { e with pageQueue := [(3, 5, 9, false, 2)] }).csrPut 0x52 0 3 (2 ^ 63 + 4096 * 5 + 255))] : List (Instr × State)).all
      (meetsEvent serviceEvents) = true := by decide +kernel

/-- The largest and the smallest index of each register array, and legal values. -/
theorem witness_RegisterEventsHappen : ([(.roundWrite, ab 0 0), (.ownrngWrite 0 (word (2 ^ 63 + 2 ^ 60 + 77)), ab 0 0), (.ownrngWrite 1 (word (2 ^ 63 + 2 ^ 60 + 2 ^ 40 + 11 * 32 + 23)), ab 0 0),
    (.wellshareWrite 0 3 (word (2 ^ 60 + 5 * 256 + 3)), ab 0 0), (.smpctxAssign 0 300 5, ab 0 0), (.smpctxUnassign 11 5, ab 0 0), (.jobkill 5, ab 0 0),
    (.prqWrite 3 (word (2 ^ 63 + 2 ^ 62 + 4096 * 9 + 5)), ab 0 0), (.nibpartWrite 1 3 0x105, ab 0 0), (.keyslotLoad 4, ab 0 0), (.keyslotErase 255, nx (exec (.keyslotLoad 255) (ab 0 0))),
    (.swqWrite 11 5 (word (2 ^ 60 + 4096 + 5)), ab 0 0), (.swqWrite 0 4 (word (2 ^ 63 + 2 ^ 62 + 2 ^ 48 + 5)), ab 0 0), (.roletabWrite 0 0 0x1A3, ab 0 0), (.roletabWrite 0 0 0x100, ab 0 0),
    (.replayWrite 0 (word (2 ^ 62 + 2 ^ 33 + 5)), ab 0 0), (.replayWrite 1 (word (2 ^ 62 + 2 ^ 33 + 5)), ab 0 0)] : List (Instr × State)).all (meetsEvent registerEvents) = true := by
  decide +kernel

def withImage : State := (ab 0 0).modUnit 5 fun u => { u with images := [{ addr := 0x1000, header := 0, words := [], bad := none, sig := 0 }] }

theorem witness_PlatformEventsHappen : ([(.bandwidthRefill 5, ab 0 0), (.gatewayRefill, (ab 0 0).modPlat fun p => { p with spent := [(1, 2)] }),
    (.slewStep 2, (ab 0 0).modPlat fun p => { p with slewing := [{ folio := 1, slab := 2, wait := [515, 516, 517] }], ramp := [(520, 3), (521, 2), (3, 2)] }), (.routerPowerGate 2 191, ab 0 0),
    (.routerWake 2 3, nx (exec (.routerPowerGate 2 3) (ab 0 0))), (.dieLinkFlit (4, 3) 0 true, ab 0 0), (.dieLinkFlit (4, 1) 0 false, ab 0 0), (.dieLinkFlit (4, 2) 7 true, ab 0 0),
    (.linkLaneRetrain (.die 16), ab 0 0), (.linkLaneRetrain (.die 17), ab 0 0), (.linkLaneRetrain (.wydal 2), nx (exec (.linkLaneRetrain (.wydal 2)) (ab 0 0))), (.laneSpareRemap 0 3, ab 0 0), (.wellRowRemap 2 3 4, ab 0 0), (.clockChange 1000, ab 0 0),
    (.ucieLinkTraining 2, ab 0 0), (.correctableError 3 4 5, ab 0 0), (.correctableError 3 4 5, (ab 0 0).csrPut 0x60 4 3 255)] ++
    [0, 1, 2, 3, 4, 5, 7, 8].map (fun k => (.uncorrectableError k 1 2 0x51234, ab 0 0)) ++ [(.configStoreError 5 0x1000, withImage),
    (.configImageReloaded 5 0x1000, nx (exec (.configStoreError 5 0x1000) withImage)), (.uncorrectableError 6 0 5 0x1000, withImage), (.moduleReset (some { regs := [(0x50, 0, 0, 5)], strokes := [] }) 77, ab 0 0), (.moduleReset none 77, ab 0 0)] : List (Instr × State)).all
      (meetsEvent platformEvents) = true := by decide +kernel

/-- A flit comes in at the last port, whether its CRC holds or not. -/
theorem witness_WydalFlit (f : Flit) (crc : BitVec 64) : meetsEvent platformEvents (.wydalFlit 15 f crc, ab 0 0) = true := by
  have : ¬ 16 ≤ 15 := by decide
  simp only [meetsEvent, platformEvents, this, if_false]
  split <;> rfl

def peered (s : State) : State := (s.csrPut 0x4A 0 4 (2 ^ 63 + 3)).csrPut 0x4A 0 5 256
def staged (a : Word) : State := (ab 0 0).modEng fun e => { e with doorbells := [(5, (a, 2, true))] }
def hostChain (s : State) : State := s.setChain (chainKey 1 0 2 5 0) { kind := 1, slab := 0, engine := 2, chain := 0, job := 5, part := 0, region := 0, prio := 0 }

theorem witness_HostEventsHappen : ([(.hostMemWrite 0x40 0 [1, 2], ab 0 0), (.hostMemWrite (2 ^ 34) 0x1000 [1, 2], ab 0 0), (.hostMemRead 0x1400 0 4, mapped (ab 0 0)), (.hostSnoop 0x1000 [1, 2, 3], ab 0 0), (.doorbellAddress 5 64, ab 0 0),
    (.doorbellAppend 5 0x10020000, hostChain (staged 64)), (.doorbellAppend 5 0x10020000, hostChain (staged 65)), (.doorbellAppend 5 77, hostChain (staged 64)), (.doorbellResultRead 5, staged 1),
    (.doorbellStatusRead 5, staged 1), (.attestNonce (List.replicate 32 7), ab 0 0), (.peerWordArrival 2 (160 * 64) 77, peered (ab 0 0)), (.peerWordArrival 3 (160 * 64) 77, peered (ab 0 0)),
    (.peerMemoryAccess 2 .write 0 0x1000 2 [1, 2], peered (ab 0 0)), (.peerMemoryAccess 2 .read 0 0x50000 4 [], peered (mapped (ab 0 0))),
    (.peerMemoryAccess 2 (.atomic 0 5 6) 0 0x50000 2 [], peered (owned false (ab 0 0))), (.peerMemoryAccess 3 .read 0 0x50000 4 [], peered (mapped (ab 0 0)))] : List (Instr × State)).all (meetsEvent hostEvents) = true := by decide +kernel

end Sys2Proof.Tests
end

section
namespace Sys2Proof.Machine

/-- `t` is `s` but for cached translations, the count of walks, the free values drawn and what has left for a peer: what a fetch may change. -/
def Fetches (s t : State) : Prop :=
  t = { s with fresh := t.fresh, mem := { s.mem with tlb := t.mem.tlb, misses := t.mem.misses }, plat := { s.plat with links := t.plat.links } }

theorem Fetches.refl (s : State) : Fetches s s := rfl

theorem Fetches.trans {s t u : State} (h : Fetches s t) (g : Fetches t u) : Fetches s u := by
  unfold Fetches at *
  rw [g, h]

theorem fetches_drawBool (s : State) : Fetches s s.drawBool.2 := rfl

theorem fetches_sendPeer (s : State) (peer : Nat) (place : Word) (m : LinkMsg) : Fetches s (s.sendPeer peer place m) := rfl

theorem fetches_request (s : State) (key : Nat) (a : PeerAccess) (n : Nat) (bs : List Byte) : Fetches s (s.request key a n bs) := by
  unfold State.request
  split
  · exact fetches_sendPeer _ _ _ _
  · exact .refl s

theorem fetches_countWalk (s : State) (who region off : Nat) : Fetches s (s.countWalk who region off) := by
  unfold State.countWalk
  extract_lets slab
  split
  · exact .refl s
  · rfl

theorem fetches_fillTlb (s : State) (who : Nat) (whole : Bool) (p : Phys) : Fetches s (s.fillTlb who whole p) := rfl

theorem fetches_walked (s : State) (who region off : Nat) (whole : Bool) (r : Trans) : Fetches s (s.walked who region off whole r) := by
  unfold State.walked
  extract_lets t mark
  have h : Fetches s t := fetches_countWalk s who region off
  split
  · exact h.trans (fetches_fillTlb t who whole _)
  · exact h.trans rfl

/-- Translating for a stroke changes only what is cached and counted of walks. -/
theorem fetches_translateFor (s : State) (k : Nat) (stale : Bool) (region off kind : Nat) :
    Fetches s (s.translateFor k stale region off kind).2 := by
  unfold State.translateFor
  split
  · exact .refl s
  · extract_lets priv
    split
    · dsimp only
      split
      · rfl
      · exact fetches_walked _ _ _ _ _ _
    · exact fetches_walked _ _ _ _ _ _

theorem fetches_drawStale (s : State) (k region off kind : Nat) : Fetches s (s.drawStale k region off kind).2 := by
  unfold State.drawStale
  split
  · exact .refl s
  · extract_lets priv
    split
    · exact .refl s
    · split
      · exact .refl s
      · exact fetches_drawBool s

/-- The translation that a fetch of a word uses: in the state that the draw of an older value has left. -/
def State.fetchTrans (s : State) (k region off : Nat) : Trans × State :=
  let old := s.drawStale k region off 4
  old.2.translateFor k old.1 region off 4

theorem fetches_fetchTrans (s : State) (k region off : Nat) : Fetches s (s.fetchTrans k region off).2 :=
  (fetches_drawStale s k region off 4).trans (fetches_translateFor _ _ _ _ _ _)

/-- A fetched word is what memory holds, undamaged, at the address to which its own is translated. -/
def State.wordAt (s : State) (k addr : Nat) (w : BitVec 32) : Prop :=
  ∃ p : Phys, (s.fetchTrans k (addr / 2 ^ 64) (addr % 2 ^ 64)).1 = .ok p ∧ s.mem.poisoned p.key 4 = none ∧ w = BitVec.ofNat 32 (s.mem.get p.key 4)

theorem Fetches.poisoned {s t : State} (h : Fetches s t) (key n : Nat) : t.mem.poisoned key n = s.mem.poisoned key n := by
  rw [show t = _ from h]
  rfl

theorem committedBytes_congr {m m' : Memory} (hc : m'.cells = m.cells) (hp : m'.pend = m.pend) (key n : Nat) :
    m'.committedBytes key n = m.committedBytes key n := by
  induction n generalizing key with
  | zero => rfl
  | succ n ih => simp only [Memory.committedBytes, Memory.committed, Memory.byte, hc, hp, ih]

theorem Fetches.get {s t : State} (h : Fetches s t) (key n : Nat) : t.mem.get key n = s.mem.get key n := by
  have hc : t.mem.cells = s.mem.cells := by rw [show t = _ from h]
  have hp : t.mem.pend = s.mem.pend := by rw [show t = _ from h]
  simp only [Memory.get, committedBytes_congr hc hp]

/-- What a fetch of one word leaves, and what it gives. -/
theorem fetchWord_spec (s : State) (k addr : Nat) :
    Fetches s (s.fetchWord k addr).2 ∧ ∀ w, (s.fetchWord k addr).1 = .ok w → s.wordAt k addr w := by
  have ht := fetches_fetchTrans s k (addr / 2 ^ 64) (addr % 2 ^ 64)
  unfold State.wordAt
  unfold State.fetchWord
  extract_lets region off
  change Fetches s (s.fetchTrans k region off).2 at ht
  change _ ∧ ∀ w, _ → ∃ p, (s.fetchTrans k region off).1 = _ ∧ _
  split
  rename_i stale t hd
  have he : s.fetchTrans k region off = t.translateFor k stale region off 4 := by simp only [State.fetchTrans, hd]
  rw [he] at ht ⊢
  split <;> rename_i hr <;> rw [hr] at ht ⊢
  · exact ⟨ht, nofun⟩
  · exact ⟨ht, nofun⟩
  · exact ⟨ht, nofun⟩
  · rename_i p u
    split
    rename_i served v hv
    have hv : Fetches s v := by
      refine ht.trans ?_
      split at hv <;> cases hv
      · exact fetches_drawBool u
      · exact .refl u
    split
    · exact ⟨hv, nofun⟩
    · split
      · exact ⟨hv, nofun⟩
      · rename_i hp
        refine ⟨hv.trans (fetches_request _ _ _ _ _), fun w hw => ⟨p, rfl, hv.poisoned _ _ ▸ hp, ?_⟩⟩
        cases hw
        rw [hv.get]

end Sys2Proof.Machine

namespace Sys2Proof.Claim
open Sys2Proof.Machine

theorem fetches_beforeWord (s : State) (k addr n : Nat) : Fetches s (beforeWord s k addr n) := by
  induction n with
  | zero => exact .refl s
  | succ n ih => exact ih.trans (fetchWord_spec _ _ _).1

theorem wordAddr_region (addr n : Nat) : wordAddr addr n / 2 ^ 64 = addr / 2 ^ 64 := by unfold wordAddr; omega

theorem wordAddr_offset (addr n : Nat) : wordAddr addr n % 2 ^ 64 = (addr + 4 * n) % 2 ^ 64 := by unfold wordAddr; omega

theorem wordAddr_zero (addr : Nat) : wordAddr addr 0 = addr := by unfold wordAddr; omega

/-- The words that a fetch from word `i` on answers, each from the state that the fetch has reached for it. -/
theorem fetchWords_spec {s t : State} {k addr i n : Nat} {ws : List (BitVec 32)}
    (h : (beforeWord s k addr i).fetchWords k addr i n = (.ok ws, t)) :
    ws.length = n ∧ ∀ j w, ws[j]? = some w → (beforeWord s k addr (i + j)).wordAt k (wordAddr addr (i + j)) w := by
  induction n generalizing i ws t with
  | zero =>
    cases h
    exact ⟨rfl, nofun⟩
  | succ n ih =>
    unfold State.fetchWords at h
    split at h
    · rename_i w u hw
      have hu : u = beforeWord s k addr (i + 1) := by rw [beforeWord, hw]
      subst hu
      split at h
      · rename_i l v hl
        cases h
        obtain ⟨hlen, hall⟩ := ih hl
        refine ⟨by simp [hlen], fun j v hj => ?_⟩
        cases j with
        | zero =>
          cases hj
          exact (fetchWord_spec _ _ _).2 _ (by rw [Nat.add_zero, hw])
        | succ j =>
          have := hall j v hj
          rwa [Nat.add_assoc, Nat.add_comm 1 j] at this
      · cases h
    · cases h

/-- An image that no config store held was fetched: its header and its words. -/
theorem image_fetched {s s' : State} {k addr : Nat} {i : Image} (hn : (s.unit (unitOf k)).images.find? (·.addr == addr) = none)
    (h : s.image k addr = (.ok i, s')) :
    i.addr = addr ∧ s.wordAt k addr i.header ∧
      ∃ t, (beforeWord s k addr 1).fetchWords k addr 1 (bits i.header.toNat 31 26 + 1) = (.ok i.words, t) := by
  unfold State.image at h
  simp only [hn] at h
  split at h
  · rename_i w t hw
    have ht : t = beforeWord s k addr 1 := by rw [beforeWord, beforeWord, wordAddr_zero, hw]
    subst ht
    split at h
    · rename_i ws u hws
      cases h
      exact ⟨rfl, (fetchWord_spec s k addr).2 w (by rw [hw]), u, hws⟩
    · cases h
  · cases h

/-- The claim's form of a word that memory holds. -/
theorem wordAt_iff (s : State) (k addr n : Nat) (w : BitVec 32) (h : (beforeWord s k addr n).wordAt k (wordAddr addr n) w) :
    let s1 := beforeWord s k addr n
    let old := s1.drawStale k (addr / 2 ^ 64) ((addr + 4 * n) % 2 ^ 64) 4
    ∃ p : Phys, (old.2.translateFor k old.1 (addr / 2 ^ 64) ((addr + 4 * n) % 2 ^ 64) 4).1 = .ok p ∧
      s.mem.poisoned p.key 4 = none ∧ w = BitVec.ofNat 32 (s.mem.get p.key 4) ∧ Fetches s s1 := by
  have hf := fetches_beforeWord s k addr n
  obtain ⟨p, hp, hpois, hw⟩ := h
  rw [wordAddr_region, wordAddr_offset] at hp
  exact ⟨p, hp, hf.poisoned _ _ ▸ hpois, hf.get _ _ ▸ hw, hf⟩

end Sys2Proof.Claim

open Sys2Proof Sys2Proof.Machine Sys2Proof.Claim

/-- Settles O8: the header is word 0 of the fetch, and an induction over the words gives the rest. -/
theorem imagesComeFromMemory : Obligations.ImagesComeFromMemory := by
  intro s k addr i s' hn h
  obtain ⟨haddr, hhead, t, hws⟩ := image_fetched hn h
  obtain ⟨hlen, hwords⟩ := fetchWords_spec hws
  refine ⟨haddr, ?_, fun n w hw => wordAt_iff s k addr n w ?_⟩
  · have := i.header.isLt
    rw [hlen]
    unfold bits
    omega
  · cases n with
    | zero =>
      cases hw
      rw [wordAddr_zero]
      exact hhead
    | succ n => exact Nat.add_comm 1 n ▸ hwords n w hw

theorem reset_strokes : State.reset.strokes = [] := rfl
theorem reset_saved : State.reset.rounds.saved = [] := rfl
theorem reset_units : State.reset.units = [] := rfl

/-- Settles O2: no cell is listed, no stroke stands and no unit is set up after reset. -/
theorem resetInv : Obligations.ResetInv := by
  refine ⟨reset_mem_wf, ?_, ?_, ?_⟩
  · rw [reset_strokes]
    exact List.forall_mem_nil _
  · rw [reset_saved]
    exact List.forall_mem_nil _
  · rw [reset_units]
    exact List.forall_mem_nil _

end

section
/-! Which answers of an operation meet `Inv`: predicates over what the shared operations answer. -/
namespace Sys2Proof.Machine

/-- `P` holds of what an option has. -/
def Every {α : Type} (P : α → Prop) : Option α → Prop
  | none => True
  | some a => P a

/-- Every state that an access of a slot answers keeps the form of memory. -/
def Acc.Upholds {α : Type} : Acc α → Prop
  | .ok _ s => Inv s
  | .bad f => Inv f.state

/-- The state that a delivery leaves keeps the form of memory. -/
def Sent.Upholds : Sent → Prop
  | .ok s => Inv s
  | .full => True
  | .trap s _ _ _ => Inv s

/-- The state that a move of granules leaves, done or not, keeps the form of memory. -/
def Moved.Upholds : Moved → Prop
  | .done s => Inv s
  | .wait _ s => Inv s
  | .bad _ s _ => Inv s

/-- `P` holds of what an engine's access gives. -/
def Eng.Every {α : Type} (P : α → Prop) : Eng α → Prop
  | .ok a => P a
  | .fault _ => True
  | .absent _ _ => True

/-- The state that taking the head of a chain leaves keeps the form of memory. -/
def Take.Upholds : Take → Prop
  | .nothing => True
  | .wait s => Inv s
  | .entry s _ _ => Inv s

/-- The state that a run of a copy entry leaves keeps the form of memory. -/
def Ran.Upholds : Ran → Prop
  | .done s => Inv s
  | .fault s => Inv s
  | .wait s _ _ _ => Inv s

/-- The state that issuing a swap command leaves keeps the form of memory. -/
def Issue.Upholds : Issue → Prop
  | .none => True
  | .cmd s _ => Inv s
  | .code _ => True
  | .wait _ _ => True

/-- The state that a write of a system register answers keeps the form of memory. -/
def Write.Upholds : Write → Prop
  | .bad => True
  | .wait => True
  | .ok _ s => Inv s

/-- The state that the store of a tile leaves keeps the form of memory. -/
def TileWrote.Upholds : TileWrote → Prop
  | .done s => Inv s
  | .fault s => Inv s
  | .wait s _ _ _ => Inv s

/-- The state that a tile-task leaves keeps the form of memory. -/
def TileRan.Upholds : TileRan → Prop
  | .code s _ _ => Inv s
  | .wait s _ _ _ => Inv s
  | .later s => Inv s

/-- The next state that a step answers, if it answers one, keeps the form of memory. -/
def Answers : Host.Outcome State Fault Refusal → Prop
  | .next s => Inv s
  | _ => True

end Sys2Proof.Machine

namespace Sys2Proof
open Machine

section
variable {α : Type} {s : State} {a : α}

theorem Inv.snd {r : α × State} (h : Inv r.2) (e : r = (a, s)) : Inv s := by subst e; exact h
theorem Inv.fst {r : State × α} (h : Inv r.1) (e : r = (s, a)) : Inv s := by subst e; exact h
theorem Inv.third {β : Type} {b : β} {r : α × β × State} (h : Inv r.2.2) (e : r = (a, b, s)) : Inv s := by subst e; exact h

end
end Sys2Proof

namespace Sys2Proof.Machine

section
variable {α : Type} {s : State} {a : α}

theorem Every.some {P : α → Prop} {o : Option α} (h : Every P o) (e : o = some a) : P a := by subst e; exact h
theorem Acc.Upholds.ok {r : Acc α} (h : r.Upholds) (e : r = .ok a s) : Inv s := by subst e; exact h
theorem Acc.Upholds.bad {r : Acc α} {f : Fire} (h : r.Upholds) (e : r = .bad f) : Inv f.state := by subst e; exact h
theorem Sent.Upholds.ok {r : Sent} (h : r.Upholds) (e : r = .ok s) : Inv s := by subst e; exact h
theorem Sent.Upholds.trap {r : Sent} {n c : Nat} {v : Word} (h : r.Upholds) (e : r = .trap s n c v) : Inv s := by subst e; exact h
theorem Moved.Upholds.done {r : Moved} (h : r.Upholds) (e : r = .done s) : Inv s := by subst e; exact h
theorem Moved.Upholds.wait {r : Moved} {i : Nat} (h : r.Upholds) (e : r = .wait i s) : Inv s := by subst e; exact h
theorem Moved.Upholds.bad {r : Moved} {i : Nat} {v : Word} (h : r.Upholds) (e : r = .bad i s v) : Inv s := by subst e; exact h
theorem Eng.Every.ok {P : α → Prop} {r : Eng α} (h : r.Every P) (e : r = .ok a) : P a := by subst e; exact h
theorem Take.Upholds.wait {r : Take} (h : r.Upholds) (e : r = .wait s) : Inv s := by subst e; exact h
theorem Take.Upholds.entry {r : Take} {x : Chain} {d : ChainEntry} (h : r.Upholds) (e : r = .entry s x d) : Inv s := by subst e; exact h
theorem Ran.Upholds.done {r : Ran} (h : r.Upholds) (e : r = .done s) : Inv s := by subst e; exact h
theorem Ran.Upholds.fault {r : Ran} (h : r.Upholds) (e : r = .fault s) : Inv s := by subst e; exact h
theorem Ran.Upholds.wait {r : Ran} {b c d : Nat} (h : r.Upholds) (e : r = .wait s b c d) : Inv s := by subst e; exact h
theorem Issue.Upholds.cmd {r : Issue} {x : SwapCmd} (h : r.Upholds) (e : r = .cmd s x) : Inv s := by subst e; exact h
theorem Write.Upholds.ok {r : Write} {v : Word} (h : r.Upholds) (e : r = .ok v s) : Inv s := by subst e; exact h
theorem TileWrote.Upholds.done {r : TileWrote} (h : r.Upholds) (e : r = .done s) : Inv s := by subst e; exact h
theorem TileWrote.Upholds.fault {r : TileWrote} (h : r.Upholds) (e : r = .fault s) : Inv s := by subst e; exact h
theorem TileWrote.Upholds.wait {r : TileWrote} {b c : Nat} {l : List (Nat × List Byte)} (h : r.Upholds)
    (e : r = .wait s b c l) : Inv s := by subst e; exact h
theorem TileRan.Upholds.code {r : TileRan} {n : Nat} {f : Flags} (h : r.Upholds) (e : r = .code s n f) : Inv s := by subst e; exact h
theorem TileRan.Upholds.wait {r : TileRan} {b c : Nat} {l : Option (List (Nat × List Byte) × Flags)} (h : r.Upholds)
    (e : r = .wait s b c l) : Inv s := by subst e; exact h
theorem TileRan.Upholds.later {r : TileRan} (h : r.Upholds) (e : r = .later s) : Inv s := by subst e; exact h

theorem Ran.Upholds.of_fst {r : Ran × Nat} {q : Ran} {n : Nat} (h : r.1.Upholds) (e : r = (q, n)) : q.Upholds := by subst e; exact h
theorem fst_wf {r : Memory × α} {m : Memory} (h : r.1.wf = true) (e : r = (m, a)) : m.wf = true := by subst e; exact h

theorem inv_ite {c : Prop} [Decidable c] {s t : State} (hs : Inv s) (ht : Inv t) : Inv (if c then s else t) := by split <;> assumption

theorem inv_ite_snd {c : Prop} [Decidable c] {p q : α × State} (hp : Inv p.2) (hq : Inv q.2) : Inv (if c then p else q).2 := by
  split <;> assumption

theorem inv_ite_fst {c : Prop} [Decidable c] {p q : State × α} (hp : Inv p.1) (hq : Inv q.1) : Inv (if c then p else q).1 := by
  split <;> assumption

theorem inv_send {r1 r2 : Option Token} (h : Inv s) : Inv (Fire.send s r1 r2).state := h
theorem inv_owed (h : Inv s) : Inv (Fire.owed s).state := h
theorem inv_sent (h : Inv s) : Inv (Fire.sent s).state := h
theorem inv_hold (h : Inv s) : Inv (Fire.hold s).state := h
theorem inv_trap {c : Nat} {v : Word} (h : Inv s) : Inv (Fire.trap s c v).state := h

theorem every_none {P : α → Prop} : Every P none := trivial

theorem every_ite {P : α → Prop} {c : Prop} [Decidable c] {o p : Option α} (ho : Every P o) (hp : Every P p) :
    Every P (if c then o else p) := by
  split <;> assumption

theorem every_or {P : α → Prop} {o p : Option α} (ho : Every P o) (hp : Every P p) : Every P (o.or p) := by
  cases o with
  | none => exact hp
  | some a => exact ho

/-- A firing that goes on once a check has answered no trap. -/
theorem inv_checked {o : Option Fire} {r : Fire} (ho : Every (fun f => Inv f.state) o) (hr : Inv r.state) :
    Inv (match o with | some f => f | none => r).state := by
  split
  · exact ho
  · exact hr

theorem every_map {β : Type} {P : β → Prop} {f : α → β} {o : Option α} (h : ∀ a, P (f a)) : Every P (o.map f) := by
  cases o with
  | none => trivial
  | some a => exact h a

theorem inv_foldl {β : Type} {f : State → β → State} (hf : ∀ s b, Inv s → Inv (f s b)) {l : List β} {s : State} (h : Inv s) :
    Inv (l.foldl f s) := by
  induction l generalizing s with
  | nil => exact h
  | cons b l ih => exact ih (hf s b h)

theorem wf_foldl {β : Type} {f : Memory → β → Memory} (hf : ∀ m b, m.wf = true → (f m b).wf = true) {l : List β} {m : Memory}
    (h : m.wf = true) : (l.foldl f m).wf = true := by
  induction l generalizing m with
  | nil => exact h
  | cons b l ih => exact ih (hf m b h)

theorem wf_ite {c : Prop} [Decidable c] {m n : Memory} (hm : m.wf = true) (hn : n.wf = true) : (if c then m else n).wf = true := by
  split <;> assumption

theorem inv_failLoc_getD {s : State} {l : Loc} (h : Inv s) : Inv ((failLoc s l).getD (.hold s)).state := by
  unfold failLoc
  split <;> exact h

theorem answers_next {t : State} (h : Inv t) : Answers (.next t) := h

theorem inv_modMem {s : State} {f : Memory → Memory} (h : (f s.mem).wf = true) : Inv (s.modMem f) := h

end
end Sys2Proof.Machine
end

section
/-! Machine/Access.lean keeps the form of memory: strokes, slots, units, registers and links stand beside memory. -/
namespace Sys2Proof.Machine

theorem inv_setStroke {s : State} {k : Nat} {t : Stroke} (h : Inv s) : Inv (s.setStroke k t) := h

theorem inv_modStroke {s : State} {k : Nat} {f : Stroke → Stroke} (h : Inv s) : Inv (s.modStroke k f) := by
  unfold State.modStroke
  split
  · exact inv_setStroke h
  · exact h

theorem inv_modRun {s : State} {k : Nat} {f : StrokeRun → StrokeRun} (h : Inv s) : Inv (s.modRun k f) := inv_modStroke h

theorem inv_modRegs {s : State} {k : Nat} {f : StrokeRegs → StrokeRegs} (h : Inv s) : Inv (s.modRegs k f) := inv_modStroke h

theorem inv_modInst {s : State} {k : Nat} {f : Instance → Instance} (h : Inv s) : Inv (s.modInst k f) := inv_modRun h

theorem inv_modSlot {s : State} {k n : Nat} {f : SlotSt → SlotSt} (h : Inv s) : Inv (s.modSlot k n f) := inv_modInst h

theorem inv_modUnit {s : State} {u : Nat} {f : UnitSt → UnitSt} (h : Inv s) : Inv (s.modUnit u f) := h

theorem inv_drawWord {s : State} (h : Inv s) : Inv s.drawWord.2 := h

theorem inv_drawBool {s : State} (h : Inv s) : Inv s.drawBool.2 := h

theorem inv_csrPut {s : State} {code slab index v : Nat} (h : Inv s) : Inv (s.csrPut code slab index v) := h

theorem inv_modFolio {s : State} {id : Nat} {f : Folio → Folio} (h : Inv s) : Inv (s.modFolio id f) := h

theorem inv_modEng {s : State} {f : Engines → Engines} (h : Inv s) : Inv (s.modEng f) := h

theorem inv_modNet {s : State} {f : Net → Net} (h : Inv s) : Inv (s.modNet f) := h

theorem inv_modSvc {s : State} {f : Services → Services} (h : Inv s) : Inv (s.modSvc f) := h

theorem inv_modPlat {s : State} {f : Platform → Platform} (h : Inv s) : Inv (s.modPlat f) := h

theorem inv_beat {s : State} {b : Option Nat} {n : Nat} (h : Inv s) : Inv (s.beat b n) := by
  unfold State.beat
  split
  · exact h
  · exact inv_modPlat h

theorem inv_strokeBeat {s : State} {k n : Nat} (h : Inv s) : Inv (s.strokeBeat k n) := by
  unfold State.strokeBeat
  split
  · exact inv_beat h
  · exact h

theorem inv_pushReply {s : State} {stroke serial slot : Nat} {tok : Token} (h : Inv s) : Inv (s.pushReply stroke serial slot tok) :=
  inv_modNet h

theorem inv_setLink {s : State} {key : Nat} {x : LinkEnd} (h : Inv s) : Inv (s.setLink key x) := inv_modPlat h

theorem inv_sendPeer {s : State} {peer : Nat} {place : Word} {m : LinkMsg} (h : Inv s) : Inv (s.sendPeer peer place m) := inv_setLink h

theorem inv_pumpLinks {s : State} (h : Inv s) : Inv s.pumpLinks := inv_foldl (fun _ _ h1 => inv_ite h1 (inv_setLink h1)) h

theorem inv_request {s : State} {key n : Nat} {a : PeerAccess} {data : List Byte} (h : Inv s) : Inv (s.request key a n data) := by
  unfold State.request
  split
  · exact inv_sendPeer h
  · exact h

theorem inv_bear {s : State} {k : Nat} {t : Stroke} (h : Inv s) : Inv (s.bear k t) := inv_modEng (inv_setStroke h)

end Sys2Proof.Machine
end

section
/-! Machine/Memory.lean keeps the form of memory: every write of bytes is one of the writes that keep the form. -/
namespace Sys2Proof.Machine

theorem setFull_wf {m : Memory} {key : Nat} {b : Bool} (h : m.wf = true) : (m.setFull key b).wf = true := h

theorem setFulls_wf {m : Memory} {key n : Nat} {b : Bool} (h : m.wf = true) : (m.setFulls key b n).wf = true := by
  induction n generalizing m key b with
  | zero => exact h
  | succ n ih => exact ih (setFull_wf h)

theorem poisonFrom_wf {m : Memory} {key n : Nat} (h : m.wf = true) : (m.poisonFrom key n).wf = true := by
  induction n generalizing m key with
  | zero => exact h
  | succ n ih => exact ih h

theorem heal_wf {m : Memory} {key n : Nat} (h : m.wf = true) : (m.heal key n).wf = true := h

theorem inv_fixGranule {s : State} {k g : Nat} (h : Inv s) : Inv (s.fixGranule k g) := inv_modRun h

theorem inv_fixGranules {s : State} {k g n : Nat} (h : Inv s) : Inv (s.fixGranules k g n) := by
  induction n generalizing s k g with
  | zero => exact h
  | succ n ih => exact ih (inv_fixGranule h)

theorem inv_loadBytes {s : State} {k key n : Nat} (h : Inv s) : Inv (s.loadBytes k key n).2 := inv_request (inv_ite h (inv_fixGranules h))

theorem inv_readBytes {s : State} {k key n : Nat} {full : Bool} (h : Inv s) : Inv (s.readBytes k full key n).2 :=
  inv_ite_snd h (inv_loadBytes h)

theorem inv_load {s : State} {k key n : Nat} (h : Inv s) : Inv (s.load k key n).2 := by
  unfold State.load
  split
  exact (inv_loadBytes h).snd ‹_›

theorem inv_restable {s : State} {k key : Nat} {bs : List Byte} (h : Inv s) : Inv (s.restable k key bs) := inv_modRun h

theorem inv_pendWrite {s : State} {k key : Nat} {bs : List Byte} (h : Inv s) : Inv (s.pendWrite k key bs) := by
  unfold State.pendWrite
  split
  · exact h
  · exact inv_request (inv_restable (inv_modMem (heal_wf h)))

theorem inv_commitOwn {s : State} {k key : Nat} {bank : Option Nat} {bs : List Byte} (h : Inv s) : Inv (s.commitOwn k bank key bs) :=
  inv_restable (inv_modMem (heal_wf (setBytes_wf _ _ (homeSeen_wf _ _ _ _ h))))

theorem reveal_wf {m : Memory} {w lo hi : Nat} {units : List Nat} (h : m.wf = true) : (m.reveal w lo hi units).wf = true := h

theorem discard_wf {m : Memory} {w : Nat} (h : m.wf = true) : (m.discard w).wf = true := h

theorem inv_record {s : State} {p : Pick} {f : Nat} (h : Inv s) : Inv (s.record p f) := inv_ite h (inv_ite h h)

theorem inv_writeLog {s : State} (h : Inv s) : Inv s.writeLog := inv_ite (wf_foldl (fun _ _ h1 => commitWrite_wf _ _ h1) h) h

theorem inv_logTail {s : State} {t : Nat} (h : Inv s) : Inv (s.logTail t) := h

end Sys2Proof.Machine
end

section
/-! Machine/Translate.lean keeps the form of memory: a walk counts and caches, and only a leaf that a swap writes changes bytes. -/
namespace Sys2Proof.Machine

theorem inv_countWalk {s : State} {who region off : Nat} (h : Inv s) : Inv (s.countWalk who region off) := inv_ite h (inv_modMem h)

theorem inv_fillTlb {s : State} {who : Nat} {whole : Bool} {p : Phys} (h : Inv s) : Inv (s.fillTlb who whole p) := inv_modMem h

theorem inv_walked {s : State} {who region off : Nat} {whole : Bool} {r : Trans} (h : Inv s) : Inv (s.walked who region off whole r) := by
  unfold State.walked
  extract_lets s1 mark
  have h1 : Inv s1 := inv_countWalk h
  split
  · exact inv_fillTlb h1
  · exact inv_modMem h1

theorem inv_useLeaf {s : State} {who : Nat} {e : TlbEntry} (h : Inv s) : Inv (s.useLeaf who e) := inv_modMem h

theorem inv_translateFor {s : State} {k region off kind : Nat} {stale : Bool} (h : Inv s) :
    Inv (s.translateFor k stale region off kind).2 := by
  unfold State.translateFor
  split
  · exact h
  extract_lets priv
  split
  · exact inv_ite (inv_useLeaf h) (inv_walked h)
  · exact inv_walked h

theorem inv_drawStale {s : State} {k region off kind : Nat} (h : Inv s) : Inv (s.drawStale k region off kind).2 := by
  unfold State.drawStale
  split
  · exact h
  extract_lets priv
  split
  · exact h
  · exact inv_ite_snd h (inv_drawBool h)

theorem inv_touch {s : State} {slab : Nat} {p : Phys} (h : Inv s) : Inv (s.touch slab p) := inv_ite h (inv_fillTlb (inv_countWalk h))

theorem inv_evictTlb {n : Nat} {s : State} (h : Inv s) : Inv (evictTlb n s) := by
  unfold evictTlb
  split
  · exact h
  · exact inv_modMem h

theorem inv_writeLeaf {s : State} {l : Leaf} {w0 w1 : Nat} (h : Inv s) : Inv (s.writeLeaf l w0 w1) :=
  inv_modMem (put_wf _ _ _ (put_wf _ _ _ h))

theorem inv_portBeat {s : State} {u n : Nat} (h : Inv s) : Inv (s.portBeat u n) := inv_beat h

theorem inv_spadBeats {s : State} {k u n kind : Nat} (h : Inv s) : Inv (s.spadBeats k u n kind) := inv_portBeat (inv_strokeBeat h)

theorem inv_locateVa {s : State} {k a kind : Nat} {stale areg : Bool} (h : Inv s) : Inv (s.locateVa k stale areg a kind).2 := by
  unfold State.locateVa
  split
  · exact h
  extract_lets region
  split
  · rename_i s1 e
    have h1 : Inv s1 := (inv_translateFor h).snd e
    extract_lets s2
    have h2 : Inv s2 := inv_strokeBeat h1
    split
    · split
      rename_i s3 e1
      have h3 : Inv s3 := (inv_drawBool h2).snd e1
      exact inv_ite_snd h3 (inv_ite_snd h3 h3)
    · exact h2
  all_goals exact (inv_translateFor h).snd ‹_›

theorem inv_locate {s : State} {k space a n kind : Nat} {stale : Bool} (h : Inv s) : Inv (s.locate k stale space a n kind).2 := by
  unfold State.locate
  split
  · exact h
  · exact inv_ite_snd h (inv_ite_snd h (inv_ite_snd (inv_ite_snd h (inv_ite_snd h (inv_ite_snd h (inv_spadBeats h)))) (inv_locateVa h)))

end Sys2Proof.Machine
end

section
/-! Machine/Ops.lean keeps the form of memory: delivery, traps and the firing of a slot. -/
namespace Sys2Proof.Machine

theorem inv_post {s : State} {sender : Sender} {place : Nat} {w : Word} {kind : Nat} (h : Inv s) :
    Inv (s.post sender place w kind) := inv_modNet h

theorem inv_enterTrap {s : State} {k slot code : Nat} {val : Word} (h : Inv s) : Inv (s.enterTrap k slot code val) := by
  unfold State.enterTrap
  extract_lets u deferred s1
  have h1 : Inv s1 := inv_modStroke h
  split
  · split
    · exact inv_modSvc h1
    · exact h1
  · exact inv_ite (inv_modUnit h1) (inv_post h1)

theorem inv_takeTrap {s : State} {k slot code : Nat} {val : Word} (h : Inv s) : Inv (s.takeTrap k slot code val) :=
  inv_ite (inv_modRun h) (inv_enterTrap h)

theorem inv_takeLater {s : State} {k : Nat} (h : Inv s) : Inv (s.takeLater k) := by
  unfold State.takeLater
  split
  · exact h
  split
  · exact inv_ite h (inv_enterTrap (inv_modRun h))
  · exact h

theorem inv_deferTrap {s : State} {k code : Nat} {val : Word} (h : Inv s) : Inv (s.deferTrap k code val) := by
  unfold State.deferTrap
  split
  · exact h
  · exact inv_ite (inv_modRun h) (inv_takeTrap h)

theorem inv_requestPage {s : State} {part region page slab : Nat} {eng : Bool} (h : Inv s) :
    Inv (s.requestPage part region page eng slab) := inv_ite h (inv_modEng h)

theorem inv_pageWait {s : State} {k region page : Nat} (h : Inv s) : Inv (s.pageWait k region page) := by
  unfold State.pageWait
  split
  · exact h
  · split <;> exact inv_requestPage (inv_modRun h)

theorem inv_sendOne {s : State} {k n : Nat} {r : BitVec 9} {t : Token} (h : Inv s) : (s.sendOne k n r t).Upholds := by
  unfold State.sendOne
  split
  · exact h
  · split
    · exact h
    split
    · exact h
    split
    · split
      · exact h
      split
      rename_i s1 e
      have h1 : Inv s1 := (inv_drawBool h).snd e
      exact inv_ite (inv_modSlot h1) h1
    · split
      · trivial
      · exact inv_modSlot h
  · split
    · exact h
    split
    · exact inv_modRun h
    split
    · exact h
    split
    · split
      · trivial
      · exact inv_modFolio h
    · exact h

theorem inv_flushSlot {s : State} {k n : Nat} (h : Inv s) : Inv (s.flushSlot k n) := by
  unfold State.flushSlot
  split
  · exact h
  extract_lets s1
  have h1 : Inv s1 := by
    unfold s1
    split
    · exact h
    split
    · exact inv_modSlot ((inv_sendOne h).ok ‹_›)
    · exact h
    rename_i s2 _ _ _ e
    have h2 : Inv s2 := (inv_sendOne h).trap e
    exact inv_takeTrap (inv_ite (inv_modSlot h2) h2)
  split
  · exact h1
  split
  · exact h1
  split
  · exact h1
  split
  · exact inv_modSlot ((inv_sendOne h1).ok ‹_›)
  · exact h1
  rename_i s2 _ _ _ e
  have h2 : Inv s2 := (inv_sendOne h1).trap e
  exact inv_takeTrap (inv_ite (inv_modSlot h2) h2)

theorem inv_flushFrom {s : State} {k n n1 : Nat} (h : Inv s) : Inv (s.flushFrom k n n1) := by
  induction n1 generalizing s k n with
  | zero => exact h
  | succ n1 ih => exact inv_ite (ih (inv_flushSlot h)) h

theorem inv_flush {s : State} {k : Nat} (h : Inv s) : Inv (s.flush k) := by
  unfold State.flush
  split
  · exact inv_flushFrom h
  · exact h

theorem inv_emit {s : State} {k n : Nat} {t v : BitVec 9} {r1 r2 : Option Token} (h : Inv s) : Inv (s.emit k n t v r1 r2) :=
  inv_flush (inv_modSlot h)

theorem inv_result {s : State} {t : Token} (h : Inv s) : Inv (Fire.result s t).state := h

theorem inv_value {s : State} {w : Word} (h : Inv s) : Inv (Fire.value s w).state := inv_result h

theorem inv_consume {s : State} {f : Form} {x : Ctx} {fired : Bool} (h : Inv s) : Inv (s.consume f x fired) := inv_modSlot h

theorem inv_finish {s : State} {f : Form} {x : Ctx} {r : Fire} (h : Inv s) (hr : Inv r.state) : Inv (s.finish f x r) := by
  unfold State.finish
  split
  · split
    · exact inv_takeTrap h
    · exact inv_emit (inv_consume hr)
  · exact inv_flush (inv_modSlot (inv_consume hr))
  · exact inv_modSlot hr
  · exact inv_modSlot hr
  · exact inv_takeTrap hr
  · exact inv_takeTrap hr
  · exact inv_pageWait hr

theorem inv_fireWith {s : State} {f : Form} {op : Ctx → Args → Fire} (h : Inv s) (hop : ∀ x g, Inv (op x g).state) :
    Inv (s.fireWith f op) := by
  unfold State.fireWith
  split
  · exact h
  split
  · exact h
  split
  · exact inv_flush (inv_consume h)
  · exact inv_emit (inv_consume h)
  · exact inv_ite (inv_emit (inv_consume h)) (inv_finish h (hop _ _))

theorem inv_raise {s : State} {k : Nat} {f : Flags} (h : Inv s) : Inv (s.raise k f) := inv_ite h (inv_modInst h)

theorem inv_flagged {s : State} {k : Nat} {sf : BitVec 1} {r : Word × Flags} (h : Inv s) : Inv (Fire.flagged s k sf r).state :=
  inv_value (inv_ite h (inv_raise h))

theorem inv_failLoc {s : State} {l : Loc} (h : Inv s) : Every (fun t => Inv t.state) (failLoc s l) := by
  unfold failLoc
  split
  · exact h
  · exact h
  · trivial

end Sys2Proof.Machine
end

section
/-! Machine/Ports.lean keeps the form of memory: the shape of a firing. -/
namespace Sys2Proof.Machine

theorem inv_fire {i : Instr} {op : Ctx → Args → State → Fire} {s : State} (hop : ∀ x g t, Inv t → Inv (op x g t).state) (h : Inv s) :
    Answers (fire i op s) := by
  unfold fire
  split
  · exact h
  · exact inv_fireWith h (fun _ _ => hop _ _ _ h)

end Sys2Proof.Machine
end

section
/-! Machine/Moves.lean keeps the form of memory: tokens, registers and exits. -/
namespace Sys2Proof.Machine

theorem inv_recv {port : Nat} {x : Ctx} {s : State} (h : Inv s) : Inv (recv port x s).state := by
  unfold recv
  split
  · split
    · exact inv_value (inv_modRun h)
    · exact h
    · exact h
    · split <;> exact h
  · split
    · exact h
    split
    · exact h
    split
    · exact h
    extract_lets s1
    have h1 : Inv s1 := inv_modFolio h
    exact inv_result (inv_ite h1 (inv_flush h1))

theorem inv_exitFires {kind : ExitKind} {x : Ctx} {s : State} (h : Inv s) : Inv (exitFires kind x s).state := by
  unfold exitFires
  split
  · exact h
  extract_lets rec2 s1
  have h1 : Inv s1 := inv_modInst h
  split <;> exact h1

end Sys2Proof.Machine
end

section
/-! Machine/Blocks.lean keeps the form of memory: a block is fetched and checked. -/
namespace Sys2Proof.Machine

theorem inv_fetchWord {s : State} {k addr : Nat} (h : Inv s) : Inv (s.fetchWord k addr).2 := by
  unfold State.fetchWord
  extract_lets region off
  split
  rename_i s1 e
  have h1 : Inv s1 := (inv_drawStale h).snd e
  split
  · exact (inv_translateFor h1).snd ‹_›
  · exact (inv_translateFor h1).snd ‹_›
  · exact (inv_translateFor h1).snd ‹_›
  rename_i s2 e1
  have h2 : Inv s2 := (inv_translateFor h1).snd e1
  split
  rename_i s3 e2
  have h3 : Inv s3 := (inv_ite_snd (inv_drawBool h2) h2).snd e2
  split
  · exact h3
  split
  · exact h3
  · exact inv_request h3

theorem inv_fetchWords {s : State} {k addr i n : Nat} (h : Inv s) : Inv (s.fetchWords k addr i n).2 := by
  induction n generalizing s k addr i with
  | zero => exact h
  | succ n ih =>
    unfold State.fetchWords
    split
    · rename_i s1 e
      have h1 : Inv s1 := (inv_fetchWord h).snd e
      split <;> exact (ih h1).snd ‹_›
    · exact (inv_fetchWord h).snd ‹_›

theorem inv_storeImage {s : State} {u : Nat} {i : Image} (h : Inv s) : Inv (s.storeImage u i) := by
  unfold State.storeImage
  split
  · exact inv_modUnit h
  split
  exact inv_modUnit ((inv_drawWord h).snd ‹_›)

theorem inv_image {s : State} {k addr : Nat} (h : Inv s) : Inv (s.image k addr).2 := by
  unfold State.image
  extract_lets u
  split
  · exact h
  split
  · rename_i s1 e
    have h1 : Inv s1 := (inv_fetchWord h).snd e
    split
    · exact inv_storeImage ((inv_fetchWords h1).snd ‹_›)
    · exact (inv_fetchWords h1).snd ‹_›
  · exact (inv_fetchWord h).snd ‹_›

theorem inv_replaced {s : State} {k : Nat} (h : Inv s) : Inv (s.replaced k) := by
  unfold State.replaced
  split
  · exact inv_modUnit h
  · exact h

theorem inv_blockFetch {k : Nat} {s : State} (h : Inv s) : Inv (blockFetch k s) := by
  unfold blockFetch
  split
  · exact h
  extract_lets u addr
  split
  · exact h
  split
  · split
    exact inv_takeTrap ((inv_drawWord h).snd ‹_›)
  · split
    · exact inv_takeTrap h
    split
    · exact inv_pageWait ((inv_image h).snd ‹_›)
    · exact inv_takeTrap ((inv_image h).snd ‹_›)
    · exact (inv_image h).snd ‹_›
    rename_i s1 e
    have h1 : Inv s1 := (inv_image h).snd e
    split
    · exact inv_takeTrap h1
    split
    · exact inv_takeTrap h1
    extract_lets s2
    have h2 : Inv s2 := by
      unfold s2
      split
      · exact inv_modSvc h1
      · exact h1
    exact inv_modRun (inv_replaced h2)

theorem inv_predecode {k addr : Nat} {s : State} (h : Inv s) : Inv (predecode k addr s) := by
  unfold predecode
  split
  · split
    · exact (inv_image h).snd ‹_›
    · exact h
  · exact h

end Sys2Proof.Machine
end

section
/-! Machine/Commit.lean keeps the form of memory: the end of a block. -/
namespace Sys2Proof.Machine

theorem inv_leaveBlock {s : State} {k : Nat} {yields : Bool} {e : ExitKind} (h : Inv s) : Inv (s.leaveBlock k yields e) := by
  unfold State.leaveBlock
  split
  · exact inv_modStroke h
  · split
    exact inv_modStroke ((inv_drawWord h).snd ‹_›)
  · split
    · extract_lets u s1
      have h1 : Inv s1 := inv_modRun h
      split
      · exact inv_modSvc h1
      · exact h1
    · exact inv_modRun h

theorem inv_takeDeferred {s : State} {k : Nat} (h : Inv s) : Inv (s.takeDeferred k) := by
  unfold State.takeDeferred
  split
  · exact inv_takeTrap (inv_modRun h)
  · exact h

theorem inv_leavesStream {s : State} {k : Nat} (h : Inv s) : Inv (s.leavesStream k) := by
  unfold State.leavesStream
  split
  · exact inv_modUnit h
  · exact h

theorem inv_commitInst {s : State} {k : Nat} {i : Instance} {e : ExitRec} (h : Inv s) : Inv (s.commitInst k i e) := by
  unfold State.commitInst
  extract_lets s1 s2 s3 s4
  have h1 : Inv s1 := inv_modStroke h
  have h2 : Inv s2 := inv_ite (inv_leavesStream h1) h1
  exact inv_takeDeferred (inv_leaveBlock (inv_ite (inv_modUnit h2) h2))

theorem inv_blockCommit {k : Nat} {s : State} (h : Inv s) : Inv (blockCommit k s) := by
  unfold blockCommit
  split
  · exact h
  split
  · exact h
  split
  · exact h
  split
  · exact inv_takeTrap h
  split
  · exact h
  split
  · split
    · exact inv_ite (inv_takeTrap h) (inv_commitInst h)
    · exact inv_commitInst h
  · exact h

theorem inv_noCommit {k : Nat} {s : State} (h : Inv s) : Inv (noCommit k s) := by
  unfold noCommit
  split
  · exact h
  split
  · exact h
  split
  · exact h
  · exact inv_takeTrap h

end Sys2Proof.Machine
end

section
/-! Machine/Accesses.lean keeps the form of memory: bytes and page elements of a stroke. -/
namespace Sys2Proof.Machine

theorem inv_ownerNode {s : State} {p : Phys} (h : Inv s) : Inv (s.ownerNode p).2 := by
  unfold State.ownerNode
  split
  · split
    exact (inv_drawBool h).snd ‹_›
  · exact h

theorem inv_readTrap {s : State} {key n : Nat} (h : Inv s) : Every (fun t => Inv t.state) (s.readTrap key n) := every_map (fun _ => h)

theorem inv_writeTrap {s : State} {key n : Nat} (h : Inv s) : Every (fun t => Inv t.state) (s.writeTrap key n) := every_map (fun _ => h)

theorem inv_sendAtom {s : State} {r : AtomReq} (h : Inv s) : Inv (s.sendAtom r) := inv_request (inv_modNet h)

theorem inv_readLoc {s : State} {k key n : Nat} (h : Inv s) : (s.readLoc k key n).Upholds := by
  unfold State.readLoc
  split
  · exact (inv_readTrap h).some ‹_›
  split
  exact (inv_load h).snd ‹_›

theorem inv_storeFrom {s : State} {k : Nat} {bnd : BitVec 32} {l : Loc} {bs : List Byte} (h : Inv s) :
    (s.storeFrom k bnd l bs).Upholds := by
  unfold State.storeFrom
  extract_lets key
  split
  · exact (inv_writeTrap h).some ‹_›
  split
  · split
    · exact h
    · exact inv_modMem (localWrite_wf _ _ _ h)
  · split
    · exact h
    · exact inv_pendWrite h

theorem inv_storeLoc {s : State} {k : Nat} {l : Loc} {bs : List Byte} (h : Inv s) : (s.storeLoc k l bs).Upholds := inv_storeFrom h

theorem inv_setting {s : State} {k n : Nat} {l : Loc} (h : Inv s) : Inv (s.setting k l n) := by
  unfold State.setting
  split
  · refine inv_modMem ?_
    extract_lets m
    have hm : m.wf = true := setFulls_wf h
    exact wf_ite hm (reveal_wf hm)
  · exact h

theorem inv_latchWatchers {s : State} (h : Inv s) : Inv s.latchWatchers := inv_ite h (inv_modEng h)

theorem inv_modRunOf {s : State} {u : Nat} {f : CbRun → CbRun} (h : Inv s) : Inv (s.modRunOf u f) := by
  unfold State.modRunOf
  split
  · exact inv_modSvc h
  · exact h

theorem inv_methodStore {s : State} {u off : Nat} {bs : List Byte} (h : Inv s) : Inv (s.methodStore u off bs) := inv_modRunOf h

theorem inv_scaleCode {s : State} {k off : Nat} {stale areg high : Bool} {p : Phys} (h : Inv s) :
    (s.scaleCode k stale areg p off high).Upholds := by
  unfold State.scaleCode
  split
  · exact h
  extract_lets low n a
  split
  · rename_i s1 e
    have h1 : Inv s1 := (inv_locateVa h).snd e
    split
    · exact (inv_readLoc h1).ok ‹_›
    · exact (inv_readLoc h1).bad ‹_›
  · exact inv_failLoc_getD ((inv_locateVa h).snd ‹_›)

theorem inv_readElem {s : State} {k delta : Nat} {stale areg high : Bool} {p : Phys} (h : Inv s) :
    (s.readElem k stale areg p delta high).Upholds := by
  unfold State.readElem
  split
  · exact (inv_scaleCode h).bad ‹_›
  rename_i s1 e
  have h1 : Inv s1 := (inv_scaleCode h).ok e
  split
  · exact (inv_readLoc h1).bad ‹_›
  · exact (inv_readLoc h1).ok ‹_›

theorem inv_elemCode {s : State} {k delta v : Nat} {stale areg high wide : Bool} {p : Phys} (h : Inv s) :
    (s.elemCode k stale areg p delta high wide v).Upholds := by
  unfold State.elemCode
  split
  · exact (inv_scaleCode h).bad ‹_›
  · exact (inv_scaleCode h).ok ‹_›

theorem inv_locateScalar {s : State} {k space a size kind : Nat} {stale raw : Bool} (h : Inv s) :
    Inv (s.locateScalar k stale raw space a size kind).2 := by
  unfold State.locateScalar
  split
  · split
    · exact inv_ite_snd ((inv_locateVa h).snd ‹_›) h
    · exact inv_ite_snd (inv_locateVa h) h
  · exact inv_locate h

theorem inv_streamStale {s : State} {k space a kind : Nat} (h : Inv s) : Inv (s.streamStale k space a kind).2 := by
  unfold State.streamStale
  split
  · exact inv_ite_snd (inv_drawStale h) h
  · exact h

theorem inv_sizeTrap {s : State} {p : Phys} {size : Nat} {raw : Bool} (h : Inv s) :
    Every (fun t => Inv t.state) (sizeTrap s p size raw) := by
  unfold sizeTrap
  split
  · trivial
  · exact h

theorem inv_replyFrom {own : Bool} {x : Ctx} {s : State} {w : Word} (h : Inv s) : Inv (replyFrom own x s w).state := by
  unfold replyFrom
  split
  · exact inv_value h
  · exact inv_owed (inv_pushReply h)

end Sys2Proof.Machine
end

section
/-! Machine/Atomics.lean keeps the form of memory: atomics and their application, and the delivery of replies. -/
namespace Sys2Proof.Machine

theorem inv_giveReply {s : State} {r : Reply} (h : Inv s) : Inv (s.giveReply r) := by
  unfold State.giveReply
  extract_lets s1
  have h1 : Inv s1 := by
    unfold s1
    split
    · exact inv_modRegs h
    · exact h
  split
  · split
    · exact inv_flush (inv_modSlot h1)
    · exact h1
  · exact h1

theorem inv_memoryReply {n : Nat} {s : State} (h : Inv s) : Inv (memoryReply n s) := by
  unfold memoryReply
  split
  · exact h
  · exact inv_ite (inv_sendPeer (inv_modNet h)) (inv_ite h (inv_giveReply (inv_modNet h)))

theorem inv_unsend {s : State} {k slot : Nat} (h : Inv s) : Inv (s.unsend k slot) := inv_modSlot h

theorem inv_atomAt {s : State} {x : Ctx} {space a n size : Nat} {fits : Nat → Bool} {kind : AtomKind} (h : Inv s) :
    (s.atomAt x space a n size fits kind).Upholds := by
  unfold State.atomAt
  extract_lets req
  split
  · rename_i s1 e
    have h1 : Inv s1 := (inv_locate h).snd e
    split
    · exact h1
    split
    · exact inv_trap ((inv_ownerNode h1).snd ‹_›)
    rename_i s2 e1
    have h2 : Inv s2 := (inv_ownerNode h1).snd e1
    split
    · exact (inv_readTrap h2).some ‹_›
    · exact h2
  · rename_i s1 e
    have h1 : Inv s1 := (inv_locate h).snd e
    split
    · exact (inv_readTrap h1).some ‹_›
    · exact h1
  · exact inv_failLoc_getD ((inv_locate h).snd ‹_›)

theorem inv_scalarAtomic {op space size : Nat} {x : Ctx} {g : Args} {s : State} (h : Inv s) :
    Inv (scalarAtomic op space size x g s).state := by
  unfold scalarAtomic
  extract_lets n
  split
  · exact (inv_atomAt h).bad ‹_›
  · exact inv_sent (inv_sendAtom ((inv_atomAt h).ok ‹_›))

theorem inv_setResume {s : State} {k i : Nat} (h : Inv s) : Inv (s.setResume k i) := inv_modRegs h

theorem inv_sendLanes {op space size base rec first : Nat} {x : Ctx} {l : List Nat} {s : State} (h : Inv s) :
    Inv (sendLanes op space size x base rec first l s).state := by
  induction l generalizing op space size x base rec first s with
  | nil => exact inv_sent (inv_modSlot h)
  | cons e l ih =>
    unfold sendLanes
    extract_lets s1 n r
    have h1 : Inv s1 := inv_setResume h
    split
    rename_i s2 e1
    have h2 : Inv s2 := (inv_load h1).snd e1
    split
    rename_i s3 e2
    have h3 : Inv s3 := (inv_load h2).snd e2
    split
    · rename_i f1 e3
      have h11 : Inv f1.state := (inv_atomAt h3).bad e3
      split
      · exact h11
      · exact inv_sent (inv_modSlot h3)
    · exact ih (inv_sendAtom ((inv_atomAt h3).ok ‹_›))

theorem inv_vectorAtomic {op space size : Nat} {x : Ctx} {g : Args} {s : State} (h : Inv s) :
    Inv (vectorAtomic op space size x g s).state := by
  unfold vectorAtomic
  extract_lets b
  split
  · exact h
  split
  · exact h
  refine inv_checked (inv_readTrap h) ?_
  split
  rename_i s1 e
  have h1 : Inv s1 := (inv_load h).snd e
  extract_lets cnt
  split
  · exact h1
  split
  · exact h1
  refine inv_checked (inv_readTrap h1) ?_
  split
  · exact inv_value (inv_setResume h1)
  · exact inv_sendLanes h1

theorem inv_afadd {space : Nat} {x : Ctx} {g : Args} {s : State} (h : Inv s) : Inv (afadd space x g s).state := by
  unfold afadd
  split
  · exact (inv_atomAt h).bad ‹_›
  · exact inv_sent (inv_sendAtom ((inv_atomAt h).ok ‹_›))

theorem inv_afinit {rel ax : Bool} {x : Ctx} {g : Args} {s : State} (h : Inv s) : Inv (afinit rel ax x g s).state := by
  unfold afinit
  split
  · exact (inv_atomAt h).bad ‹_›
  · exact inv_sent (inv_sendAtom ((inv_atomAt h).ok ‹_›))

theorem inv_gather {s : State} {r : AtomReq} {n : Nat} (h : Inv s) : Inv (s.gather r n) := inv_modMem (homeSeen_wf _ _ _ _ h)

theorem inv_applyWrite {s : State} {r : AtomReq} {bs : List Byte} (h : Inv s) : Inv (s.applyWrite r bs) := by
  unfold State.applyWrite
  extract_lets s1
  have h1 : Inv s1 := inv_modMem (setBytes_wf _ _ h)
  exact inv_ite h1 (inv_restable h1)

theorem inv_applyInt {s : State} {r : AtomReq} {op size : Nat} {b c : Word} (h : Inv s) : Inv (s.applyInt r op size b c).2 := by
  unfold State.applyInt
  extract_lets n s1 old u s2
  have h1 : Inv s1 := inv_gather h
  have h2 : Inv s2 := by
    unfold s2
    split
    · exact inv_applyWrite h1
    · exact h1
  exact h2

theorem inv_lanesDone {s : State} {r : AtomReq} (h : Inv s) : Inv (s.lanesDone r) := by
  unfold State.lanesDone
  split
  · exact h
  split
  · exact h
  split
  · exact h
  split
  · exact h
  split
  · exact inv_pushReply (inv_setResume h)
  · exact inv_unsend (inv_setResume h)

theorem inv_laneDone {s : State} {r : AtomReq} {rec : Nat} {old : Word} (h : Inv s) : Inv (s.laneDone r rec old) :=
  inv_lanesDone (inv_modMem (localWrite_wf _ _ _ h))

theorem inv_applyAtom {s : State} {r : AtomReq} (h : Inv s) : Inv (s.applyAtom r) := by
  unfold State.applyAtom
  split
  · split
    exact inv_pushReply ((inv_applyInt h).snd ‹_›)
  · split
    exact inv_laneDone ((inv_applyInt h).snd ‹_›)
  · exact inv_pushReply h
  · exact inv_pushReply (inv_commitOwn h)
  · exact h

theorem inv_dropAtom {n : Nat} {s : State} (h : Inv s) : Inv (dropAtom n s) := inv_modNet h

theorem inv_peerRefuses {s : State} {r : AtomReq} {code : Nat} {val : Word} (h : Inv s) : Inv (s.peerRefuses r code val) := inv_sendPeer h

theorem inv_atomTrap {s : State} {n g : Nat} {r : AtomReq} (h : Inv s) : Inv (s.atomTrap n r g) := by
  unfold State.atomTrap
  extract_lets s1
  have h1 : Inv s1 := inv_dropAtom h
  split
  · exact inv_peerRefuses h1
  split
  · exact h1
  split
  · exact inv_lanesDone (inv_modSlot h1)
  · exact inv_takeTrap (inv_unsend h1)

theorem inv_performAtom {s : State} {n : Nat} {r : AtomReq} (h : Inv s) : Inv (s.performAtom n r) := by
  unfold State.performAtom
  split
  · exact inv_atomTrap h
  · exact inv_applyAtom (inv_dropAtom h)

theorem inv_atomicApply {n : Nat} {s : State} (h : Inv s) : Inv (atomicApply n s) := by
  unfold atomicApply
  split
  · exact h
  split
  · exact h
  split
  · exact inv_performAtom h
  · exact inv_performAtom h
  · exact h

theorem inv_setAfCtx {s : State} {c : AfCtx} (h : Inv s) : Inv (s.setAfCtx c) := inv_modNet h

theorem inv_afTrap {s : State} {n code : Nat} {r : AtomReq} (h : Inv s) : Inv (s.afTrap n r code) := by
  unfold State.afTrap
  extract_lets s1
  have h1 : Inv s1 := inv_dropAtom h
  exact inv_ite (inv_peerRefuses h1) (inv_ite (inv_takeTrap (inv_unsend h1)) h1)

theorem inv_afApply {s : State} {n : Nat} {r : AtomReq} {c : AfCtx} {b : BitVec 32} (h : Inv s) : Inv (s.afApply n r c b) := by
  unfold State.afApply
  split
  · exact inv_atomTrap h
  extract_lets s1 old
  have h1 : Inv s1 := inv_gather (inv_dropAtom h)
  split
  extract_lets s2 s3
  have h2 : Inv s2 := inv_setAfCtx (inv_applyWrite h1)
  exact inv_pushReply (inv_ite (inv_raise h2) h2)

theorem inv_afAttempt {s : State} {n : Nat} {may : Bool} (h : Inv s) : Inv (s.afAttempt n may) := by
  unfold State.afAttempt
  split
  · exact h
  split
  · split
    · exact inv_afTrap h
    · exact inv_ite (inv_afTrap h) (inv_ite (inv_modNet h) (inv_ite (inv_afApply h) (inv_modNet h)))
  · exact h

theorem inv_afaddApply {n : Nat} {s : State} (h : Inv s) : Inv (afaddApply n s) := by
  unfold afaddApply
  split
  · exact h
  · exact inv_ite h (inv_afAttempt h)

theorem inv_rejectHeld {node key n : Nat} {s : State} (h : Inv s) : Inv (rejectHeld node key n s) := by
  induction n generalizing node key s with
  | zero => exact h
  | succ n ih =>
    unfold rejectHeld
    split
    · exact h
    split
    · exact h
    · exact ih (inv_afTrap h)

theorem inv_afinitApply {n : Nat} {s : State} (h : Inv s) : Inv (afinitApply n s) := by
  unfold afinitApply
  split
  · exact h
  split
  · extract_lets known
    rename_i s1 s2 s3
    have h1 : Inv s1 := inv_dropAtom h
    have h2 : Inv s2 := inv_rejectHeld h1
    exact inv_ite h (inv_ite (inv_afTrap h) (inv_pushReply (inv_ite (inv_modNet h2) (inv_setAfCtx h2))))
  · exact h

theorem inv_scAccess {i : Nat} {s : State} (h : Inv s) : Inv (scAccess i s) := by
  unfold scAccess
  split
  · exact h
  split
  · exact inv_afAttempt h
  · exact inv_performAtom h

theorem inv_scVisit {node n : Nat} {s : State} (h : Inv s) : Inv (scVisit node n s) := by
  induction n generalizing node s with
  | zero => exact h
  | succ n ih =>
    unfold scVisit
    split
    · exact h
    · exact ih (inv_latchWatchers (inv_scAccess h))

theorem inv_scTokenVisit {s : State} (h : Inv s) : Inv (scTokenVisit s) := by
  unfold scTokenVisit
  extract_lets l
  split
  · exact inv_modNet h
  · exact inv_scVisit (inv_modNet h)

end Sys2Proof.Machine
end

section
/-! Machine/Ending.lean keeps the form of memory: what the end of a stroke leaves. -/
namespace Sys2Proof.Machine

theorem inv_closeFolio {s : State} {id : Nat} (h : Inv s) : Inv (s.closeFolio id) := by
  unfold State.closeFolio
  split
  · exact h
  · exact inv_ite h (inv_modEng h)

theorem inv_dropWaits {s : State} {k : Nat} {frozen killed : Bool} (h : Inv s) : Inv (s.dropWaits k frozen killed) := by
  unfold State.dropWaits
  extract_lets s1 s2 s3 s4
  have h1 : Inv s1 := inv_modMem h
  have h2 : Inv s2 := inv_modEng h1
  have h3 : Inv s3 := inv_modNet h2
  have h4 : Inv s4 := inv_modSvc h3
  exact h4

theorem inv_endStroke {s : State} {k status : Nat} {killed : Bool} (h : Inv s) : Inv (s.endStroke k status killed) := by
  unfold State.endStroke
  split
  · exact h
  extract_lets s1 last s2 s3 s4 s5
  have h1 : Inv s1 := inv_ite (inv_modMem (discard_wf h)) h
  have h2 : Inv s2 := inv_modUnit h1
  have h3 : Inv s3 := inv_dropWaits h2
  have h4 : Inv s4 := inv_modFolio h3
  have h5 : Inv s5 := h4
  exact inv_closeFolio h5

end Sys2Proof.Machine
end

section
/-! Machine/LoadStore.lean keeps the form of memory: loads, stores and moves. -/
namespace Sys2Proof.Machine

theorem served_wf {m : Memory} {u : BankUser} (h : m.wf = true) : (m.served u).wf = true := h

theorem inv_joinWaits {s : State} {u : BankUser} {fc : Bool} {gr : Nat} (h : Inv s) : Inv (s.joinWaits u fc gr) := by
  unfold State.joinWaits
  refine inv_modMem ?_
  split
  · exact h
  extract_lets src
  have hsrc : src.wf = true := served_wf h
  exact hsrc

theorem inv_waitFull {u : BankUser} {fe fc : Bool} {key : Nat} {s : State} (h : Inv s) : Every Inv (waitFull u fe fc key s) := by
  unfold waitFull
  split
  · exact h
  split
  · trivial
  · exact inv_modMem (wf_ite (setFull_wf (served_wf h)) (served_wf h))

theorem inv_scLoad {x : Ctx} {p : Phys} {areg : Bool} {a n size : Nat} {s : State} (h : Inv s) :
    Inv (scLoad x p areg a n size s).state := by
  unfold scLoad
  split
  · exact h
  extract_lets high
  refine inv_checked (inv_readTrap h) ?_
  split
  · exact (inv_scaleCode h).bad ‹_›
  · exact inv_sent (inv_sendAtom ((inv_scaleCode h).ok ‹_›))

theorem inv_ld {sp size q : Nat} {x : Ctx} {g : Args} {s : State} (h : Inv s) : Inv (ld sp size q x g s).state := by
  unfold ld
  extract_lets a raw
  split
  · rename_i s1 e
    have h1 : Inv s1 := (inv_locateScalar h).snd e
    refine inv_checked (inv_sizeTrap h1) ?_
    extract_lets n1
    split
    · exact inv_scLoad h1
    split
    · split
      · exact (inv_readLoc h1).bad ‹_›
      · exact inv_replyFrom ((inv_readLoc h1).ok ‹_›)
    · split
      · exact (inv_readElem h1).bad ‹_›
      · exact inv_replyFrom ((inv_readElem h1).ok ‹_›)
  · rename_i s1 e
    have h1 : Inv s1 := (inv_locateScalar h).snd e
    extract_lets key
    split
    · exact inv_value h1
    refine inv_checked (inv_readTrap h1) ?_
    split
    · exact inv_hold (inv_joinWaits h1)
    rename_i s2 e1
    have h2 : Inv s2 := (inv_waitFull h1).some e1
    split
    exact inv_replyFrom ((inv_readBytes h2).snd ‹_›)
  · exact inv_failLoc_getD ((inv_locateScalar h).snd ‹_›)

theorem inv_scStore {x : Ctx} {p : Phys} {a n v : Nat} {nibble : Option Bool} {s : State} (h : Inv s) :
    Inv (scStore x p a n v nibble s).state := by
  unfold scStore
  split
  · exact h
  refine inv_checked (inv_writeTrap h) ?_
  exact inv_sent (inv_sendAtom h)

theorem inv_storeValue {x : Ctx} {areg raw : Bool} {p : Phys} {size v : Nat} {s : State} (h : Inv s) :
    (storeValue x areg raw p size v s).Upholds := by
  unfold storeValue
  split
  · exact h
  extract_lets high
  split
  · exact (inv_elemCode h).bad ‹_›
  rename_i s1 e
  have h1 : Inv s1 := (inv_elemCode h).ok e
  split <;> exact h1

theorem inv_st {sp size q : Nat} {x : Ctx} {g : Args} {s : State} (h : Inv s) : Inv (st sp size q x g s).state := by
  unfold st
  extract_lets a raw
  split
  · rename_i s1 e
    have h1 : Inv s1 := (inv_locateScalar h).snd e
    refine inv_checked (inv_sizeTrap h1) ?_
    split
    · exact h1
    split
    · exact (inv_storeValue h1).bad ‹_›
    rename_i s2 e1
    have h2 : Inv s2 := (inv_storeValue h1).ok e1
    split
    · exact inv_scStore h2
    extract_lets v
    split
    · exact (inv_storeLoc h2).bad ‹_›
    · exact inv_replyFrom ((inv_storeLoc h2).ok ‹_›)
  · rename_i s1 e
    have h1 : Inv s1 := (inv_locateScalar h).snd e
    extract_lets l
    split
    · exact inv_value (inv_methodStore h1)
    split
    · exact h1
    split
    · exact (inv_storeLoc h1).bad ‹_›
    rename_i s2 e1
    have h2 : Inv s2 := (inv_storeLoc h1).ok e1
    exact inv_replyFrom (inv_ite (inv_setting h2) h2)
  · exact inv_failLoc_getD ((inv_locateScalar h).snd ‹_›)

theorem inv_locateVec {s : State} {k space a m kind : Nat} {stale raw : Bool} (h : Inv s) :
    Inv (s.locateVec k stale raw space a m kind).2 := by
  unfold State.locateVec
  split
  · split
    · rename_i s1 e
      have h1 : Inv s1 := (inv_locateVa h).snd e
      exact inv_ite_snd h (inv_ite (inv_strokeBeat h1) h1)
    · exact inv_ite_snd h (inv_locateVa h)
  · split
    · rename_i s1 e
      have h1 : Inv s1 := (inv_locate h).snd e
      exact inv_ite (inv_strokeBeat h1) h1
    · exact inv_locate h

theorem inv_readElems {s : State} {k i n : Nat} {stale areg : Bool} {p : Phys} (h : Inv s) : (s.readElems k stale areg p i n).Upholds := by
  induction n generalizing s k stale areg p i with
  | zero => exact h
  | succ n ih =>
    unfold State.readElems
    extract_lets d
    split
    · exact (inv_readElem h).bad ‹_›
    rename_i s1 e
    have h1 : Inv s1 := (inv_readElem h).ok e
    split
    · exact (ih h1).bad ‹_›
    · exact (ih h1).ok ‹_›

theorem inv_elemCodes {s : State} {k i : Nat} {stale areg : Bool} {p : Phys} {l : List Nat} (h : Inv s) :
    (s.elemCodes k stale areg p i l).Upholds := by
  induction l generalizing s k stale areg p i with
  | nil => exact h
  | cons e l ih =>
    unfold State.elemCodes
    extract_lets d
    split
    · exact (inv_elemCode h).bad ‹_›
    rename_i s1 e1
    have h1 : Inv s1 := (inv_elemCode h).ok e1
    split
    · exact (ih h1).bad ‹_›
    · exact (ih h1).ok ‹_›

theorem inv_moveGranules {u : BankUser} {bnd : BitVec 32} {fe src i n : Nat} {dst : Loc} {s : State} (h : Inv s) :
    (moveGranules u bnd fe src dst i n s).Upholds := by
  induction n generalizing u bnd fe src dst i s with
  | zero => exact h
  | succ n ih =>
    unfold moveGranules
    split
    · exact h
    split
    · exact inv_joinWaits h
    rename_i s1 e
    have h1 : Inv s1 := (inv_waitFull h).some e
    split
    · exact h
    split
    rename_i s2 e1
    have h2 : Inv s2 := (inv_readBytes h1).snd e1
    extract_lets d
    split
    · exact h
    rename_i s3 e2
    have h3 : Inv s3 := (inv_storeFrom h2).ok e2
    exact ih (inv_ite (inv_setting h3) h3)

theorem inv_movedTo {s : State} {x : Ctx} {i : Nat} {v : Option Move} (h : Inv s) : Inv (s.movedTo x i v) := inv_modSlot h

theorem inv_holdAt {x : Ctx} {i : Nat} {v : Option Move} {s : State} (h : Inv s) : Inv (holdAt x i v s).state := inv_hold (inv_movedTo h)

theorem inv_resetCount {x : Ctx} {s : State} (h : Inv s) : Inv (resetCount x s) := inv_movedTo h

theorem inv_rawCopy {x : Ctx} {fe m : Nat} {src dst : Loc} {own : Bool} {into : Option Nat} {result : Word} {s : State} (h : Inv s) :
    Inv (rawCopy x fe src dst m own into result s).state := by
  unfold rawCopy
  extract_lets i
  refine inv_checked (inv_readTrap h) ?_
  split
  · exact h
  split
  · exact inv_holdAt ((inv_moveGranules h).wait ‹_›)
  · exact inv_trap (inv_movedTo ((inv_moveGranules h).bad ‹_›))
  · exact inv_replyFrom (inv_resetCount ((inv_moveGranules h).done ‹_›))

theorem inv_goMove {k : Nat} {v : Move} {s : State} (h : Inv s) : (goMove k v s).Upholds := by
  unfold goMove
  split
  · exact h
  extract_lets dst
  split
  · split
    · rename_i s1 e
      have h1 : Inv s1 := (inv_storeFrom h).ok e
      exact inv_ite (inv_setting h1) h1
    · exact h
  · exact inv_moveGranules h

theorem inv_resumeMove {x : Ctx} {v : Move} {result : Word} {s : State} (h : Inv s) : Inv (resumeMove x v result s).state := by
  unfold resumeMove
  split
  · exact inv_holdAt ((inv_goMove h).wait ‹_›)
  · exact inv_trap (inv_movedTo ((inv_goMove h).bad ‹_›))
  · exact inv_replyFrom (inv_resetCount ((inv_goMove h).done ‹_›))

theorem inv_startLdv {sp size q : Nat} {x : Ctx} {g : Args} {s : State} (h : Inv s) : Inv (startLdv sp size q x g s).state := by
  unfold startLdv
  extract_lets m b raw
  split
  · exact h
  split
  · exact h
  split
  · rename_i s1 e
    have h1 : Inv s1 := (inv_locateVec h).snd e
    split
    · split
      · exact (inv_readElems h1).bad ‹_›
      rename_i s2 e1
      have h2 : Inv s2 := (inv_readElems h1).ok e1
      extract_lets bs
      split
      · rename_i s3 e2
        have h3 : Inv s3 := (inv_storeLoc h2).bad e2
        exact inv_holdAt h3
      · exact (inv_storeLoc h2).bad ‹_›
      · rename_i s3 e2
        have h3 : Inv s3 := (inv_storeLoc h2).ok e2
        exact inv_replyFrom (inv_resetCount (inv_ite (inv_setting h3) h3))
    · exact inv_rawCopy h1
  · exact inv_rawCopy ((inv_locateVec h).snd ‹_›)
  · exact inv_failLoc_getD ((inv_locateVec h).snd ‹_›)

theorem inv_ldv {sp size q : Nat} {x : Ctx} {g : Args} {s : State} (h : Inv s) : Inv (ldv sp size q x g s).state := by
  unfold ldv
  split
  · exact inv_resumeMove h
  · exact inv_startLdv h

theorem inv_encodeGranules {x : Ctx} {fe src i n : Nat} {areg : Bool} {p : Phys} {s : State} (h : Inv s) :
    (encodeGranules x fe areg src p i n s).Upholds := by
  induction n generalizing x fe areg src p i s with
  | zero => exact h
  | succ n ih =>
    unfold encodeGranules
    split
    · exact inv_joinWaits h
    rename_i s1 e
    have h1 : Inv s1 := (inv_waitFull h).some e
    split
    rename_i s2 e1
    have h2 : Inv s2 := (inv_loadBytes h1).snd e1
    split
    · exact (inv_elemCodes h2).bad ‹_›
    · exact ih (inv_pendWrite ((inv_elemCodes h2).ok ‹_›))

theorem inv_encodeVec {x : Ctx} {fe src m : Nat} {areg : Bool} {p : Phys} {s : State} (h : Inv s) :
    Inv (encodeVec x fe areg src p m s).state := by
  unfold encodeVec
  refine inv_checked (inv_readTrap h) ?_
  split
  · exact (inv_elemCodes h).bad ‹_›
  rename_i s1 e
  have h1 : Inv s1 := (inv_elemCodes h).ok e
  extract_lets n
  refine inv_checked (inv_writeTrap h) ?_
  split
  · exact h
  split
  · exact (inv_encodeGranules h).bad ‹_›
  · exact inv_holdAt ((inv_encodeGranules h).ok ‹_›)
  · exact inv_replyFrom (inv_resetCount (inv_modMem (heal_wf ((inv_encodeGranules h).ok ‹_›))))

theorem inv_stv {sp size q : Nat} {x : Ctx} {g : Args} {s : State} (h : Inv s) : Inv (stv sp size q x g s).state := by
  unfold stv
  extract_lets m b raw
  split
  · exact h
  split
  · exact h
  split
  · rename_i s1 e
    have h1 : Inv s1 := (inv_locateVec h).snd e
    split
    · exact h1
    split
    · exact inv_encodeVec h1
    refine inv_checked (inv_writeTrap h1) ?_
    exact inv_rawCopy h1
  · rename_i s1 e
    have h1 : Inv s1 := (inv_locateVec h).snd e
    refine inv_checked (inv_writeTrap h1) ?_
    exact inv_rawCopy h1
  · exact inv_failLoc_getD ((inv_locateVec h).snd ‹_›)

theorem inv_pumpMove {k : Nat} {v : Move} {s : State} (h : Inv s) : Inv (pumpMove k v s).2 := by
  unfold pumpMove
  split
  · exact (inv_goMove h).done ‹_›
  · exact (inv_goMove h).wait ‹_›
  · exact inv_deferTrap ((inv_goMove h).bad ‹_›)

theorem inv_pumpList {k : Nat} {l : List Move} {s : State} (h : Inv s) : Inv (pumpList k l s) := by
  induction l generalizing k s with
  | nil => exact h
  | cons e l ih => exact ih (inv_modRun (inv_pumpMove h))

theorem inv_pumpMoves {s : State} (h : Inv s) : Inv s.pumpMoves := inv_foldl (fun _ _ h1 => inv_ite h1 (inv_pumpList h1)) h

theorem inv_readMove {s : State} {k : Nat} {v : Move} (h : Inv s) : Inv (s.readMove k v).2 := by
  unfold State.readMove
  split
  · exact h
  split
  exact (inv_loadBytes h).snd ‹_›

theorem inv_drainList {k : Nat} {hit : Nat → Nat → Nat → Bool} {l : List Move} {s : State} (h : Inv s) : Inv (drainList k hit l s).2 := by
  induction l generalizing k hit s with
  | nil => exact h
  | cons e l ih =>
    unfold drainList
    extract_lets r s1 q
    have hr : Inv r.2 := inv_ite_snd (inv_readMove h) h
    clear_value r
    have h1 : Inv s1 := by
      unfold s1
      split
      · split
        · exact inv_deferTrap h
        · exact h
      · exact hr
    have hq : Inv q.2 := ih h1
    clear_value q
    exact hq

theorem inv_drainSlots {k n n1 : Nat} {hit : Nat → Nat → Nat → Bool} {s : State} (h : Inv s) : Inv (drainSlots k hit n n1 s) := by
  induction n1 generalizing k hit n s with
  | zero => exact h
  | succ n1 ih =>
    unfold drainSlots
    split
    · exact ih h
    · exact ih (inv_modSlot (inv_readMove h))

theorem inv_drainStroke {s : State} {hit : Nat → Nat → Nat → Bool} {k : Nat} (h : Inv s) : Inv (s.drainStroke hit k) := by
  unfold State.drainStroke
  split
  · exact h
  split
  exact inv_drainSlots (inv_modRun ((inv_drainList h).snd ‹_›))

theorem inv_drainMoves {s : State} {hit : Nat → Nat → Nat → Bool} (h : Inv s) : Inv (s.drainMoves hit) :=
  inv_foldl (fun _ _ => inv_drainStroke) h

theorem inv_feset {sp size q : Nat} {x : Ctx} {g : Args} {s : State} (h : Inv s) : Inv (feset sp size q x g s).state := by
  unfold feset
  extract_lets count
  split
  · exact inv_replyFrom (inv_modMem (setFulls_wf ((inv_locate h).snd ‹_›)))
  · exact inv_failLoc_getD ((inv_locate h).snd ‹_›)

end Sys2Proof.Machine
end

section
/-! Machine/Streams.lean keeps the form of memory: circular buffers, bindings and streams. -/
namespace Sys2Proof.Machine

theorem inv_setHandle {s : State} {k i : Nat} {h1 : Handle} (h : Inv s) : Inv (s.setHandle k i h1) := inv_modRun h

theorem inv_testArmed {s : State} {k i : Nat} (h : Inv s) : Inv (s.testArmed k i) := by
  unfold State.testArmed
  split
  · exact h
  split
  · split
    · exact inv_ite (inv_post (inv_setHandle h)) h
    · exact h
  · exact h

theorem inv_cbinit {side : Bool} {i : Nat} {x : Ctx} {g : Args} {s : State} (h : Inv s) : Inv (cbinit side i x g s).state := by
  unfold cbinit
  split
  · exact h
  · exact inv_value (inv_setHandle h)

theorem inv_cbAwait {rsv try_ : Bool} {n i : Nat} {x : Ctx} {s : State} (h : Inv s) : Inv (cbAwait rsv n try_ i x s).state := by
  unfold cbAwait
  split
  · exact h
  split
  · exact h
  split
  · exact inv_value h
  split
  · exact inv_result (inv_setHandle h)
  · exact h

theorem inv_cbadv {n i : Nat} {tail : Bool} {x : Ctx} {s : State} (h : Inv s) : Inv (cbadv n tail i x s).state := by
  unfold cbadv
  split
  · exact h
  split
  · exact h
  extract_lets h1 s1 s2 s3
  have h11 : Inv s1 := inv_setHandle h
  rename_i s4 s5
  have h4 : Inv s4 := by
    unfold s4
    split
    · split
      exact inv_modMem (reveal_wf h11)
    · exact h11
  exact inv_value (inv_testArmed (inv_ite (inv_post h4) h4))

theorem inv_unhalt {s : State} {u : Nat} (h : Inv s) : Inv (s.unhalt u) := inv_ite (inv_modUnit h) h

theorem inv_absorbUpdate {n : Nat} {s : State} (h : Inv s) : Inv (absorbUpdate n s) := by
  unfold absorbUpdate
  split
  · exact h
  split
  · exact h
  split
  · exact h
  split
  · exact h
  · exact inv_testArmed (inv_setHandle (inv_unhalt (inv_modNet h)))

theorem inv_flushNibble {s : State} {k : Nat} {b : Binding} (h : Inv s) : (s.flushNibble k b).Upholds := by
  unfold State.flushNibble
  split
  · extract_lets areg
    split
    rename_i s1 e
    have h1 : Inv s1 := (inv_streamStale h).snd e
    split
    · rename_i s2 e1
      have h2 : Inv s2 := (inv_locateVa h1).snd e1
      split
      · exact (inv_elemCode h2).bad ‹_›
      · exact inv_storeLoc ((inv_elemCode h2).ok ‹_›)
    · exact inv_failLoc_getD ((inv_locateVa h1).snd ‹_›)
  · exact h

theorem inv_endBinding {s : State} {k : Nat} {old : Option Binding} (h : Inv s) : (s.endBinding k old).Upholds := by
  unfold State.endBinding
  split
  · exact h
  split
  · rename_i s1 _ _ e
    have h1 : Inv s1 := (inv_flushNibble h).bad e
    exact inv_deferTrap h1
  · exact inv_flushNibble h

theorem inv_sbind {clr raw out : Bool} {size space port : Nat} {x : Ctx} {g : Args} {s : State} (h : Inv s) :
    Inv (sbind clr raw size space out port x g s).state := by
  unfold sbind
  extract_lets key seamed a
  split
  · exact h
  refine inv_checked (every_ite every_none (inv_readTrap h)) ?_
  split
  · exact (inv_endBinding h).bad ‹_›
  rename_i s1 e
  have h1 : Inv s1 := (inv_endBinding h).ok e
  split
  · exact inv_value (inv_modRun h1)
  split
  exact inv_value (inv_modRun ((inv_loadBytes h1).snd ‹_›))

theorem inv_readElement {k : Nat} {b : Binding} {s : State} (h : Inv s) : Inv (readElement k b s).2.2 := by
  unfold readElement
  extract_lets areg a bad
  have hbad : ∀ (f : Fire), Inv f.state → Inv (bad f).2.2 := by
    intro f h1
    unfold bad
    split
    · exact h1
    · exact h1
    · exact h
  split
  rename_i s1 e
  have h1 : Inv s1 := (inv_streamStale h).snd e
  split
  · rename_i s2 e1
    have h2 : Inv s2 := (inv_locateScalar h1).snd e1
    split
    · exact hbad _ ((inv_sizeTrap h2).some ‹_›)
    split
    · split
      · exact hbad _ ((inv_readLoc h2).bad ‹_›)
      · exact (inv_readLoc h2).ok ‹_›
    · split
      · exact hbad _ ((inv_readElem h2).bad ‹_›)
      rename_i s3 e2
      have h3 : Inv s3 := (inv_readElem h2).ok e2
      split
      · exact h3
      split
      · exact hbad _ ((inv_readElem h3).bad ‹_›)
      · exact (inv_readElem h3).ok ‹_›
  · rename_i s2 e1
    have h2 : Inv s2 := (inv_locateScalar h1).snd e1
    split
    · exact hbad _ ((inv_readLoc h2).bad ‹_›)
    · exact (inv_readLoc h2).ok ‹_›
  all_goals exact (inv_locateScalar h1).snd ‹_›

theorem inv_streamPage {s : State} {k region page : Nat} {t : Stroke} (h : Inv s) : Inv (s.streamPage k t region page) :=
  inv_ite (inv_pageWait h) (inv_requestPage h)

theorem inv_streamReadAhead {k port : Nat} {s : State} (h : Inv s) : Inv (streamReadAhead k port s) := by
  unfold streamReadAhead
  split
  · exact h
  split
  · exact h
  split
  · exact h
  split
  rename_i s1 e
  have h1 : Inv s1 := (inv_readElement h).third e
  split
  · exact inv_streamPage h1
  · exact inv_ite h1 (inv_modRun h1)

theorem inv_storeElement {k : Nat} {b : Binding} {tok : Token} {s : State} (h : Inv s) : (storeElement k b tok s).Upholds := by
  unfold storeElement
  extract_lets areg a b1 next
  split
  · exact h
  split
  · exact h
  split
  rename_i s1 e
  have h1 : Inv s1 := (inv_streamStale h).snd e
  split
  · rename_i s2 e1
    have h2 : Inv s2 := (inv_locateScalar h1).snd e1
    split
    · exact (inv_sizeTrap h2).some ‹_›
    split
    · exact h2
    split
    · split
      · exact h2
      extract_lets code
      have hcode : ∀ (t : Token) (high : Bool) (s : State), Inv s → (code t high s).Upholds := by
        intro t1 high s3 h3
        unfold code
        split
        · exact inv_elemCode h3
        · exact h3
      split
      · exact (hcode _ _ _ h2).bad ‹_›
      rename_i s3 e2
      have h3 : Inv s3 := (hcode _ _ _ h2).ok e2
      split
      · exact (hcode _ _ _ h3).bad ‹_›
      rename_i s4 e3
      have h4 : Inv s4 := (hcode _ _ _ h3).ok e3
      extract_lets old v1
      split
      · exact (inv_storeLoc h4).bad ‹_›
      · exact (inv_storeLoc h4).ok ‹_›
    · split
      · exact h2
      extract_lets c1
      have hc1 : c1.Upholds := by
        unfold c1
        split
        · exact h2
        split
        · exact (inv_elemCode h2).bad ‹_›
        · exact (inv_elemCode h2).ok ‹_›
      clear_value c1
      split
      · exact hc1
      split
      · exact (inv_storeLoc hc1).bad ‹_›
      · exact (inv_storeLoc hc1).ok ‹_›
  · rename_i s2 e1
    have h2 : Inv s2 := (inv_locateScalar h1).snd e1
    split
    · exact h2
    split
    · exact (inv_storeLoc h2).bad ‹_›
    · exact (inv_storeLoc h2).ok ‹_›
  · exact inv_failLoc_getD ((inv_locateScalar h1).snd ‹_›)

theorem inv_streamOutStore {k port : Nat} {s : State} (h : Inv s) : Inv (streamOutStore k port s) := by
  unfold streamOutStore
  split
  · exact h
  split
  · exact h
  split
  · exact h
  extract_lets setB
  have hsetB : ∀ (b : Binding) (s : State), Inv s → Inv (setB b s) := by
    intro b1 s1 h1
    unfold setB
    exact inv_modRun h1
  split
  · rename_i s1 e
    have h1 : Inv s1 := by
      refine Acc.Upholds.ok ?_ e
      split
      · exact h
      · exact inv_storeElement h
    exact hsetB _ _ h1
  · rename_i s1 _ _ e
    have h1 : Inv s1 := by
      refine Acc.Upholds.bad ?_ e
      split
      · exact h
      · exact inv_storeElement h
    exact inv_deferTrap (hsetB _ _ h1)
  · rename_i s1 _ _ e
    have h1 : Inv s1 := by
      refine Acc.Upholds.bad ?_ e
      split
      · exact h
      · exact inv_storeElement h
    exact inv_streamPage h1
  · exact h

end Sys2Proof.Machine
end

section
/-! Machine/Phases.lean keeps the form of memory: phase boundaries, fences and publication. -/
namespace Sys2Proof.Machine

theorem inv_beginPhase {s : State} {k : Nat} (h : Inv s) : Inv (s.beginPhase k) := inv_modRun h

theorem inv_phase {sc : Nat} {x : Ctx} {s : State} (h : Inv s) : Inv (phase sc x s).state := by
  unfold phase
  split
  · exact h
  · exact inv_owed (inv_modRun h)

theorem inv_flushNibbles {k : Nat} {x : Table Binding} {s : State} (h : Inv s) : Inv (flushNibbles k x s) := by
  induction x generalizing k s with
  | nil => exact h
  | cons e x ih =>
    unfold flushNibbles
    extract_lets s1
    rename_i clear1 s2
    have hclear1 : ∀ (s : State), Inv s → Inv (clear1 s) := by
      intro s3 h1
      unfold clear1
      exact inv_modRun h1
    have h2 : Inv s2 := by
      unfold s2
      split
      · exact h
      split
      · exact hclear1 _ ((inv_flushNibble h).ok ‹_›)
      · rename_i s3 _ _ e1
        have h3 : Inv s3 := (inv_flushNibble h).bad e1
        exact inv_deferTrap (hclear1 _ h3)
      · rename_i s3 _ _ e1
        have h3 : Inv s3 := (inv_flushNibble h).bad e1
        split
        · exact inv_streamPage h3
        · exact h3
      · exact h
    exact ih h2

theorem inv_countMarks {s : State} {k : Nat} (h : Inv s) : Inv (s.countMarks k) := inv_modSvc h

theorem inv_countFolio {s : State} {k sc : Nat} (h : Inv s) : Inv (s.countFolio k sc) := by
  unfold State.countFolio
  split
  · exact inv_ite h (inv_modFolio h)
  · exact h

theorem inv_passFirst {s : State} {k : Nat} {b : Boundary} {rest : List Boundary} (h : Inv s) : Inv (s.passFirst k b rest) := by
  unfold State.passFirst
  extract_lets upto s1 s2
  have h2 : Inv s2 := inv_modStroke (inv_countFolio (inv_countMarks (inv_modMem (passBoundary_wf _ _ _ h))))
  rename_i s3
  have h3 : Inv s3 := by
    unfold s3
    split
    · exact inv_modFolio h2
    · exact h2
  split
  · exact inv_pushReply h2
  · exact inv_pushReply h3
  split
  · exact inv_endStroke h2
  · exact h2

theorem inv_phaseBoundaryComplete {k : Nat} {s : State} (h : Inv s) : Inv (phaseBoundaryComplete k s) := by
  unfold phaseBoundaryComplete
  split
  · exact h
  split
  · exact h
  split
  · exact h
  split
  · exact inv_passFirst h
  split
  · exact h
  extract_lets s1
  have h1 : Inv s1 := inv_flushNibbles h
  exact inv_ite h1 (inv_passFirst h1)

theorem inv_exchange {s : State} {region : Nat} {leaves : List Leaf} (h : Inv s) : Inv (s.exchange region leaves) := by
  unfold State.exchange
  refine inv_foldl (fun _ _ h1 => ?_) h
  exact inv_writeLeaf h1

theorem inv_forget {s : State} {hit : Nat → Nat → Nat → Bool} (h : Inv s) : Inv (s.forget hit) := inv_modEng (inv_modMem h)

theorem inv_withdrawUnsent {s : State} {hit : Nat → Nat → Nat → Bool} (h : Inv s) : Inv (s.withdrawUnsent hit) :=
  inv_modNet (inv_foldl (fun _ _ h1 => inv_ite (inv_unsend h1) h1) h)

theorem inv_invalidate {s : State} {hit : Nat → Nat → Nat → Bool} (h : Inv s) : Inv (s.invalidate hit) :=
  inv_forget (inv_drainMoves (inv_withdrawUnsent h))

theorem inv_publish {ax : Bool} {x : Ctx} {g : Args} {s : State} (h : Inv s) : Inv (publish ax x g s).state := by
  unfold publish
  extract_lets a n region
  split
  · exact h
  split
  · exact h
  split
  · exact h
  · exact h
  split
  · exact h
  · exact inv_value (inv_invalidate (inv_exchange h))

theorem inv_phaseovf {k slot : Nat} {s : State} (h : Inv s) : Inv (phaseovf k slot s) := by
  unfold phaseovf
  split
  · split
    · exact inv_takeTrap h
    · exact h
  · split
    · split
      · exact inv_deferTrap (inv_modRun h)
      · exact h
    · exact h

end Sys2Proof.Machine
end

section
/-! Machine/Channels.lean keeps the form of memory: words, handlers, barriers and places. -/
namespace Sys2Proof.Machine

theorem inv_sendWord {s : State} {sender : Sender} {round w : Nat} {gate : Option (Nat × Nat)} {v : Word} (h : Inv s) :
    Inv (s.sendWord sender round gate w v) := by
  unfold State.sendWord
  extract_lets s1
  have h1 : Inv s1 := by
    unfold s1
    split
    · exact inv_strokeBeat h
    · exact inv_strokeBeat h
    · exact h
  exact inv_modNet h1

theorem inv_reportUnbound {s : State} {place : Nat} (h : Inv s) : Inv (s.reportUnbound place) := by
  unfold State.reportUnbound
  extract_lets u
  rename_i s1
  have h1 : Inv s1 := inv_modUnit h
  exact inv_ite h (inv_post h1)

theorem inv_delivered {s : State} {w : NetWord} (h : Inv s) : Inv (s.delivered w) := by
  unfold State.delivered
  split
  · exact inv_pushReply h
  · split
    · exact h
    · exact inv_ite (inv_pushReply (inv_modNet h)) (inv_modNet h)
  · split
    · exact h
    · exact inv_pushReply (inv_modSvc h)
  · exact h

theorem inv_enterInbox {s : State} {w : NetWord} (h : Inv s) : Inv (s.enterInbox w) := by
  unfold State.enterInbox
  extract_lets u ch s1 s2
  have h1 : Inv s1 := inv_modUnit h
  exact inv_delivered (inv_ite (inv_reportUnbound h1) h1)

theorem inv_dropWord {n : Nat} {s : State} (h : Inv s) : Inv (dropWord n s) := inv_modNet h

theorem inv_leaveWord {s : State} {n : Nat} {w : NetWord} (h : Inv s) : Inv (s.leaveWord n w) := inv_sendPeer (inv_dropWord h)

theorem inv_arriveWord {n : Nat} {s : State} (h : Inv s) : Inv (arriveWord n s) := by
  unfold arriveWord
  split
  · exact h
  split
  · exact h
  split
  · split
    · split
      · exact inv_modNet (inv_modPlat h)
      · exact h
    · exact inv_ite (inv_delivered (inv_dropWord h)) (inv_ite (inv_leaveWord h) (inv_ite (inv_modNet h) (inv_enterInbox (inv_dropWord h))))
  · exact inv_ite (inv_leaveWord h) (inv_ite (inv_modNet h) (inv_enterInbox (inv_dropWord h)))

theorem inv_postArrivals {s : State} {hit : Nat → Nat → Bool} (h : Inv s) : Inv (s.postArrivals hit) := by
  unfold State.postArrivals
  refine inv_foldl (fun _ _ h1 => ?_) h
  split
  · exact inv_ite h1 (inv_ite (inv_modRun h1) (inv_post h1))
  · exact h1

theorem inv_pageArrivalAbsorb {n : Nat} {s : State} (h : Inv s) : Inv (pageArrivalAbsorb n s) := by
  unfold pageArrivalAbsorb
  split
  · exact h
  split
  · exact h
  extract_lets s1
  have h1 : Inv s1 := inv_unhalt (inv_dropWord h)
  split
  · exact h1
  split
  · exact inv_ite (inv_modRun h1) h1
  · exact h1

theorem inv_hset {x : Ctx} {g : Args} {s : State} (h : Inv s) : Inv (hset x g s).state := by
  unfold hset
  extract_lets b ch
  split
  · exact h
  split
  · exact h
  split
  · exact h
  · exact inv_value (inv_modUnit h)

theorem inv_hmask {m : Bool} {x : Ctx} {g : Args} {s : State} (h : Inv s) : Inv (hmask m x g s).state := by
  unfold hmask
  extract_lets a d
  split
  · exact h
  · exact inv_value (inv_modUnit h)

theorem inv_hclr {discard : Bool} {x : Ctx} {g : Args} {s : State} (h : Inv s) : Inv (hclr discard x g s).state := by
  unfold hclr
  extract_lets ch
  rename_i s1
  have h1 : Inv s1 := inv_modUnit h
  split
  · exact h
  split
  · exact h
  · exact inv_value (inv_ite h1 (inv_reportUnbound h1))

theorem inv_windowWords {s : State} {k base n : Nat} (h : Inv s) : Inv (s.windowWords k base n).2 := by
  induction n generalizing s k base with
  | zero => exact h
  | succ n ih => exact ih (inv_load h)

theorem inv_chmcast {x : Ctx} {g : Args} {s : State} (h : Inv s) : Inv (chmcast x g s).state := by
  unfold chmcast
  extract_lets b
  split
  · exact h
  split
  · exact h
  refine inv_checked (inv_readTrap h) ?_
  split
  rename_i s1 e
  have h1 : Inv s1 := (inv_load h).snd e
  split
  · exact h1
  split
  · exact h1
  refine inv_checked (inv_readTrap h1) ?_
  split
  rename_i s2 e1
  have h2 : Inv s2 := (inv_windowWords h1).snd e1
  split
  · exact h2
  · exact inv_owed (inv_modNet (inv_strokeBeat h2))

theorem inv_mcastReplicate {n : Nat} {s : State} (h : Inv s) : Inv (mcastReplicate n s) := by
  unfold mcastReplicate
  split
  · exact h
  split
  · exact h
  · exact inv_foldl (fun _ _ => inv_sendWord) (inv_modNet h)

theorem inv_inrd {cur try_ : Bool} {x : Ctx} {g : Args} {s : State} (h : Inv s) : Inv (inrd cur try_ x g s).state := by
  unfold inrd
  extract_lets ch
  split
  · exact h
  split
  · split
    · exact inv_value (inv_modUnit h)
    split
    · exact inv_result h
    · exact h
  · split
    · exact inv_result h
    · exact h

theorem inv_arrive {b : Nat} {wake : Option Nat} {x : Ctx} {s : State} (h : Inv s) : Inv (arrive b wake x s).state := by
  unfold arrive
  split
  · exact h
  split
  · exact h
  split
  · exact h
  split
  · exact h
  split
  · exact h
  · exact inv_owed (inv_modRun (inv_modFolio h))

theorem inv_wakeAt {s : State} {place : Nat} {w : Word} (h : Inv s) : Inv (s.wakeAt place w) := inv_post h

theorem inv_wake {s : State} {k ch : Nat} {w : Word} (h : Inv s) : Inv (s.wake k ch w) := by
  unfold State.wake
  split
  · exact inv_post h
  · exact h

theorem inv_slewRelease {s : State} {f : Folio} (h : Inv s) : Inv (s.slewRelease f) := inv_ite h (inv_modPlat h)

theorem inv_barrierComplete {folio b : Nat} {s : State} (h : Inv s) : Inv (barrierComplete folio b s) := by
  unfold barrierComplete
  split
  · exact h
  split
  · exact h
  split
  · exact h
  · exact inv_slewRelease (inv_modFolio (inv_foldl (fun _ _ => inv_wakeAt) h))

end Sys2Proof.Machine
end

section
/-! Machine/Chains.lean keeps the form of memory: engine chains and watchers. -/
namespace Sys2Proof.Machine

theorem inv_setChain {s : State} {c : Nat} {x : Chain} (h : Inv s) : Inv (s.setChain c x) := inv_modEng h

theorem inv_newJob {job part region prio : Nat} {s : State} (h : Inv s) : Inv (newJob job part region prio s) := inv_ite h (inv_modEng h)

theorem inv_newChain {job kind slab engine chain region : Nat} {s : State} (h : Inv s) :
    Inv (newChain job kind slab engine chain region s) := by
  unfold newChain
  extract_lets w owner
  split
  · exact inv_ite h (inv_setChain h)
  · exact h

theorem inv_modChain {s : State} {c : Nat} {f : Chain → Chain} (h : Inv s) : Inv (s.modChain c f) := by
  unfold State.modChain
  split
  · exact inv_setChain h
  · exact h

theorem inv_touchAt {s : State} {slab part priv region off kind : Nat} (h : Inv s) : Inv (s.touchAt slab part priv region off kind) := by
  unfold State.touchAt
  split
  · exact inv_request (inv_touch h)
  · exact h

theorem inv_engWrite {s : State} {x : Chain} {priv region off : Nat} {bs : List Byte} (h : Inv s) :
    Eng.Every Inv (s.engWrite x priv region off bs) := by
  unfold State.engWrite
  split
  · trivial
  · trivial
  split
  · trivial
  · exact inv_request (inv_modMem (commitWrite_wf _ _ (inv_touch h)))

theorem inv_chainWait {s : State} {c region page : Nat} (h : Inv s) : Inv (s.chainWait c region page) := by
  unfold State.chainWait
  split
  · exact inv_requestPage (inv_countWalk (inv_setChain h))
  · exact h

theorem inv_append {s : State} {c addr region priv stroke : Nat} {x : Chain} (h : Inv s) : Inv (s.append c x addr region priv stroke) := by
  unfold State.append
  extract_lets n r
  have hr : Inv r.1 := by
    unfold r
    split
    · exact h
    split
    · exact (inv_engWrite h).ok ‹_›
    · exact inv_requestPage h
    · exact h
  clear_value r
  exact inv_setChain hr

theorem inv_writeLinks {x : Chain} {l : List ChainLink} {s : State} (h : Inv s) : Inv (writeLinks x l s).2 := by
  induction l generalizing x s with
  | nil => exact h
  | cons e l ih =>
    unfold writeLinks
    split
    · exact ih h
    · exact ih ((inv_engWrite h).ok ‹_›)
    · exact ih h

theorem inv_chapp {x : Ctx} {g : Args} {s : State} (h : Inv s) : Inv (chapp x g s).state := by
  unfold chapp
  extract_lets a
  split
  · exact h
  split
  · exact h
  split
  · exact h
  · exact inv_value (inv_append h)

theorem inv_enginePageRewalk {c : Nat} {s : State} (h : Inv s) : Inv (enginePageRewalk c s) := by
  unfold enginePageRewalk
  split
  · exact h
  split
  · exact h
  split
  exact inv_setChain ((inv_writeLinks h).snd ‹_›)

theorem inv_finishEntry {s : State} {c code : Nat} {x : Chain} {e : ChainEntry} (h : Inv s) : Inv (s.finishEntry c x e code) := by
  unfold State.finishEntry
  extract_lets done
  have hdone : ∀ (s : State), Inv s → Inv (done s) := by
    intro s1 h1
    unfold done
    exact inv_modChain h1
  split
  · exact hdone _ ((inv_engWrite h).ok ‹_›)
  · exact inv_chainWait h
  · exact hdone _ h

theorem inv_completionWrite {c : Nat} {s : State} (h : Inv s) : Inv (completionWrite c s) := by
  unfold completionWrite
  split
  · exact h
  split
  · exact h
  split
  · exact h
  extract_lets seq done
  have hdone : ∀ (s : State) (code : Nat), Inv s → Inv (done s code) := by
    intro s1 code h1
    unfold done
    extract_lets s2
    have h2 : Inv s2 := inv_modChain h1
    split
    · exact inv_post h2
    · exact h2
  split
  · exact hdone _ _ h
  split
  · exact hdone _ _ ((inv_engWrite h).ok ‹_›)
  · exact inv_chainWait h
  split
  · exact hdone _ _ ((inv_engWrite h).ok ‹_›)
  · exact inv_chainWait h
  · exact hdone _ _ h

theorem inv_takeHead {s : State} {c : Nat} {x : Chain} (h : Inv s) : (s.takeHead c x).Upholds := by
  unfold State.takeHead
  split
  · trivial
  split
  · trivial
  split
  · exact inv_setChain h
  · exact inv_chainWait h
  · exact inv_setChain (inv_touchAt h)

theorem inv_setEntry {s : State} {c : Nat} {e : ChainEntry} (h : Inv s) : Inv (s.setEntry c e) := inv_modChain h

theorem inv_seqAt {x : Ctx} {a : Nat} {s : State} (h : Inv s) : (seqAt x a s).Upholds := by
  unfold seqAt
  split
  · rename_i s1 e
    have h1 : Inv s1 := (inv_locateVa h).snd e
    split
    · exact (inv_readTrap h1).some ‹_›
    · exact inv_request h1
  · exact inv_failLoc_getD ((inv_locateVa h).snd ‹_›)

theorem inv_arm {s : State} {w : Watcher} (h : Inv s) : Inv (s.arm w) := inv_modEng h

theorem inv_seqwait {ch : Nat} {x : Ctx} {g : Args} {s : State} (h : Inv s) : Inv (seqwait ch x g s).state := by
  unfold seqwait
  extract_lets a
  split
  · exact h
  split
  · exact h
  split
  · exact (inv_seqAt h).bad ‹_›
  rename_i s1 e
  have h1 : Inv s1 := (inv_seqAt h).ok e
  split
  · exact inv_value h1
  · exact inv_value (inv_arm h1)

theorem inv_seqWatcherWake {n : Nat} {s : State} (h : Inv s) : Inv (seqWatcherWake n s) := by
  unfold seqWatcherWake
  split
  · exact h
  · exact inv_ite h (inv_wakeAt (inv_modEng h))

theorem inv_seqOverflowScan {slab : Nat} {s : State} (h : Inv s) : Inv (seqOverflowScan slab s) :=
  inv_foldl (fun _ _ => inv_wakeAt) (inv_modEng h)

end Sys2Proof.Machine
end

section
/-! Machine/Lane.lean keeps the form of memory: the lane pipe. -/
namespace Sys2Proof.Machine

theorem inv_lcfg {n : Nat} {x : Ctx} {g : Args} {s : State} (h : Inv s) : Inv (lcfg n x g s).state := by
  unfold lcfg
  extract_lets a
  split
  · exact h
  split
  · exact h
  · exact inv_value (inv_modUnit h)

theorem inv_lrun {n modifier : Nat} {x : Ctx} {g : Args} {s : State} (h : Inv s) : Inv (lrun n modifier x g s).state := by
  unfold lrun
  extract_lets a
  split
  · exact h
  split
  · exact h
  refine inv_checked (inv_readTrap h) ?_
  split
  rename_i s1 e
  have h1 : Inv s1 := (inv_windowWords h).snd e
  split
  · exact h
  split
  · exact h
  split
  · exact h
  · exact inv_value (inv_modUnit h1)

theorem inv_laneRunStart {u : Nat} {s : State} (h : Inv s) : Inv (laneRunStart u s) := by
  unfold laneRunStart
  split
  · exact h
  split
  · exact h
  split
  extract_lets q src
  have hsrc : Inv src := inv_modUnit h
  exact hsrc

theorem writeBeats_wf {m : Memory} {u off n : Nat} {l : List (List Word)} (h : m.wf = true) : (m.writeBeats u off n l).wf = true := by
  induction l generalizing m u off n with
  | nil => exact h
  | cons e l ih => exact ih (setFulls_wf (localWrite_wf _ _ _ h))

theorem inv_laneRunComplete {u : Nat} {s : State} (h : Inv s) : Inv (laneRunComplete u s) := by
  unfold laneRunComplete
  split
  · exact h
  extract_lets size
  rename_i s1 s2 _ _
  have h1 : Inv s1 := inv_modMem (writeBeats_wf h)
  have h2 : Inv s2 := inv_modUnit h1
  exact inv_ite h (inv_ite (inv_wake h2) h2)

end Sys2Proof.Machine
end

section
/-! Machine/Copy.lean keeps the form of memory: the copy engines. -/
namespace Sys2Proof.Machine

theorem inv_putAt {s : State} {d : CopyAt} {bs : List Byte} (h : Inv s) : Inv (s.putAt d bs) := by
  unfold State.putAt
  split
  · exact h
  refine inv_request (inv_modMem ?_)
  split
  · exact setFulls_wf (localWrite_wf _ _ _ h)
  · exact commitWrite_wf _ _ h

theorem inv_meter {s : State} {c : EngCtx} {space a pos : Nat} (h : Inv s) : Inv (s.meter c space a pos) := by
  unfold State.meter
  split
  · exact h
  split
  · exact inv_modPlat h
  · exact h

theorem inv_touchSide {s : State} {c : EngCtx} {d : CopyAt} (h : Inv s) : Inv (s.touchSide c d) := by
  unfold State.touchSide
  split
  · exact inv_touch h
  · exact h

theorem inv_readSide {s : State} {c : EngCtx} {d : CopyAt} (h : Inv s) : Inv (s.readSide c d) := inv_request (inv_touchSide h)

theorem inv_copyRaw {c : EngCtx} {e : ChainEntry} {i n : Nat} {s : State} (h : Inv s) : (copyRaw c e i n s).Upholds := by
  induction n generalizing c e i s with
  | zero => exact h
  | succ n ih =>
    unfold copyRaw
    split
    · exact h
    · exact h
    extract_lets a
    split
    · exact h
    · exact h
    · exact ih (inv_touchSide (inv_meter (inv_putAt (inv_readSide h))))

theorem Eng.Every.andThen {α β : Type} {P : β → Prop} {r : Eng α} {f : α → Eng β} (h : ∀ a, (f a).Every P) : (r.andThen f).Every P := by
  cases r with
  | ok a => exact h a
  | fault c => trivial
  | absent r p => trivial

theorem inv_copyElem {s : State} {c : EngCtx} {e : ChainEntry} {sn dn : Nat} (h : Inv s) :
    Eng.Every (fun t => Inv t.2.2) (s.copyElem c e sn dn) := by
  unfold State.copyElem
  exact .andThen fun _ => .andThen fun _ => .andThen fun _ => .andThen fun _ =>
    inv_touchSide (inv_meter (inv_putAt (inv_ite (inv_readSide h) (inv_touchSide h))))

theorem inv_copyElems {c : EngCtx} {e : ChainEntry} {n n1 n2 : Nat} {s : State} (h : Inv s) : (copyElems c e n n1 n2 s).1.Upholds := by
  induction n generalizing c e n1 n2 s with
  | zero => exact h
  | succ n ih =>
    unfold copyElems
    split
    · exact h
    split
    · exact h
    · exact h
    · exact ih ((inv_copyElem h).ok ‹_›)

theorem inv_copyRun {c : EngCtx} {e : ChainEntry} {s : State} (h : Inv s) : (copyRun c e s).1.Upholds := by
  unfold copyRun
  extract_lets len r
  split
  · exact inv_copyElems h
  · exact inv_copyRaw h

theorem inv_publishRange {s : State} {c : EngCtx} {a n : Nat} (h : Inv s) : Eng.Every (Every Inv) (s.publishRange c a n) := by
  unfold State.publishRange
  extract_lets lo count
  split
  · trivial
  · trivial
  split
  · trivial
  · exact inv_invalidate (inv_exchange h)

theorem inv_copyPartner {c : Nat} {e : ChainEntry} {s : State} (h : Inv s) : Inv (copyPartner c e s) := inv_ite (inv_post h) h

theorem inv_engineBeats {s : State} {x : Chain} {n : Nat} (h : Inv s) : Inv (s.engineBeats x n) := inv_beat h

theorem inv_copyEntry {c : Nat} {s : State} (h : Inv s) : Inv (copyEntry c s) := by
  unfold copyEntry
  split
  · exact h
  split
  · exact h
  extract_lets run
  have hrun : ∀ (s : State) (x : Chain) (e : ChainEntry), Inv s → Inv (run s x e) := by
    intro s1 x1 e h1
    unfold run
    split
    · exact h1
    split
    · exact inv_finishEntry h1
    extract_lets k
    split
    · exact inv_chainWait h1
    · exact inv_finishEntry h1
    · exact inv_finishEntry h1
    split
    · exact h1
    split
    · rename_i s2 _ e1
      have h2 : Inv s2 := (inv_copyRun h1).of_fst e1
      exact inv_finishEntry h2
    · rename_i s2 _ _ _ _ e1
      have h2 : Inv s2 := (inv_copyRun h1).of_fst e1
      exact inv_chainWait (inv_setEntry h2)
    · rename_i s2 _ e1
      have h2 : Inv s2 := (inv_copyRun h1).of_fst e1
      extract_lets s3 all s4
      have h4 : Inv s4 := inv_setEntry (inv_engineBeats h2)
      split
      · exact inv_finishEntry h4
      split
      · split
        · rename_i s5 e2
          have h5 : Inv s5 := (inv_publishRange h4).ok e2
          exact inv_copyPartner (inv_finishEntry h5)
        · exact inv_finishEntry h4
        · exact h4
      · exact inv_copyPartner (inv_finishEntry h4)
  split
  · exact hrun _ _ _ h
  split
  · exact h
  · exact (inv_takeHead h).wait ‹_›
  · exact hrun _ _ _ ((inv_takeHead h).entry ‹_›)

end Sys2Proof.Machine
end

section
/-! Machine/Matrix.lean keeps the form of memory: matrix entries, drains and masks. -/
namespace Sys2Proof.Machine

theorem inv_modMatrix {s : State} {u : Nat} {f : MatrixUnit → MatrixUnit} (h : Inv s) : Inv (s.modMatrix u f) := inv_modUnit h

theorem inv_setDesc {b : Bool} {n : Nat} {x : Ctx} {g : Args} {s : State} (h : Inv s) : Inv (setDesc b n x g s).state := by
  unfold setDesc
  split
  · exact h
  · exact inv_value (inv_modMatrix h)

theorem inv_slewAlone {s : State} {u : Nat} (h : Inv s) : Inv (s.slewAlone u) := inv_ite (inv_modPlat h) h

theorem inv_enqueue {op : MatrixOp} {x : Ctx} {s : State} (h : Inv s) : Inv (enqueue op x s).state := by
  unfold enqueue
  extract_lets m
  split
  · exact h
  · exact inv_owed (inv_modMatrix (inv_slewAlone h))

theorem inv_mma {i j : Nat} {sf : Bool} {x : Ctx} {g : Args} {s : State} (h : Inv s) : Inv (mma i j sf x g s).state := by
  unfold mma
  extract_lets a
  split
  · exact h
  split
  split
  extract_lets da db past
  split
  · exact h
  split
  · exact h
  · exact inv_enqueue h

theorem inv_accMove {op : Word → Nat → MatrixOp} {x : Ctx} {g : Args} {s : State} (h : Inv s) : Inv (accMove op x g s).state := by
  unfold accMove
  extract_lets a b
  split
  · exact h
  split
  · exact h
  split
  · exact h
  · exact inv_enqueue h

theorem inv_drain {x : Ctx} {g : Args} {s : State} (h : Inv s) : Inv (drain x g s).state := by
  unfold drain
  extract_lets a b off
  split
  · exact h
  split
  · exact h
  split
  extract_lets w1
  split
  · exact h
  split
  · split
    · exact h
    · exact inv_enqueue h
  · split
    · exact h
    · exact inv_enqueue h

theorem inv_tmload {x : Ctx} {g : Args} {s : State} (h : Inv s) : Inv (tmload x g s).state := by
  unfold tmload
  extract_lets a
  split
  · exact h
  split
  · exact h
  refine inv_checked (inv_readTrap h) ?_
  split
  rename_i s1 e
  have h1 : Inv s1 := (inv_windowWords h).snd e
  split
  · exact h
  · exact inv_enqueue h1

theorem setRows_wf {m : Memory} {u t r : Nat} {l : List (List Nat)} (h : m.wf = true) : (m.setRows u t r l).wf = true := by
  induction l generalizing m u t r with
  | nil => exact h
  | cons e l ih => exact ih (commitWrite_wf _ _ h)

theorem setTile_wf {m : Memory} {u t : Nat} {l : List Nat} (h : m.wf = true) : (m.setTile u t l).wf = true := setRows_wf h

theorem writeRows_wf {m : Memory} {key pitch : Nat} {l : List (List Byte)} (h : m.wf = true) : (m.writeRows key pitch l).wf = true := by
  induction l generalizing m key pitch with
  | nil => exact h
  | cons e l ih => exact ih (setFulls_wf (localWrite_wf _ _ _ h))

theorem matrixEffect_wf {s : State} {u : Nat} {e : MatrixEntry} (h : Inv s) : (s.matrixEffect u e).1.wf = true := by
  unfold State.matrixEffect
  extract_lets m
  have hm : m.wf = true := h
  split
  · exact setTile_wf hm
  · exact commitWrite_wf _ _ hm
  · exact wf_foldl (fun _ _ h1 => wf_ite (setTile_wf h1) h1) hm
  · exact writeRows_wf hm
  · exact setTile_wf hm
  · extract_lets w f t l out m1
    have hm1 : m1.wf = true := writeRows_wf hm
    exact wf_ite (setTile_wf hm1) hm1
  · exact hm

theorem kldMarks_wf {u : Nat} {e : MatrixEntry} {m new : Memory} (h1 : new.wf = true) : (kldMarks u e m new).wf = true := by
  unfold kldMarks
  split
  · exact wf_foldl (fun _ _ h2 => wf_ite (poisonFrom_wf h2) h2) h1
  · exact h1

theorem inv_matrixEntryExecute {u : Nat} {s : State} (h : Inv s) : Inv (matrixEntryExecute u s) := by
  unfold matrixEntryExecute
  extract_lets x
  split
  · exact h
  split
  · exact h
  split
  exact inv_modMatrix (inv_modMem (kldMarks_wf (fst_wf (matrixEffect_wf h) ‹_›)))

theorem inv_matrixEntryComplete {u : Nat} {s : State} (h : Inv s) : Inv (matrixEntryComplete u s) := by
  unfold matrixEntryComplete
  split
  · exact h
  split
  · exact h
  · exact inv_pushReply (inv_modUnit h)

end Sys2Proof.Machine
end

section
/-! Machine/Selector.lean keeps the form of memory: selection, aging, round markers and edges. -/
namespace Sys2Proof.Machine

theorem inv_reissueWashes {s : State} {k : Nat} (h : Inv s) : Inv (s.reissueWashes k) := inv_modSvc h

theorem inv_place {s : State} {u r : Nat} {c : Candidate} (h : Inv s) : Inv (s.place u r c) := by
  unfold State.place
  extract_lets s1
  have h1 : Inv s1 := inv_reissueWashes (inv_modUnit h)
  split
  · exact inv_modStroke h1
  · exact inv_modRun h1

theorem inv_selector {u : Nat} {s : State} (h : Inv s) : Inv (selector u s) := by
  unfold selector
  split
  · exact h
  split
  · exact h
  split
  · exact h
  · exact inv_place h

theorem inv_handlerAging {k ch : Nat} {s : State} (h : Inv s) : Inv (handlerAging k ch s) := inv_ite (inv_modRun h) h

theorem inv_withdrawCalls {s : State} {k : Nat} (h : Inv s) : Inv (s.withdrawCalls k) :=
  inv_modSvc (inv_foldl (fun _ _ h2 => inv_ite (inv_unsend h2) h2) (inv_foldl (fun _ _ => inv_unsend) h))

theorem inv_withdrawStalled {s : State} {k : Nat} (h : Inv s) : Inv (s.withdrawStalled k) := by
  unfold State.withdrawStalled
  split
  · exact h
  refine inv_foldl (fun _ _ h1 => ?_) h
  split
  · exact h1
  extract_lets s2 s3
  have h2 : Inv s2 := inv_modNet h1
  exact inv_unsend (inv_ite (inv_modSlot (inv_setResume h2)) h2)

theorem inv_withdrawWaits {s : State} {k : Nat} (h : Inv s) : Inv (s.withdrawWaits k) :=
  inv_modSvc (inv_modMem (inv_withdrawStalled (inv_withdrawCalls h)))

theorem inv_forcedYield {k : Nat} {s : State} (h : Inv s) : Inv (forcedYield k s) := by
  unfold forcedYield
  split
  · exact h
  extract_lets u
  split
  · exact h
  split
  · exact inv_ite (inv_modRun (inv_withdrawWaits h)) (inv_modRun h)
  · exact inv_modRun h

theorem inv_pushMarkers {s : State} {n : Nat} (h : Inv s) : Inv (s.pushMarkers n) := by
  unfold State.pushMarkers
  extract_lets s1
  have h1 : Inv s1 := inv_modEng h
  exact h1

theorem inv_roundMarkerIssue {s : State} (h : Inv s) : Inv (roundMarkerIssue s) := by
  unfold roundMarkerIssue
  split
  · extract_lets s1
    have h1 : Inv s1 := inv_pushMarkers h
    exact h1
  · exact h

theorem inv_withdrawAdds {s : State} {k : Nat} (h : Inv s) : Inv (s.withdrawAdds k) :=
  inv_modNet (inv_foldl (fun _ _ h1 => inv_ite (inv_unsend h1) h1) h)

theorem inv_withdrawActs {s : State} {k : Nat} (h : Inv s) : Inv (s.withdrawActs k) := inv_modSvc (inv_foldl (fun _ _ => inv_unsend) h)

theorem inv_freezeStroke {s : State} {k : Nat} (h : Inv s) : Inv (s.freezeStroke k) :=
  inv_modRun (inv_withdrawActs (inv_withdrawAdds (inv_withdrawWaits h)))

theorem inv_passEdge {s : State} {u r n : Nat} (h : Inv s) : Inv (s.passEdge u r n) := by
  unfold State.passEdge
  extract_lets s1
  have h1 : Inv s1 := inv_modUnit h
  split
  · exact inv_ite (inv_freezeStroke h1) h1
  · exact h1

theorem inv_regionRoundEdge {u r : Nat} {s : State} (h : Inv s) : Inv (regionRoundEdge u r s) := by
  unfold regionRoundEdge
  extract_lets n
  rename_i s1
  have h1 : Inv s1 := inv_writeLog h
  exact inv_ite h (inv_ite h1 (inv_passEdge h1))

end Sys2Proof.Machine
end

section
/-! Machine/Swap.lean keeps the form of memory: the session swap engines. -/
namespace Sys2Proof.Machine

theorem inv_queuePut {s : State} {slab q i n place : Nat} {bs : List Byte} (h : Inv s) : Inv (s.queuePut slab q i n place bs) :=
  inv_modMem (commitWrite_wf _ _ h)

theorem inv_issueCmd {s : State} {c op nsid : Nat} {x : Chain} {cmd : SwapCmd} (h : Inv s) : Inv (s.issueCmd c x op nsid cmd) :=
  inv_modEng (inv_queuePut h)

theorem inv_completeCmd {s : State} {c n : Nat} {x : Chain} {ok : Bool} (h : Inv s) : Inv (s.completeCmd c x n ok) := by
  unfold State.completeCmd
  extract_lets l
  split
  · exact h
  · exact inv_modEng (inv_queuePut h)

theorem inv_dropCmds {s : State} {c : Nat} (h : Inv s) : Inv (s.dropCmds c) := inv_modEng h

theorem inv_drawBytes {s : State} {n : Nat} (h : Inv s) : Inv (s.drawBytes n).2 := by
  induction n generalizing s with
  | zero => exact h
  | succ n ih => exact ih (inv_drawWord h)

theorem inv_swapImage {s : State} {fmt : Nat} {page : List Byte} (h : Inv s) : Inv (s.swapImage fmt page).2 := by
  unfold State.swapImage
  split
  · exact h
  extract_lets gs body
  split
  rename_i s1 e
  have h1 : Inv s1 := (inv_drawBytes h).snd e
  split
  exact (inv_drawBytes h1).snd ‹_›

theorem inv_nextWrite {s : State} {k : EngCtx} {x : Chain} {e : ChainEntry} {l : List SwapCmd} (h : Inv s) :
    (s.nextWrite k x e l).Upholds := by
  unfold State.nextWrite
  extract_lets i q
  split
  · trivial
  split
  · trivial
  split
  · trivial
  · trivial
  split
  · trivial
  split
  exact (inv_swapImage h).snd ‹_›

theorem inv_nextRead {s : State} {k : EngCtx} {x : Chain} {e : ChainEntry} {l : List SwapCmd} (h : Inv s) :
    (s.nextRead k x e l).Upholds := by
  unfold State.nextRead
  extract_lets i q
  split
  · trivial
  split
  · trivial
  · exact h

theorem inv_swapWritten {x : Chain} {e : ChainEntry} {cmd : SwapCmd} {s : State} (h : Inv s) : Inv (swapWritten x e cmd s) :=
  inv_modMem (setBytes_wf _ _ h)

theorem inv_swapRead {k : EngCtx} {x : Chain} {e : ChainEntry} {cmd : SwapCmd} {s : State} (h : Inv s) :
    Every Inv (swapRead k x e cmd s) := by
  unfold swapRead
  split
  · trivial
  extract_lets p
  split
  · trivial
  · exact inv_modMem (commitWrite_wf _ _ h)

theorem inv_evictPages {s : State} {c : EngCtx} {a : Nat} {l : List Nat} (h : Inv s) : Inv (s.evictPages c a l) := by
  induction l generalizing s c a with
  | nil => exact h
  | cons e l ih =>
    unfold State.evictPages
    extract_lets s1
    have h1 : Inv s1 := by
      unfold s1
      split
      · exact inv_ite (inv_writeLeaf h) h
      · exact h
    exact ih h1

theorem inv_arrivals {s : State} {region page n : Nat} (h : Inv s) : Inv (s.arrivals region page n) := by
  induction n generalizing s region page with
  | zero => exact h
  | succ n ih => exact ih (inv_postArrivals h)

theorem inv_swapDone {op : Nat} {k : EngCtx} {x : Chain} {e : ChainEntry} {cmd : SwapCmd} {s : State} (h : Inv s) :
    Every Inv (swapDone op k x e cmd s) := by
  unfold swapDone
  split
  · exact inv_swapWritten h
  · exact inv_swapRead h

theorem inv_swapEnd {op c : Nat} {x : Chain} {e : ChainEntry} {s : State} (h : Inv s) : Inv (swapEnd op c x e s) := by
  unfold swapEnd
  extract_lets k n a
  rename_i s1
  have h1 : Inv s1 := inv_dropCmds (inv_finishEntry h)
  split
  · exact h
  split
  · exact inv_finishEntry h
  split
  · exact inv_ite (inv_invalidate (inv_evictPages h1)) h1
  split
  · exact inv_arrivals (inv_engineBeats (inv_dropCmds (inv_finishEntry (inv_invalidate (inv_exchange h)))))
  · exact inv_dropCmds (inv_finishEntry h)

theorem inv_swapStatus {op c cmd : Nat} {ok : Bool} {k : EngCtx} {x : Chain} {e : ChainEntry} {l : List SwapCmd} {s : State} (h : Inv s) :
    Inv (swapStatus op c cmd ok k x e l s) := by
  unfold swapStatus
  split
  · exact h
  split
  · exact h
  split
  · exact inv_completeCmd h
  split
  · exact inv_completeCmd ((inv_swapDone h).some ‹_›)
  · exact inv_completeCmd h

theorem inv_swapRun {op c cmd : Nat} {ok : Bool} {x : Chain} {e : ChainEntry} {s : State} (h : Inv s) :
    Inv (swapRun op c cmd ok x e s) := by
  unfold swapRun
  extract_lets k l failed idle
  split
  · rename_i s1 _ e1
    have h1 : Inv s1 := by
      refine Issue.Upholds.cmd ?_ e1
      split
      · trivial
      split
      · exact inv_nextWrite h
      · exact inv_nextRead h
    exact inv_engineBeats (inv_issueCmd h1)
  · exact inv_ite (inv_chainWait h) (inv_swapStatus h)
  · exact inv_ite (inv_dropCmds (inv_finishEntry h)) (inv_swapStatus h)
  · exact inv_ite (inv_swapStatus h) (inv_ite (inv_dropCmds (inv_finishEntry h)) (inv_swapEnd h))

theorem inv_swapEntry {op c cmd : Nat} {ok : Bool} {s : State} (h : Inv s) : Inv (swapEntry op c cmd ok s) := by
  unfold swapEntry
  split
  · exact h
  split
  · exact h
  extract_lets go
  have hgo : ∀ (s : State) (x : Chain) (e : ChainEntry), Inv s → Inv (go s x e) := by
    intro s1 x1 e h1
    unfold go
    exact inv_ite h1 (inv_ite (inv_finishEntry h1) (inv_ite h1 (inv_swapRun h1)))
  split
  · exact hgo _ _ _ h
  split
  · exact h
  · exact (inv_takeHead h).wait ‹_›
  · exact hgo _ _ _ ((inv_takeHead h).entry ‹_›)

theorem inv_swapOut {c : Nat} {done : Nat × Bool} {s : State} (h : Inv s) : Inv (swapOut c done s) := inv_swapEntry h

theorem inv_swapIn {c : Nat} {done : Nat × Bool} {s : State} (h : Inv s) : Inv (swapIn c done s) := inv_swapEntry h

end Sys2Proof.Machine
end

section
/-! Machine/System.lean keeps the form of memory: system registers, traps and invalidation. -/
namespace Sys2Proof.Machine

theorem inv_systemCsr {s : State} {code slab index : Nat} (h : Inv s) : Inv (s.systemCsr code slab index).2 := by
  unfold State.systemCsr
  split
  · exact inv_ite_snd (inv_drawWord h) h
  all_goals exact h

theorem inv_csrr {x : Ctx} {g : Args} {s : State} (h : Inv s) : Inv (csrr x g s).state := by
  unfold csrr
  split
  · exact h
  split
  · exact h
  split
  · exact inv_value h
  · exact inv_value h
  split
  exact inv_value ((inv_systemCsr h).snd ‹_›)

theorem inv_csrSwap {s : State} {code slab index v : Nat} (h : Inv s) : (s.csrSwap code slab index v).Upholds := inv_csrPut h

theorem inv_ownWrite {index v : Nat} {s : State} (h : Inv s) : (ownWrite index v s).Upholds := by
  unfold ownWrite
  extract_lets bad old s1
  have h1 : Inv s1 := inv_csrPut h
  rename_i s2
  have h2 : Inv s2 := by
    unfold s2
    clear_value old
    split
    · exact inv_ite h1 (inv_modNet h1)
    · exact h1
  split
  · trivial
  split
  · trivial
  · exact h2

theorem inv_shareWrite {slab well v : Nat} {s : State} (h : Inv s) : (shareWrite slab well v s).Upholds := by
  unfold shareWrite
  extract_lets pend
  split
  · trivial
  split
  · trivial
  · exact inv_csrSwap h

theorem inv_smpctxWrite {slab index v : Nat} {s : State} (h : Inv s) : (smpctxWrite slab index v s).Upholds := by
  unfold smpctxWrite
  extract_lets key zero
  have hzero : ∀ (s : State), Inv s → Inv (zero s) := by
    intro s1 h1
    unfold zero
    exact inv_modMem (heal_wf (filter_wf _ h1))
  exact inv_csrSwap (inv_ite (hzero _ h) h)

theorem inv_jobkillWrite {job : Nat} {s : State} (h : Inv s) : (jobkillWrite job s).Upholds := inv_modEng h

theorem inv_nibpartWrite {slab n v : Nat} {s : State} (h : Inv s) : (nibpartWrite slab n v s).Upholds := by
  unfold nibpartWrite
  extract_lets u
  split
  · trivial
  · exact inv_csrSwap h

theorem inv_keyslotWrite {slot v : Nat} {s : State} (h : Inv s) : (keyslotWrite slot v s).Upholds := by
  unfold keyslotWrite
  extract_lets old
  rename_i s1 s2
  have h1 : Inv s1 := inv_foldl (fun _ _ h1 => inv_csrPut (inv_csrPut h1)) h
  have h2 : Inv s2 := inv_foldl (fun _ _ => inv_csrPut) h
  split
  · exact inv_csrPut h1
  · exact inv_csrPut h2

theorem inv_roletabWrite {slab n v : Nat} {s : State} (h : Inv s) : (roletabWrite slab n v s).Upholds := by
  unfold roletabWrite
  extract_lets u
  rename_i s1
  have h1 : Inv s1 := inv_ite (inv_ite (inv_modUnit h) h) (inv_modPlat (inv_modUnit h))
  split
  · trivial
  · exact inv_csrSwap h1

theorem inv_roundWrite {s : State} (h : Inv s) : (roundWrite s).Upholds := h

theorem inv_csrWrite {s : State} {code slab index : Nat} {val : Word} (h : Inv s) : (s.csrWrite code slab index val).Upholds := by
  fun_cases State.csrWrite
  case case1 => exact inv_roundWrite h
  case case2 => exact inv_ownWrite h
  case case3 => exact inv_shareWrite h
  case case6 => exact inv_smpctxWrite h
  case case7 => exact inv_jobkillWrite h
  case case8 => exact inv_nibpartWrite h
  case case11 => exact inv_csrPut h
  case case12 => exact inv_keyslotWrite h
  case case18 => exact inv_modMem h
  case case21 => exact inv_roletabWrite h
  case case23 => exact inv_csrSwap (inv_ite (inv_logTail h) h)
  case case4 | case9 | case13 | case14 | case16 | case19 | case22 | case24 => trivial
  all_goals exact inv_csrSwap h

theorem inv_writeNibCsr {s : State} {u code index : Nat} {v : Word} (h : Inv s) : Inv (s.writeNibCsr u code index v) := inv_modUnit h

theorem inv_csrw {x : Ctx} {g : Args} {s : State} (h : Inv s) : Inv (csrw x g s).state := by
  unfold csrw
  split
  · exact h
  extract_lets priv
  split
  · exact h
  split
  · exact h
  split
  · exact inv_value (inv_modInst h)
  · exact inv_value (inv_writeNibCsr h)
  split
  · exact h
  · exact h
  · exact inv_value ((inv_csrWrite h).ok ‹_›)

theorem inv_csrEvent {s : State} {code slab index : Nat} {val : Word} (h : Inv s) : Inv (s.csrEvent code slab index val) := by
  unfold State.csrEvent
  split
  · split
    · exact h
    split
    · exact (inv_csrWrite h).ok ‹_›
    · exact h
  · exact h

theorem inv_resolveSlot {s : State} {k n : Nat} {tok : Token} {drop : Bool} (h : Inv s) :
    Inv (s.resolveSlot k n tok drop) := by
  unfold State.resolveSlot
  split
  · exact h
  split
  · split
    · exact inv_modSlot h
    · exact inv_emit (inv_modSlot h)
  · exact h

theorem inv_clearAhead {s : State} {k : Nat} {ins : Option Instr} (h : Inv s) : Inv (s.clearAhead k ins) := by
  unfold State.clearAhead
  split
  · exact inv_modRun h
  · exact h

theorem inv_retrySlot {s : State} {k n code : Nat} {i : Instance} (h : Inv s) : Inv (s.retrySlot k n code i) :=
  inv_ite h (inv_ite (inv_resolveSlot h) (inv_ite (inv_modInst h) (inv_clearAhead h)))

theorem inv_skipSlot {s : State} {k n code : Nat} {i : Instance} (h : Inv s) : Inv (s.skipSlot k n code i) := by
  unfold State.skipSlot
  split
  · exact inv_resolveSlot (inv_modInst h)
  split
  · exact inv_modInst h
  split
  · exact h
  extract_lets s1 s2 val
  have h1 : Inv s1 := inv_clearAhead h
  exact inv_resolveSlot (inv_ite (inv_setResume h1) h1)

theorem inv_resolveTrap {s : State} {k act : Nat} (h : Inv s) : Inv (s.resolveTrap k act) := by
  unfold State.resolveTrap
  split
  · exact h
  split
  · exact inv_endStroke h
  extract_lets slot code s1 s2 runs s3 s4
  have h1 : Inv s1 := inv_modRun h
  have h2 : Inv s2 := by
    unfold s2
    split
    · exact h1
    split
    · exact h1
    · exact inv_ite (inv_retrySlot h1) (inv_skipSlot h1)
  have h3 : Inv s3 := inv_takeLater h2
  exact inv_flush (inv_ite (inv_takeDeferred h3) h3)

theorem inv_rft {g : Args} {s : State} (h : Inv s) : Inv (rft g s).state := by
  unfold rft
  extract_lets a b
  split
  · exact h
  split
  · exact h
  split
  · exact h
  split
  · exact h
  split
  · exact inv_value (inv_modRun h)
  · exact inv_value (inv_resolveTrap h)

theorem inv_cfginv {all : Bool} {x : Ctx} {g : Args} {s : State} (h : Inv s) : Inv (cfginv all x g s).state := by
  unfold cfginv
  extract_lets a b
  split
  · exact h
  · exact inv_value h

theorem inv_tlbinv {all : Bool} {g : Args} {s : State} (h : Inv s) : Inv (tlbinv all g s).state := by
  unfold tlbinv
  extract_lets a b region count
  split
  · exact h
  split
  · exact h
  split
  · exact h
  · exact inv_value (inv_invalidate (inv_postArrivals h))

theorem inv_probe {shadow : Bool} {w : Walk} {s : State} (h : Inv s) : Inv (probe shadow w s).state := by
  unfold probe
  split
  · exact inv_value h
  · exact h
  · exact inv_value h

theorem inv_pageRequest {n : Nat} {s : State} (h : Inv s) : Inv (pageRequest n s) := by
  unfold pageRequest
  split
  · exact h
  extract_lets w head at_
  rename_i s1 s2 s3
  have h1 : Inv s1 := inv_modMem (commitWrite_wf _ _ h)
  exact inv_ite h (inv_post (inv_modEng (inv_csrPut h1)))

end Sys2Proof.Machine
end

section
/-! Machine/Tasks.lean keeps the form of memory: dispatch and completion of tasks. -/
namespace Sys2Proof.Machine

theorem inv_drawWords {s : State} {n : Nat} (h : Inv s) : Inv (s.drawWords n).2 := by
  induction n generalizing s with
  | zero => exact h
  | succ n ih => exact ih (inv_drawWord h)

theorem inv_placeStroke {s : State} {x : Chain} {e : ChainEntry} {folio frank srank k : Nat} (h : Inv s) :
    Inv (s.placeStroke x e folio frank srank k) := by
  unfold State.placeStroke
  extract_lets u y owner chbase
  split
  rename_i s1 e1
  have h1 : Inv s1 := (inv_drawWords h).snd e1
  split
  exact inv_bear (inv_modUnit ((inv_drawWord h1).snd ‹_›))

theorem inv_placeStrokes {s : State} {x : Chain} {e : ChainEntry} {folio frank n : Nat} {l : List Nat} (h : Inv s) :
    Inv (s.placeStrokes x e folio frank l n) := by
  induction l generalizing s x e folio frank n with
  | nil => exact h
  | cons e l ih => exact ih (inv_placeStroke h)

theorem clearWindows_wf {m : Memory} {u : Nat} {l : List Alloc} (h : m.wf = true) : (m.clearWindows u l).wf = true :=
  wf_foldl (fun _ _ h1 => setFulls_wf h1) h

theorem inv_placeNib {s : State} {x : Chain} {e : ChainEntry} {folio frank u : Nat} (h : Inv s) :
    Every (fun t => Inv t.1) (s.placeNib x e folio frank u) := by
  unfold State.placeNib
  extract_lets keys
  split
  · trivial
  · exact inv_placeStrokes (inv_modMem (clearWindows_wf (inv_modUnit h)))

theorem inv_placeNibs {s : State} {x : Chain} {e : ChainEntry} {folio n : Nat} {l : List Nat} (h : Inv s) :
    Every (fun t => Inv t.1) (s.placeNibs x e folio l n) := by
  induction l generalizing s x e folio n with
  | nil => exact h
  | cons e l ih =>
    unfold State.placeNibs
    split
    · trivial
    rename_i s1 _ e1
    have h1 : Inv s1 := (inv_placeNib h).some e1
    split
    · trivial
    rename_i s2 _ e2
    have h2 : Inv s2 := (ih h1).some e2
    exact h2

theorem inv_placeFolio {s : State} {c slab : Nat} {x : Chain} {e : ChainEntry} {nibs : List Nat} (h : Inv s) :
    Every Inv (s.placeFolio c x e slab nibs) := by
  unfold State.placeFolio
  extract_lets id
  split
  · trivial
  rename_i s1 _ e1
  have h1 : Inv s1 := (inv_placeNibs h).some e1
  extract_lets f s2
  have h2 : Inv s2 := inv_modEng h1
  refine inv_foldl (fun _ _ h3 => ?_) h2
  split
  · exact inv_post h3
  · exact h3

theorem inv_prepareTask {s : State} {c : Nat} {x : Chain} {e : ChainEntry} (h : Inv s) : Inv (s.prepareTask c x e) := by
  unfold State.prepareTask
  split
  · exact inv_finishEntry h
  extract_lets met
  split
  · clear_value met
    split
    · exact inv_finishEntry h
    · exact inv_chainWait h
    · exact h
    · exact inv_finishEntry h
  · clear_value met
    split
    · exact inv_finishEntry h
    · exact inv_chainWait h
    · exact h
    · exact inv_chainWait h
  · clear_value met
    split
    · exact inv_finishEntry h
    · exact inv_chainWait h
    · exact h
    · exact inv_finishEntry h
  · clear_value met
    split
    · exact inv_finishEntry h
    · exact inv_chainWait h
    · exact h
    · exact inv_ite (inv_finishEntry h) (inv_setEntry h)

theorem inv_placeTask {s : State} {c slab : Nat} {x : Chain} {e : ChainEntry} {nibs : List Nat} (h : Inv s) :
    Inv (s.placeTask c x e slab nibs) := by
  unfold State.placeTask
  split
  · exact inv_setEntry h
  split
  · exact h
  split
  · exact h
  rename_i s1 e1
  have h1 : Inv s1 := (inv_placeFolio h).some e1
  extract_lets s2 s3
  have h2 : Inv s2 := inv_setEntry h1
  exact inv_ite (inv_modChain h2) h2

theorem inv_taskDispatch {c slab : Nat} {nibs : List Nat} {s : State} (h : Inv s) : Inv (taskDispatch c slab nibs s) := by
  unfold taskDispatch
  split
  · exact h
  split
  · exact h
  split
  · exact inv_placeTask h
  extract_lets go
  have hgo : ∀ (s : State) (x : Chain) (e : ChainEntry), Inv s → Inv (go s x e) := by
    intro s1 x1 e h1
    unfold go
    extract_lets s2
    have h2 : Inv s2 := inv_prepareTask h1
    split
    · split
      · exact inv_placeTask h2
      · exact h2
    · exact h2
  split
  · exact hgo _ _ _ h
  split
  · exact h
  · exact (inv_takeHead h).wait ‹_›
  · exact hgo _ _ _ ((inv_takeHead h).entry ‹_›)

theorem inv_chainAging {c : Nat} {s : State} (h : Inv s) : Inv (chainAging c s) := by
  unfold chainAging
  split
  · exact h
  · exact inv_ite (inv_setChain h) h

theorem inv_taskComplete {c num : Nat} {s : State} (h : Inv s) : Inv (taskComplete c num s) := by
  unfold taskComplete
  split
  · exact h
  split
  · exact h
  split
  · exact h
  split
  · exact inv_finishEntry h
  split
  · exact inv_finishEntry h
  split
  · exact inv_finishEntry h
  split
  · exact inv_finishEntry ((inv_engWrite h).ok ‹_›)
  · exact inv_chainWait h
  · exact inv_finishEntry h

end Sys2Proof.Machine
end

section
/-! Machine/Contexts.lean keeps the form of memory: freezing, the readout chain and save areas. -/
namespace Sys2Proof.Machine

theorem inv_freezeIdle {s : State} {f : Folio} (h : Inv s) : Inv (s.freezeIdle f) :=
  inv_foldl (fun _ _ h1 => inv_ite (inv_freezeStroke h1) h1) h

theorem inv_freeze {x : Ctx} {g : Args} {s : State} (h : Inv s) : Inv (freeze x g s).state := by
  unfold freeze
  extract_lets a
  split
  · exact h
  split
  · exact inv_value h
  · exact inv_freezeIdle h

theorem inv_freezeDone {s : State} {n : Nat} (h : Inv s) : Inv (s.freezeDone n) := by
  unfold State.freezeDone
  split
  · exact h
  extract_lets send
  have hsend : ∀ (s : State), Inv s → Inv (send s) := by
    intro s1 h1
    unfold send
    extract_lets s2
    rename_i s3
    have h3 : Inv s3 := h1
    exact inv_pushReply h3
  split
  · exact hsend _ h
  extract_lets s1
  have h1 : Inv s1 := inv_freezeIdle h
  rename_i s2
  have h2 : Inv s2 := inv_foldl (fun _ _ => inv_freezeStroke) h1
  exact inv_ite h1 (hsend _ (inv_modFolio h2))

theorem inv_thawStroke {s : State} {k : Nat} (h : Inv s) : Inv (s.thawStroke k) := by
  unfold State.thawStroke
  split
  · exact h
  extract_lets arrived s1 s2
  have h1 : Inv s1 := inv_modRun h
  have h2 : Inv s2 := inv_ite (inv_reissueWashes h1) h1
  split
  · exact inv_ite (inv_resolveTrap h2) h2
  · exact h2

theorem inv_thawFolio {s : State} {f : Folio} (h : Inv s) : Inv (s.thawFolio f) := inv_foldl (fun _ _ => inv_thawStroke) (inv_modFolio h)

theorem inv_thaw {g : Args} {s : State} (h : Inv s) : Inv (thaw g s).state := by
  unfold thaw
  extract_lets a
  split
  · exact h
  split
  · exact h
  split
  · exact h
  · exact inv_value (inv_thawFolio h)

theorem inv_rename {s : State} {a b : Nat} (h : Inv s) : Inv (s.rename a b) := by
  unfold State.rename
  extract_lets r
  rename_i src _ _ _
  have hsrc : src.wf = true := h
  exact hsrc

theorem inv_slotLost {mask n : Nat} {ws : List (BitVec 32)} {s : State} (h : Inv s) : Inv (slotLost mask ws n s).2 :=
  inv_ite_snd h (inv_ite_snd h (inv_ite_snd h (inv_drawBool h)))

theorem inv_rewindSlots {mask n : Nat} {ws : List (BitVec 32)} {l : List SlotSt} {s : State} (h : Inv s) :
    Inv (rewindSlots mask ws l n s).2 := by
  induction l generalizing mask ws n s with
  | nil => exact h
  | cons e l ih => exact ih (inv_slotLost h)

theorem inv_restored {i : Instance} {mask : Nat} {s : State} (h : Inv s) : Inv (i.restored mask s).2 := by
  unfold Instance.restored
  split
  exact (inv_rewindSlots h).snd ‹_›

theorem inv_handleWords {t : Stroke} {l : List Nat} {s : State} (h : Inv s) : Inv (handleWords t l s).2 := by
  induction l generalizing t s with
  | nil => exact h
  | cons e l ih => exact ih (inv_drawWord (inv_drawWord h))

theorem inv_rowWords {mask : Nat} {l : List Nat} {s : State} (h : Inv s) : Inv (rowWords mask l s).2 := by
  induction l generalizing mask s with
  | nil => exact h
  | cons e l ih => exact inv_ite_snd (ih h) (ih (inv_drawWords h))

theorem inv_areaWords {k : Nat} {t : Stroke} {win free : Bool} {s : State} (h : Inv s) : Inv (areaWords k t win free s).2 := by
  unfold areaWords
  extract_lets fixed
  split
  rename_i s1 e
  have h1 : Inv s1 := (inv_handleWords h).snd e
  split
  exact (inv_rowWords h1).snd ‹_›

theorem inv_writePieces {x : Ctx} {base : Nat} {l : List (Nat × List Byte)} {s : State} (h : Inv s) : (writePieces x base l s).Upholds := by
  induction l generalizing x base s with
  | nil => exact h
  | cons e l ih =>
    unfold writePieces
    extract_lets region a
    split
    · exact h
    · exact h
    · exact h
    split
    · exact h
    · exact ih (inv_request (inv_modMem (commitWrite_wf _ _ h)))

theorem inv_leaveUnit {s : State} {k id : Nat} {t : Stroke} {win free : Bool} (h : Inv s) : Inv (s.leaveUnit k id t win free) := by
  unfold State.leaveUnit
  extract_lets u mine s1 s2 s3
  have h1 : Inv s1 := inv_rename h
  have h2 : Inv s2 := inv_modUnit h1
  have h3 : Inv s3 := inv_modFolio h2
  exact h3

theorem inv_saveStroke {win free : Bool} {x : Ctx} {base k : Nat} {s : State} (h : Inv s) : Inv (saveStroke win free x base k s).state := by
  unfold saveStroke
  extract_lets s1
  have h1 : Inv s1 := inv_drainStroke (inv_freezeStroke h)
  split
  · exact h
  extract_lets wkey
  refine inv_checked (every_ite (inv_readTrap h) every_none) ?_
  split
  rename_i s2 e
  have h2 : Inv s2 := (inv_areaWords h1).snd e
  extract_lets pieces
  split
  · exact h
  · exact h
  · exact h
  rename_i s4 e1
  have h4 : Inv s4 := (inv_writePieces h2).ok e1
  extract_lets id u rec1 s41
  rename_i s3
  have h3 : Inv s3 := h4
  exact inv_value (inv_leaveUnit h3)

theorem inv_ctxout {win free drop : Bool} {x : Ctx} {g : Args} {s : State} (h : Inv s) : Inv (ctxout win free drop x g s).state := by
  unfold ctxout
  extract_lets a
  split
  · exact h
  extract_lets single
  split
  · exact h
  split
  · exact h
  split
  · exact h
  split
  · exact h
  split
  · exact inv_value (inv_endStroke h)
  split
  · exact h
  · exact inv_saveStroke h

theorem inv_areaWord {x : Ctx} {base off : Nat} {s : State} (h : Inv s) : (areaWord x base off s).Upholds := by
  unfold areaWord
  extract_lets region a
  split
  · exact h
  · exact h
  · exact h
  split
  · exact (inv_readTrap h).some ‹_›
  · exact inv_request h

theorem inv_areaMatches {x : Ctx} {base : Nat} {l : List (Nat × Word)} {s : State} (h : Inv s) : (areaMatches x base l s).Upholds := by
  induction l generalizing x base s with
  | nil => exact h
  | cons e l ih =>
    unfold areaMatches
    split
    · exact (inv_areaWord h).bad ‹_›
    rename_i s1 e1
    have h1 : Inv s1 := (inv_areaWord h).ok e1
    split
    · exact ih h1
    · exact h1

theorem inv_findSaved {x : Ctx} {base : Nat} {l : List SavedCtx} {s : State} (h : Inv s) : (findSaved x base l s).Upholds := by
  induction l generalizing x base s with
  | nil => exact h
  | cons e l ih =>
    unfold findSaved
    split
    · exact (inv_areaMatches h).bad ‹_›
    · exact (inv_areaMatches h).ok ‹_›
    · exact ih ((inv_areaMatches h).ok ‹_›)

theorem inv_changedWords {x : Ctx} {base : Nat} {l : List Nat} {s : State} (h : Inv s) : (changedWords x base l s).Upholds := by
  induction l generalizing x base s with
  | nil => exact h
  | cons e l ih =>
    unfold changedWords
    split
    · exact (inv_areaWord h).bad ‹_›
    rename_i s1 e1
    have h1 : Inv s1 := (inv_areaWord h).ok e1
    split
    · exact (ih h1).bad ‹_›
    · exact (ih h1).ok ‹_›

theorem inv_readPieces {x : Ctx} {base : Nat} {l : List Nat} {s : State} (h : Inv s) : (readPieces x base l s).Upholds := by
  induction l generalizing x base s with
  | nil => exact h
  | cons e l ih =>
    unfold readPieces
    split
    · exact (inv_areaWord h).bad ‹_›
    rename_i s1 e1
    have h1 : Inv s1 := (inv_areaWord h).ok e1
    split
    · exact (ih h1).bad ‹_›
    · exact (ih h1).ok ‹_›

theorem fillWindow_wf {m : Memory} {key pages : Nat} {vals : List Nat} (h : m.wf = true) : (m.fillWindow key pages vals).wf = true := by
  unfold Memory.fillWindow
  extract_lets bytes m1
  have hm1 : m1.wf = true := commitWrite_wf _ _ h
  exact wf_foldl (fun _ _ h1 => setFull_wf h1) hm1

theorem inv_seat {s : State} {c : SavedCtx} {k : Nat} {y : UnitSt} {ws : List Word} (h : Inv s) : Inv (s.seat c k y ws) := by
  unfold State.seat
  extract_lets u old d chbase wbase y1 s1 home fid s2
  have h1 : Inv s1 := inv_rename (inv_modUnit h)
  have h2 : Inv s2 := inv_ite (inv_modFolio h1) (inv_modEng h1)
  split
  rename_i s3 e
  have h3 : Inv s3 := by
    refine Inv.snd ?_ e
    split
    · exact h2
    split
    · exact h2
    split
    exact (inv_restored h2).snd ‹_›
  exact inv_setStroke h3

theorem inv_restore {x : Ctx} {base u : Nat} {c : SavedCtx} {s : State} (h : Inv s) : Inv (restore x base c u s).state := by
  unfold restore
  extract_lets d
  split
  · exact h
  split
  · exact h
  split
  · exact h
  split
  · exact (inv_changedWords h).bad ‹_›
  rename_i s1 e
  have h1 : Inv s1 := (inv_changedWords h).ok e
  split
  · exact (inv_readPieces h1).bad ‹_›
  rename_i s2 e1
  have h2 : Inv s2 := (inv_readPieces h1).ok e1
  extract_lets s3 s4 saved
  have h3 : Inv s3 := inv_seat h2
  have h4 : Inv s4 := by
    unfold s4
    split
    · exact inv_ite (inv_modMem (fillWindow_wf h3)) (inv_ite (inv_modMem (clearWindows_wf h3)) h3)
    · exact h3
  exact inv_value h4

theorem inv_ctxin {x : Ctx} {g : Args} {s : State} (h : Inv s) : Inv (ctxin x g s).state := by
  unfold ctxin
  extract_lets base
  split
  · exact h
  split
  · exact (inv_areaWord h).bad ‹_›
  rename_i s1 e
  have h1 : Inv s1 := (inv_areaWord h).ok e
  split
  · exact (inv_findSaved h1).bad ‹_›
  · exact inv_trap ((inv_findSaved h1).ok ‹_›)
  · exact inv_restore ((inv_findSaved h1).ok ‹_›)

end Sys2Proof.Machine
end

section
/-! Machine/Copybook.lean keeps the form of memory: copybook objects, the log and methods. -/
namespace Sys2Proof.Machine

theorem inv_modBook {s : State} {f : Copybook → Copybook} (h : Inv s) : Inv (s.modBook f) := inv_modSvc h

theorem inv_setObject {s : State} {o : Nat} {x : CbObject} (h : Inv s) : Inv (s.setObject o x) := inv_modBook h

theorem setCopy_wf {m : Memory} {slab obj : Nat} {bs : List Byte} (h : m.wf = true) : (m.setCopy slab obj bs).wf = true :=
  setBytes_wf _ _ (filter_wf _ h)

theorem inv_define {x : Ctx} {o part : Nat} {ws : List Word} {s : State} (h : Inv s) : Inv (define x o part ws s).state := by
  unfold define
  extract_lets y
  split
  · exact h
  rename_i read1 _
  clear_value read1
  split
  · exact h
  · exact inv_hold (inv_requestPage h)
  · exact inv_value (inv_setObject (inv_modMem (wf_foldl (fun _ _ h1 => setCopy_wf h1) h)))

theorem inv_cpdef {x : Ctx} {g : Args} {s : State} (h : Inv s) : Inv (cpdef x g s).state := by
  unfold cpdef
  extract_lets a b o
  split
  · exact h
  split
  · exact h
  split
  · exact h
  split
  · exact h
  refine inv_checked (inv_readTrap h) ?_
  split
  · exact h
  refine inv_checked (inv_readTrap h) ?_
  split
  rename_i s1 e
  have h1 : Inv s1 := (inv_windowWords h).snd e
  split
  · exact h1
  · exact inv_define h1

theorem inv_cpdefRel {g : Args} {s : State} (h : Inv s) : Inv (cpdefRel g s).state := by
  unfold cpdefRel
  extract_lets a o
  split
  · exact h
  split
  · exact h
  split
  · exact h
  split
  · exact h
  · exact inv_value (inv_modBook h)

theorem inv_callee {s : State} {x : Ctx} {ro : Bool} {g : Args} (h : Inv s) : (s.callee x ro g).Upholds := by
  unfold State.callee
  extract_lets a
  repeat' split
  all_goals exact h

theorem inv_callRecord {s : State} {x : Ctx} {known : Bool} {n : Nat} {g : Args} (h : Inv s) : (s.callRecord x known n g).Upholds := by
  unfold State.callRecord
  extract_lets b
  split
  · exact h
  split
  · exact h
  split
  · rename_i f1 e
    have h1 : Inv f1.state := (every_or (every_ite (inv_readTrap h) every_none) (every_ite every_none (inv_readTrap h))).some e
    exact h1
  · split
    rename_i s1 e
    have h1 : Inv s1 := (inv_ite_snd (inv_load h) h).snd e
    split
    exact (inv_windowWords h1).snd ‹_›

theorem inv_cpcall {nw : Bool} {rch : Nat} {x : Ctx} {g : Args} {s : State} (h : Inv s) : Inv (cpcall nw rch x g s).state := by
  unfold cpcall
  split
  · exact (inv_callee h).bad ‹_›
  rename_i s1 e
  have h1 : Inv s1 := (inv_callee h).ok e
  split
  · exact h1
  split
  · exact (inv_callRecord h1).bad ‹_›
  · exact inv_sent (inv_modBook ((inv_callRecord h1).ok ‹_›))

theorem inv_selfTrap {s : State} {c : CbCall} (h : Inv s) : Inv (s.selfTrap c) := inv_wake (inv_modStroke h)

theorem inv_dropCall {s : State} {n : Nat} (h : Inv s) : Inv (s.dropCall n) := inv_modBook h

theorem inv_logFull {s : State} {n : Nat} {c : CbCall} (h : Inv s) : Inv (s.logFull n c) :=
  inv_ite (inv_ite h (inv_ite (inv_selfTrap (inv_dropCall h)) (inv_takeTrap (inv_modSlot (inv_dropCall h))))) (inv_ite h (inv_modBook h))

theorem inv_appended {s : State} {c : CbCall} (h : Inv s) : Inv (s.appended c) := by
  unfold State.appended
  split
  · exact h
  · exact inv_flush (inv_modSlot h)

theorem inv_copybookAppend {n : Nat} {s : State} (h : Inv s) : Inv (copybookAppend n s) := by
  unfold copybookAppend
  split
  · exact h
  split
  · exact h
  split
  · exact inv_dropCall h
  split
  · exact h
  split
  · exact inv_logFull h
  split
  · exact h
  · exact inv_appended (inv_modBook (inv_setObject h))

theorem inv_startMethod {s : State} {u : Nat} {o : CbObject} {r : CbRun} (h : Inv s) : Inv (s.startMethod u o r) :=
  inv_modBook (inv_setStroke h)

theorem inv_deliver {s : State} {slab obj : Nat} (h : Inv s) : Inv (s.deliver slab obj) := by
  unfold State.deliver
  split
  · exact h
  extract_lets due s1
  have h1 : Inv s1 := by
    unfold s1
    refine inv_foldl (fun _ _ h1 => ?_) h
    split
    · exact inv_modNet h1
    · exact h1
  exact inv_modBook h1

theorem inv_finishMethod {s : State} {u code : Nat} {r : CbRun} {w : Word} (h : Inv s) : Inv (s.finishMethod u r w code) := by
  unfold State.finishMethod
  extract_lets slab s1
  have h1 : Inv s1 := inv_modBook h
  rename_i s2 s3
  have h2 : Inv s2 := h1
  have h3 : Inv s3 := inv_ite (inv_modMem (wf_foldl (fun _ _ h3 => setByte_wf _ _ h3) h2)) h2
  split
  · split
    · exact inv_modNet h2
    · exact h2
  · split
    · exact h2
    · exact inv_deliver (inv_setObject h3)

theorem inv_scribeApply {slab obj : Nat} {s : State} (h : Inv s) : Inv (scribeApply slab obj s) := by
  unfold scribeApply
  split
  · exact h
  split
  · exact h
  split
  · exact inv_finishMethod h
  split
  · exact inv_modRun h
  extract_lets i
  split
  · exact inv_ite h (inv_startMethod h)
  · exact h

theorem inv_cpread {x : Ctx} {g : Args} {s : State} (h : Inv s) : Inv (cpread x g s).state := by
  unfold cpread
  split
  · exact (inv_callee h).bad ‹_›
  rename_i s1 e
  have h1 : Inv s1 := (inv_callee h).ok e
  extract_lets a obj mine rec?
  have hrec? : rec?.Upholds := by
    unfold rec?
    split
    · exact h1
    split
    · exact (inv_callRecord h1).bad ‹_›
    · exact (inv_callRecord h1).ok ‹_›
  clear_value rec?
  split
  · exact hrec?
  extract_lets others
  rename_i s2
  have h2 : Inv s2 := inv_modBook hrec?
  split
  · split
    · exact inv_owed (inv_startMethod h2)
    · exact inv_hold (inv_modBook hrec?)
  · exact inv_hold (inv_modBook hrec?)

theorem inv_cpwait {ch : Nat} {x : Ctx} {g : Args} {s : State} (h : Inv s) : Inv (cpwait ch x g s).state := by
  unfold cpwait
  extract_lets obj
  split
  · exact h
  split
  · exact h
  split
  · exact h
  split
  · exact inv_value h
  · exact inv_value (inv_arm h)

theorem inv_cptrim {x : Ctx} {g : Args} {s : State} (h : Inv s) : Inv (cptrim x g s).state := by
  unfold cptrim
  extract_lets obj
  split
  · exact h
  · exact inv_value (inv_setObject h)

theorem inv_cpstat {sel : Nat} {x : Ctx} {g : Args} {s : State} (h : Inv s) : Inv (cpstat sel x g s).state := by
  unfold cpstat
  split
  · exact inv_value h
  split
  · exact inv_value h
  split
  · exact inv_value h
  split
  · exact h
  · exact inv_value h

theorem inv_cpret {x : Ctx} {g : Args} {s : State} (h : Inv s) : Inv (cpret x g s).state := inv_value (inv_modRunOf h)

theorem inv_damageCopy {s : State} {slab obj : Nat} (h : Inv s) : Inv (s.damageCopy slab obj) := by
  unfold State.damageCopy
  split
  · exact h
  extract_lets s1
  have h1 : Inv s1 := inv_setObject h
  refine inv_foldl (fun _ _ h2 => inv_ite (inv_modRun h2) ?_) h1
  extract_lets src
  have hsrc : Inv src := inv_modBook h2
  exact hsrc

theorem inv_copyRebuilt {slab obj : Nat} {s : State} (h : Inv s) : Inv (copyRebuilt slab obj s) := by
  unfold copyRebuilt
  split
  · exact h
  split
  · exact h
  split
  · exact h
  extract_lets now cells s1 s2 s3
  have h2 : Inv s2 := inv_setObject (inv_modMem (wf_foldl (fun _ _ h1 => setByte_wf _ _ h1) (setCopy_wf h)))
  exact inv_deliver (inv_foldl (fun _ _ => inv_startMethod) h2)

end Sys2Proof.Machine
end

section
/-! Machine/Float.lean keeps the form of memory: the floating-point instructions. -/
namespace Sys2Proof.Machine

theorem inv_fpOut {sf : BitVec 1} {x : Ctx} {s : State} {r : Flagged Nat} (h : Inv s) : Inv (fpOut sf x s r).state := inv_flagged h

end Sys2Proof.Machine
end

section
/-! Machine/Hosts.lean keeps the form of memory: what the host and peers send, budgets and buckets. -/
namespace Sys2Proof.Machine

theorem inv_setHdm {decoder base : Nat} {s : State} (h : Inv s) : Inv (setHdm decoder base s) := inv_modPlat h

theorem inv_setDoorbell {s : State} {job : Nat} {d : Word × Word × Bool} (h : Inv s) : Inv (s.setDoorbell job d) := inv_ite (inv_modEng h) h

theorem inv_doorbellAppend {job : Nat} {val : Word} {s : State} (h : Inv s) : Inv (doorbellAppend job val s) := by
  unfold doorbellAppend
  split
  split
  · exact inv_setDoorbell h
  · exact inv_ite (inv_setDoorbell h) (inv_setDoorbell (inv_append h))

theorem inv_toHost {s : State} {w : Word} (h : Inv s) : Inv (s.toHost w) := inv_modPlat h

theorem inv_peerWordArrival {peer : Nat} {place w : Word} {s : State} (h : Inv s) : Inv (peerWordArrival peer place w s) := by
  unfold peerWordArrival
  extract_lets p
  split
  · exact h
  split
  · exact h
  split
  · exact h
  · exact inv_sendWord h

theorem inv_peerAtom {s : State} {peer tier pa bytes : Nat} {sc : Option Bool} {kind : AtomKind} (h : Inv s) :
    Inv (s.peerAtom peer tier pa bytes sc kind) := by
  unfold State.peerAtom
  extract_lets r
  split
  · exact inv_peerRefuses h
  split
  · exact inv_peerRefuses h
  · exact inv_ite (inv_peerRefuses h) (inv_sendAtom h)

theorem inv_peerMemoryAccess {peer tier pa n : Nat} {a : PeerAccess} {data : List Byte} {s : State} (h : Inv s) :
    Inv (peerMemoryAccess peer a tier pa n data s) := by
  unfold peerMemoryAccess
  extract_lets key reply
  have hreply : ∀ (s : State) (code : Nat) (l : List Byte), Inv s → Inv (reply s code l) := by
    intro s1 code l h1
    unfold reply
    exact inv_sendPeer h1
  split
  · split
    · exact inv_ite (hreply _ _ _ h) (inv_ite (hreply _ _ _ h) (hreply _ _ _ h))
    · exact inv_ite (hreply _ _ _ h) (inv_ite (hreply _ _ _ h) (inv_ite (hreply _ _ _ h) (hreply _ _ _ (inv_modMem (commitWrite_wf _ _ h)))))
    · exact inv_ite (hreply _ _ _ h) (inv_peerAtom h)
    · exact inv_peerAtom h
    · exact inv_peerAtom h
    · exact inv_ite (hreply _ _ _ h) (inv_peerAtom h)
    · exact inv_ite (hreply _ _ _ h) (inv_peerAtom h)
  · exact hreply _ _ _ h

theorem inv_bandwidthRefill {slab : Nat} {s : State} (h : Inv s) : Inv (bandwidthRefill slab s) := inv_modPlat h

end Sys2Proof.Machine
end

section
/-! Machine/Integer.lean keeps the form of memory: integer and address arithmetic. -/
namespace Sys2Proof.Machine

theorem inv_intOp2 {w : BitVec 2} {u : BitVec 1} {f : Int → Int → Int} {g : Args} {s : State} (h : Inv s) : Inv (intOp2 w u f g s).state :=
  inv_value h

theorem inv_intOpF {w : BitVec 2} {u sf : BitVec 1} {f : Nat → Int → Int → Int × Flags} {x : Ctx} {g : Args} {s : State} (h : Inv s) :
    Inv (intOpF w u sf f x g s).state := inv_flagged h

theorem inv_intOpB {w : BitVec 2} {u : BitVec 1} {f : Word → Word → Word} {g : Args} {s : State} (h : Inv s) :
    Inv (intOpB w u f g s).state := inv_value h

theorem inv_intShift {w : BitVec 2} {u : BitVec 1} {f : Nat → Word → Word → Int} {a b : Word} {s : State} (h : Inv s) :
    Inv (intShift w u f a b s).state := inv_value h

end Sys2Proof.Machine
end

section
/-! Machine/Pipeline.lean keeps the form of memory: the layer pipeline, squashes and registration. -/
namespace Sys2Proof.Machine

theorem inv_recPut {s : State} {rec off n v : Nat} (h : Inv s) : Inv (s.recPut rec off n v) := inv_modMem (commitWrite_wf _ _ h)

theorem inv_setRing {s : State} {rec r : Nat} {x : RingSlot} (h : Inv s) : Inv (s.setRing rec r x) := inv_recPut (inv_recPut h)

theorem inv_setLow {s : State} {rec : Nat} (h : Inv s) : Inv (s.setLow rec) := inv_recPut h

theorem inv_checkRecord {x : Ctx} {a : Word} {s : State} (h : Inv s) : (checkRecord x a s).Upholds := by
  unfold checkRecord
  split
  · exact h
  split
  · rename_i s1 e
    have h1 : Inv s1 := (inv_locateVa h).snd e
    split
    · exact h1
    split
    · exact inv_trap ((inv_ownerNode h1).snd ‹_›)
    rename_i s2 e1
    have h2 : Inv s2 := (inv_ownerNode h1).snd e1
    split
    · exact (inv_readTrap h2).some ‹_›
    · exact h2
  · exact inv_failLoc_getD ((inv_locateVa h).snd ‹_›)

theorem inv_postToken {s : State} {a : PipeAct} {stage0 : Nat} {w : Word} (h : Inv s) : Inv (s.postToken a stage0 w) :=
  inv_ite (inv_pushReply (inv_modSvc h)) (inv_sendWord h)

theorem inv_launchToken {s : State} {a : PipeAct} (h : Inv s) : Inv (s.launchToken a) := by
  unfold State.launchToken
  extract_lets r
  rename_i s1
  have h1 : Inv s1 := inv_recPut h
  split
  exact inv_postToken (inv_setLow (inv_recPut (inv_recPut (inv_setRing h1))))

theorem inv_squashed {s : State} {a : PipeAct} {q : Nat} (h : Inv s) : Inv (s.squashed a q) := by
  unfold State.squashed
  extract_lets last s1
  have h1 : Inv s1 := by
    unfold s1
    refine inv_foldl (fun _ _ h1 => ?_) h
    exact inv_ite (inv_setRing h1) h1
  exact inv_launchToken (inv_recPut h1)

theorem inv_addAct {s : State} {a : PipeAct} (h : Inv s) : Inv (s.addAct a) := inv_modSvc (inv_modNet h)

theorem inv_dropAct {s : State} {id : Nat} (h : Inv s) : Inv (s.dropAct id) := inv_modSvc h

theorem inv_runAct {s : State} {a : PipeAct} (h : Inv s) : Inv (s.runAct a) := by
  unfold State.runAct
  split
  · exact inv_launchToken h
  · exact inv_ite (inv_squashed h) h

theorem inv_pipeAction {x : Ctx} {rec : Nat} {op : PipeOp} {s : State} (h : Inv s) : Inv (pipeAction x rec op s).state := by
  unfold pipeAction
  extract_lets a
  split
  · exact inv_sent (inv_addAct h)
  split
  · exact h
  · exact inv_owed (inv_pushReply h)
  · exact inv_owed (inv_runAct (inv_addAct h))

theorem inv_launch {x : Ctx} {g : Args} {s : State} (h : Inv s) : Inv (launch x g s).state := by
  unfold launch
  split
  · exact (inv_checkRecord h).bad ‹_›
  · exact inv_pipeAction ((inv_checkRecord h).ok ‹_›)

theorem inv_guess {x : Ctx} {g : Args} {s : State} (h : Inv s) : Inv (guess x g s).state := by
  unfold guess
  extract_lets b tag p l
  split
  · exact h
  split
  · exact h
  split
  · exact (inv_checkRecord h).bad ‹_›
  · exact inv_pipeAction ((inv_checkRecord h).ok ‹_›)

theorem inv_beginAct {s : State} {a : PipeAct} (h : Inv s) : Inv (s.beginAct a) := by
  unfold State.beginAct
  split
  · exact h
  split
  · exact h
  split
  · extract_lets s1
    have h1 : Inv s1 := inv_dropAct h
    exact inv_ite (inv_takeTrap (inv_unsend h1)) h1
  · exact inv_pushReply (inv_dropAct h)
  · exact inv_runAct (inv_modSvc h)

theorem inv_sendSquash {s : State} {a : PipeAct} (h : Inv s) : Inv (s.sendSquash a) := by
  unfold State.sendSquash
  split
  · exact inv_modSvc (inv_sendPeer h)
  · exact h

theorem inv_pumpActs {s : State} (h : Inv s) : Inv s.pumpActs := inv_foldl (fun _ _ h1 => inv_sendSquash (inv_beginAct h1)) h

theorem inv_withdrawRow {s : State} {u q t j : Nat} {r : PipeRegion} (h : Inv s) : Inv (s.withdrawRow u r q t j) := by
  unfold State.withdrawRow
  exact inv_ite (inv_modMem (setFulls_wf (localWrite_wf _ _ _ h))) h

theorem inv_absorb {s : State} {u rec q t low : Nat} (h : Inv s) : Inv (s.absorb u rec q t low) := by
  unfold State.absorb
  split
  · exact h
  · exact inv_foldl (fun _ _ h2 => inv_foldl (fun _ _ => inv_withdrawRow) h2) (inv_modUnit h)

theorem inv_squashAbsorb {n member : Nat} {s : State} (h : Inv s) : Inv (squashAbsorb n member s) := by
  unfold squashAbsorb
  split
  · exact h
  split
  · split
    · exact h
    extract_lets s1 a1 s2
    have h2 : Inv s2 := inv_modSvc (inv_ite (inv_absorb h) h)
    exact inv_ite (inv_squashed h2) h2
  · exact h

theorem inv_peerSquash {peer act record q t low : Nat} {member : Word} {s : State} (h : Inv s) :
    Inv (peerSquash peer act record q t low member s) := by
  unfold peerSquash
  extract_lets u s1
  have h1 : Inv s1 := inv_sendPeer h
  exact inv_ite (inv_absorb h1) h1

theorem inv_peerAbsorbed {act : Nat} {member : Word} {s : State} (h : Inv s) : Inv (peerAbsorbed act member s) := by
  unfold peerAbsorbed
  split
  · exact h
  split
  · exact inv_squashAbsorb h
  · exact h

theorem inv_retire {s : State} {rec p : Nat} (h : Inv s) : Inv (s.retire rec p) := inv_setLow (inv_ite (inv_setRing h) (inv_recPut h))

theorem inv_addMember {s : State} {rec u : Nat} (h : Inv s) : Every Inv (s.addMember rec u) := by
  unfold State.addMember
  extract_lets w
  rename_i s1
  have h1 : Inv s1 := inv_recPut h
  split
  · exact h
  split
  · trivial
  · exact inv_recPut h1

theorem inv_register {x : Ctx} {rec : Nat} {op : Nat → PipeUnit → PipeUnit} {result : Nat → Nat} {s : State} (h : Inv s) :
    Inv (register x rec op result s).state := by
  unfold register
  extract_lets u
  split
  · exact h
  split
  · exact h
  split
  · exact h
  · exact inv_owed (inv_pushReply (inv_modUnit ((inv_addMember h).some ‹_›)))

theorem inv_sqregChan {x : Ctx} {g : Args} {s : State} (h : Inv s) : Inv (sqregChan x g s).state := by
  unfold sqregChan
  split
  · exact (inv_checkRecord h).bad ‹_›
  rename_i s1 e
  have h1 : Inv s1 := (inv_checkRecord h).ok e
  extract_lets b
  split
  · exact h1
  split
  · exact h1
  · exact inv_register h1

theorem inv_sqregRows {x : Ctx} {g : Args} {s : State} (h : Inv s) : Inv (sqregRows x g s).state := by
  unfold sqregRows
  split
  · exact (inv_checkRecord h).bad ‹_›
  rename_i s1 e
  have h1 : Inv s1 := (inv_checkRecord h).ok e
  extract_lets b nreg rgran nrows off size u base
  split
  · exact h1
  split
  · exact h1
  split
  · exact h1
  split
  · exact h1
  split
  · exact h1
  · exact inv_register h1

theorem inv_sqregRel {x : Ctx} {g : Args} {s : State} (h : Inv s) : Inv (sqregRel x g s).state := by
  unfold sqregRel
  split
  · exact (inv_checkRecord h).bad ‹_›
  rename_i s1 e
  have h1 : Inv s1 := (inv_checkRecord h).ok e
  split
  · exact inv_value h1
  · exact inv_register h1

theorem inv_sqchk {ret slot : Nat} {x : Ctx} {g : Args} {s : State} (h : Inv s) : Inv (sqchk ret slot x g s).state := by
  unfold sqchk
  extract_lets u
  split
  · exact h
  split
  · exact h
  extract_lets alive w
  split
  · split
    · exact h
    · exact inv_owed (inv_pushReply (inv_retire h))
  · exact inv_value h

theorem inv_writeRow {x : Ctx} {d off p l : Nat} {r : PipeRegion} {bs : List Byte} {s : State} (h : Inv s) :
    Inv (writeRow x d off r p l bs s).state := by
  unfold writeRow
  extract_lets key own h1 floor
  rename_i s1
  have h11 : Inv s1 := inv_ite (inv_modMem (localWrite_wf _ _ _ h)) (inv_commitOwn (inv_spadBeats h))
  split
  · exact inv_replyFrom h
  split
  · split
    · exact h
    · exact inv_replyFrom (inv_setting h11)
  · split
    · exact h
    · exact inv_replyFrom (inv_setting h11)

theorem inv_kvwr {x : Ctx} {g : Args} {s : State} (h : Inv s) : Inv (kvwr x g s).state := by
  unfold kvwr
  extract_lets tag p l b
  split
  · exact h
  split
  · exact h
  · split
    · exact h
    split
    · exact h
    extract_lets n
    split
    · exact h
    split
    · exact h
    refine inv_checked (inv_readTrap h) ?_
    split
    exact inv_writeRow ((inv_loadBytes h).snd ‹_›)
  · exact h

end Sys2Proof.Machine
end

section
/-! Machine/Reliability.lean keeps the form of memory: errors, links, the slew limiter and reset. -/
namespace Sys2Proof.Machine

theorem inv_reportError {s : State} {ue : Bool} {kind slab unit : Nat} (h : Inv s) : Inv (s.reportError ue kind slab unit) := inv_post h

theorem inv_correctableError {kind slab unit : Nat} {s : State} (h : Inv s) : Inv (correctableError kind slab unit s) := by
  unfold correctableError
  split
  · exact h
  extract_lets n s1
  have h1 : Inv s1 := inv_csrPut h
  exact inv_ite (inv_reportError h1) h1

theorem inv_poisonAt {s : State} {key n : Nat} (h : Inv s) : Inv (s.poisonAt key n) := inv_modMem (poisonFrom_wf h)

theorem inv_configStoreError {unit addr : Nat} {s : State} (h : Inv s) : Inv (configStoreError unit addr s) := by
  unfold configStoreError
  split
  · exact h
  · exact inv_foldl (fun _ _ h2 => inv_ite (inv_modInst h2) h2) (inv_modUnit h)

theorem inv_reportUncorrectable {s : State} {kind slab unit loc : Nat} (h : Inv s) : Inv (s.reportUncorrectable kind slab unit loc) :=
  inv_reportError (inv_csrPut h)

theorem inv_afterReload {s : State} {k : Nat} {same : Bool} (h : Inv s) : Inv (s.afterReload k same) := by
  unfold State.afterReload
  extract_lets s1
  have h1 : Inv s1 := inv_modInst h
  exact inv_ite h1 (inv_takeTrap h1)

theorem inv_configImageReloaded {unit addr : Nat} {s : State} (h : Inv s) : Inv (configImageReloaded unit addr s) := by
  unfold configImageReloaded
  split
  · exact h
  extract_lets old s1 mine
  have h1 : Inv s1 := inv_modUnit h
  clear_value mine
  split
  · exact h1
  split
  · exact inv_requestPage (inv_modUnit ((inv_image h1).snd ‹_›))
  · exact inv_foldl (fun _ _ h2 => inv_takeTrap (inv_modInst h2)) ((inv_image h1).snd ‹_›)
  · exact (inv_image h1).snd ‹_›
  rename_i s2 e
  have h2 : Inv s2 := (inv_image h1).snd e
  refine inv_foldl (fun _ _ h3 => ?_) h2
  exact inv_afterReload h3

theorem inv_strike {s : State} {kind slab unit loc : Nat} (h : Inv s) : Inv (s.strike kind slab unit loc) := by
  unfold State.strike
  extract_lets u
  split
  · exact inv_poisonAt h
  · exact inv_poisonAt h
  · exact inv_poisonAt h
  · exact inv_poisonAt h
  · exact inv_modUnit h
  · exact inv_poisonAt h
  · exact inv_configStoreError h
  · exact inv_poisonAt h
  · exact inv_damageCopy h
  · exact h

theorem inv_uncorrectableError {kind slab unit loc : Nat} {s : State} (h : Inv s) : Inv (uncorrectableError kind slab unit loc s) :=
  inv_ite h (inv_reportUncorrectable (inv_strike h))

theorem inv_flit {s : State} {key kind slab port seq : Nat} {ok : Bool} (h : Inv s) : Inv (s.flit key kind slab port seq ok).1 := by
  unfold State.flit
  extract_lets x
  rename_i s1
  have h1 : Inv s1 := inv_setLink h
  exact inv_ite_fst (inv_ite (inv_reportUncorrectable h1) (inv_correctableError h1)) (inv_ite_fst (inv_setLink h) h)

theorem inv_wordsCame {s : State} {l : List (Nat × List LinkMsg)} (h : Inv s) : Inv (s.wordsCame l) :=
  inv_foldl (fun _ _ => inv_delivered) h

theorem inv_peerMessage {peer : Nat} {m : PeerMsg} {s : State} (h : Inv s) : Inv (peerMessage peer m s) := by
  unfold peerMessage
  split
  · exact inv_peerWordArrival h
  · exact inv_peerMemoryAccess h
  · exact h
  · exact inv_peerSquash h
  · exact inv_peerAbsorbed h

theorem inv_wydalFlit {port : Nat} {f : Flit} {crc : BitVec 64} {s : State} (h : Inv s) : Inv (wydalFlit port f crc s) := by
  unfold wydalFlit
  split
  · exact h
  extract_lets key
  split
  rename_i s1 _ e
  have h1 : Inv s1 := (inv_flit h).fst e
  split
  · exact h1
  · exact (inv_wordsCame (inv_modPlat (inv_setLink h1)))

theorem inv_slewStep {slab : Nat} {s : State} (h : Inv s) : Inv (slewStep slab s) := inv_modPlat h

theorem inv_bootStroke {s : State} {b : BootStroke} (h : Inv s) : Inv (bootStroke s b) := inv_ite h (inv_modUnit (inv_modEng (inv_bear h)))

theorem inv_bringUp {b : Boot} {s : State} (h : Inv s) : Inv (bringUp b s) :=
  inv_foldl (fun _ _ => inv_bootStroke) (inv_foldl (fun _ _ h1 => inv_ite (inv_csrEvent h1) h1) h)

theorem inv_mailboxRead {off n : Nat} {s : State} (h : Inv s) : Inv (mailboxRead off n s) := inv_ite h (inv_modPlat h)

end Sys2Proof.Machine
end

section
/-! Machine/Router.lean keeps the form of memory: the loop generator. -/
namespace Sys2Proof.Machine

theorem inv_rootCounter {t v : BitVec 9} {sparse : BitVec 1} {x : Ctx} {s : State} (h : Inv s) : Inv (rootCounter t v sparse x s) := by
  unfold rootCounter
  split
  · exact h
  extract_lets b c last idx r2
  rename_i s1 s2
  have h1 : Inv s1 := inv_modInst h
  have h2 : Inv s2 := inv_modSlot h1
  split
  · exact inv_takeTrap h
  · exact inv_emit h2

theorem inv_nestedCounter {adv sparse : BitVec 1} {x : Ctx} {g : Args} {s : State} (h : Inv s) :
    Inv (nestedCounter adv sparse x g s).state := inv_ite (inv_modSlot h) h

theorem inv_dropFeedback {x : Ctx} {s : State} (h : Inv s) : Inv (dropFeedback x s) := inv_ite (inv_flush (inv_modSlot h)) h

end Sys2Proof.Machine
end

section
/-! Machine/Sampler.lean keeps the form of memory: sequence contexts, candidates and the journal. -/
namespace Sys2Proof.Machine

theorem inv_ctxPut {s : State} {c off v : Nat} (h : Inv s) : Inv (s.ctxPut c off v) := inv_modMem (commitWrite_wf _ _ h)

theorem inv_ctxTrap {s : State} (h : Inv s) : Inv s.ctxTrap.state := by
  unfold State.ctxTrap
  split
  exact inv_trap ((inv_drawWord h).snd ‹_›)

theorem inv_onContext {x : Ctx} {w : Word} {op : Nat → State → Fire} {s : State} (hop : ∀ a t, Inv t → Inv (op a t).state) (h : Inv s) :
    Inv (onContext x w op s).state := by
  unfold onContext
  split
  · exact h
  · exact hop _ _ h

theorem inv_atContext {x : Ctx} {w : Word} {op : Nat → State → Fire} {s : State} (hop : ∀ a t, Inv t → Inv (op a t).state) (h : Inv s) :
    Inv (atContext x w op s).state := by
  unfold atContext
  extract_lets a
  split
  · exact h
  split
  · exact h
  split
  · exact h
  · exact hop _ _ h

theorem inv_topkElem {x : Ctx} {sp a : Nat} {bf : Bool} {s : State} (h : Inv s) : (topkElem x sp a bf s).Upholds := by
  unfold topkElem
  extract_lets n
  split
  · rename_i s1 e
    have h1 : Inv s1 := (inv_locate h).snd e
    split
    · split
      · exact h1
      · exact inv_readLoc h1
    · split
      · exact h1
      · exact inv_readLoc h1
  · exact inv_readLoc ((inv_locate h).snd ‹_›)
  · exact inv_failLoc_getD ((inv_locate h).snd ‹_›)

theorem inv_topkRead {x : Ctx} {sp a k i n : Nat} {bf x1 : Bool} {l : List Logit} {s : State} (h : Inv s) :
    (topkRead x sp a bf k i n l x1 s).Upholds := by
  induction n generalizing x sp a bf k i l x1 s with
  | zero => exact h
  | succ n ih =>
    unfold topkRead
    split
    · exact (inv_topkElem h).bad ‹_›
    · exact ih ((inv_topkElem h).ok ‹_›)

theorem inv_topk {sp : Nat} {x : Ctx} {g : Args} {s : State} (h : Inv s) : Inv (topk sp x g s).state := by
  unfold topk
  extract_lets b n bf a
  split
  · exact h
  split
  · exact h
  split
  rename_i s1 e
  have h1 : Inv s1 := (inv_locate h).snd e
  refine inv_checked (inv_failLoc h1) ?_
  split
  rename_i s2 e1
  have h2 : Inv s2 := (inv_locate h1).snd e1
  refine inv_checked (inv_failLoc h2) ?_
  split
  · exact (inv_topkRead h2).bad ‹_›
  rename_i s3 e2
  have h3 : Inv s3 := (inv_topkRead h2).ok e2
  extract_lets m
  rename_i s4 s5 s6
  have h4 : Inv s4 := inv_modMem (commitWrite_wf _ _ h3)
  have h5 : Inv s5 := inv_ctxPut h4
  have h6 : Inv s6 := inv_ite (inv_raise h5) h5
  split
  · exact inv_ctxTrap h3
  · exact inv_owed (inv_pushReply h6)

theorem inv_jrnl {x : Ctx} {g : Args} {s : State} (h : Inv s) : Inv (jrnl x g s).state := by
  unfold jrnl
  refine inv_onContext (fun _ _ h1 => ?_) h
  extract_lets b
  split
  · exact h1
  split
  · exact inv_ctxTrap h1
  split
  · exact h1
  split
  · exact inv_ctxTrap h1
  · exact inv_value (inv_ctxPut (inv_ctxPut h1))

theorem inv_keepEntries {s : State} {c : Nat} {keep : List Nat} (h : Inv s) : Inv (s.keepEntries c keep) :=
  inv_ite h (inv_ctxPut (inv_modMem (commitWrite_wf _ _ h)))

theorem inv_countToken {s : State} {c tok : Nat} (h : Inv s) : Inv (s.countToken c tok) := inv_ctxPut h

theorem inv_onJournal {x : Ctx} {g : Args} {op : Nat → List Nat → List Nat → State → Fire} {s : State}
    (hop : ∀ a l m t, Inv t → Inv (op a l m t).state) (h : Inv s) :
    Inv (onJournal x g op s).state := by
  unfold onJournal
  refine inv_onContext (fun _ _ h1 => ?_) h
  extract_lets m
  split
  · exact h1
  split
  · exact inv_ctxTrap h1
  · exact hop _ _ _ _ h1

theorem inv_jcommit {c : Nat} {e keep : List Nat} {s : State} (h : Inv s) : Inv (jcommit c e keep s).state := by
  unfold jcommit
  extract_lets toks new free
  split
  · exact inv_ctxTrap h
  split
  · exact h
  · exact inv_value (inv_keepEntries (inv_foldl (fun _ _ => inv_countToken) h))

theorem inv_pen {sf rep pres freq : Bool} {x : Ctx} {g : Args} {s : State} (h : Inv s) : Inv (pen sf rep pres freq x g s).state := by
  unfold pen
  refine inv_onContext (fun _ _ h1 => ?_) h
  extract_lets m
  rename_i s1
  have h11 : Inv s1 := inv_foldl (fun _ _ => inv_ctxPut) h1
  split
  · exact h1
  split
  · exact inv_ctxTrap h1
  split
  · exact h1
  split
  · exact h1
  split
  · exact h1
  · exact inv_value (inv_ite h11 (inv_raise h11))

theorem inv_readBits {x : Ctx} {areg : Bool} {b : Nat} {l : List Nat} {s : State} (h : Inv s) : (readBits x areg b l s).Upholds := by
  induction l generalizing x areg b s with
  | nil => exact h
  | cons e l ih =>
    unfold readBits
    split
    · rename_i s1 e1
      have h1 : Inv s1 := (inv_locateVa h).snd e1
      split
      · exact h1
      split
      · exact (inv_readLoc h1).bad ‹_›
      rename_i s2 e2
      have h2 : Inv s2 := (inv_readLoc h1).ok e2
      split
      · exact (ih h2).bad ‹_›
      · exact (ih h2).ok ‹_›
    · exact inv_failLoc_getD ((inv_locateVa h).snd ‹_›)

theorem inv_gmask {areg : Bool} {x : Ctx} {g : Args} {s : State} (h : Inv s) : Inv (gmask areg x g s).state := by
  unfold gmask
  refine inv_onContext (fun _ _ h1 => ?_) h
  split
  · exact h1
  extract_lets cands
  split
  · exact inv_ctxTrap h1
  split
  · exact (inv_readBits h1).bad ‹_›
  · exact inv_owed (inv_pushReply (inv_foldl (fun _ _ => inv_ctxPut) ((inv_readBits h1).ok ‹_›)))

theorem inv_copyGrammar {c src dst : Nat} {result : Nat → Word} {s : State} (h : Inv s) : Inv (copyGrammar c src dst result s).state := by
  unfold copyGrammar
  split
  · exact inv_ctxTrap h
  split
  · exact h
  · exact inv_value (inv_modMem (commitWrite_wf _ _ h))

theorem inv_onNode {x : Ctx} {g : Args} {op : Nat → Nat → State → Fire} {s : State} (hop : ∀ a c t, Inv t → Inv (op a c t).state)
    (h : Inv s) :
    Inv (onNode x g op s).state := by
  unfold onNode
  refine inv_onContext (fun _ _ h1 => ?_) h
  extract_lets n
  split
  · exact h1
  · exact hop _ _ _ h1

theorem inv_draw {sf greedy : Bool} {x : Ctx} {g : Args} {s : State} (h : Inv s) : Inv (draw sf greedy x g s).state := by
  unfold draw
  refine inv_onContext (fun _ _ h1 => ?_) h
  extract_lets b
  rename_i done1 _ _ _ _ _ _
  have hdone1 : ∀ (fl : Flags) (w : Nat), Inv (done1 fl w).state := by
    intro fl w
    unfold done1
    exact inv_value (inv_ite h1 (inv_raise h1))
  split
  · exact h1
  split
  · exact inv_ctxTrap h1
  split
  · exact hdone1 _ _
  split
  · exact hdone1 _ _
  split
  · exact h1
  · exact hdone1 _ _

theorem inv_onTree {g : Args} {op : List (Nat × Nat) → Nat} {s : State} (h : Inv s) : Inv (onTree g op s).state := by
  unfold onTree
  extract_lets n
  split
  · exact h
  split
  · exact h
  · exact inv_value h

end Sys2Proof.Machine
end

section
/-! Machine/Tiles.lean keeps the form of memory: tile-tasks. -/
namespace Sys2Proof.Machine

theorem inv_tileDispatch {c : Nat} {s : State} (h : Inv s) : Inv (tileDispatch c s) := by
  unfold tileDispatch
  split
  · exact h
  split
  · exact h
  split
  · exact h
  split
  · exact h
  · exact (inv_takeHead h).wait ‹_›
  rename_i s1 _ _ e1
  have h1 : Inv s1 := (inv_takeHead h).entry e1
  extract_lets cancelled
  have hcancelled : Inv cancelled := inv_finishEntry h1
  rename_i s2 s3
  have h2 : Inv s2 := inv_ite hcancelled (inv_modChain h1)
  exact inv_ite hcancelled (inv_modMatrix (inv_modEng h2))

theorem inv_tileSteal {u : Nat} {s : State} (h : Inv s) : Inv (tileSteal u s) := by
  unfold tileSteal
  extract_lets x
  split
  · exact h
  split
  · exact h
  extract_lets best
  clear_value best
  split
  · exact h
  extract_lets i
  split
  · exact h
  · exact inv_modMatrix (inv_modMatrix h)

theorem inv_tileWrite {c : EngCtx} {shadow : Bool} {l : List (Nat × List Byte)} {s : State} (h : Inv s) :
    (tileWrite c shadow l s).Upholds := by
  induction l generalizing c shadow s with
  | nil => exact h
  | cons e l ih =>
    unfold tileWrite
    split
    · exact h
    · exact h
    · exact ih (inv_putAt h)

theorem inv_tileStore {c : EngCtx} {e : ChainEntry} {f : Flags} {l : List (Nat × List Byte)} {s : State} (h : Inv s) :
    (tileStore c e f l s).Upholds := by
  unfold tileStore
  split
  · exact (inv_tileWrite h).fault ‹_›
  · exact (inv_tileWrite h).wait ‹_›
  rename_i s1 e1
  have h1 : Inv s1 := (inv_tileWrite h).done e1
  split
  · split
    · exact (inv_publishRange h1).ok ‹_›
    · exact h
    · exact h1
    · exact h1
  · exact h1

theorem inv_tileRun {x : Chain} {e : ChainEntry} {started : Option (List (Nat × List Byte) × Flags)} {s : State} (h : Inv s) :
    (tileRun x e started s).Upholds := by
  unfold tileRun
  extract_lets c
  split
  · exact inv_tileStore h
  split
  · exact h
  split
  · exact h
  · exact h
  · exact inv_tileStore h

theorem inv_finishTile {s : State} {c code : Nat} {x : Chain} {e : ChainEntry} {f : Flags} (h : Inv s) :
    Inv (s.finishTile c x e code f) := by
  unfold State.finishTile
  extract_lets s1
  have h1 : Inv s1 := by
    unfold s1
    split
    · exact (inv_engWrite h).ok ‹_›
    · exact h
  exact inv_finishEntry h1

theorem inv_tileTask {u : Nat} {s : State} (h : Inv s) : Inv (tileTask u s) := by
  unfold tileTask
  extract_lets q
  split
  · exact h
  split
  · exact h
  extract_lets drop
  have hdrop : ∀ (s : State), Inv s → Inv (drop s) := by
    intro s1 h1
    unfold drop
    exact inv_modMatrix h1
  split
  · exact hdrop _ h
  split
  · exact hdrop _ h
  split
  · exact h
  split
  · extract_lets s1
    have h1 : Inv s1 := inv_finishEntry h
    exact inv_ite h1 (hdrop _ h1)
  · split
    · exact inv_finishEntry h
    split
    · exact (inv_tileRun h).later ‹_›
    · exact inv_chainWait (inv_modMatrix ((inv_tileRun h).wait ‹_›))
    · exact inv_finishTile (hdrop _ ((inv_tileRun h).code ‹_›))

end Sys2Proof.Machine
end

section
/-! Machine/Wash.lean keeps the form of memory: wash groups and loads. -/
namespace Sys2Proof.Machine

theorem inv_wgrpDef {x : Ctx} {g : Args} {s : State} (h : Inv s) : Inv (wgrpDef x g s).state := by
  unfold wgrpDef
  split
  · exact h
  extract_lets b base
  split
  · exact h
  split
  · exact h
  refine inv_checked (inv_readTrap h) ?_
  split
  rename_i s1 e
  have h1 : Inv s1 := (inv_load h).snd e
  extract_lets n
  split
  · exact h1
  refine inv_checked (inv_readTrap h1) ?_
  split
  rename_i s2 e1
  have h2 : Inv s2 := (inv_load h1).snd e1
  split
  rename_i s3 e2
  have h3 : Inv s3 := (inv_windowWords h2).snd e2
  split
  · exact h3
  split
  · exact h3
  · exact inv_value (inv_modSvc h3)

theorem inv_wgrpPresent {g : Args} {s : State} (h : Inv s) : Inv (wgrpPresent g s).state := by
  unfold wgrpPresent
  split
  · exact h
  split
  · exact h
  · exact inv_value (inv_modSvc h)

theorem inv_wgrpRel {g : Args} {s : State} (h : Inv s) : Inv (wgrpRel g s).state := by
  unfold wgrpRel
  split
  · exact h
  split
  · exact h
  · exact inv_value (inv_modSvc h)

theorem inv_washTrap {s : State} {d : WashDone} (h : Inv s) : Inv (s.washTrap d) := by
  unfold State.washTrap
  split
  · exact inv_ite (inv_takeTrap h) h
  · exact h

theorem inv_recordWashes {k n : Nat} {s : State} (h : Inv s) : Inv (recordWashes k n s) := by
  induction n generalizing k s with
  | zero => exact h
  | succ n ih =>
    unfold recordWashes
    extract_lets open_ mine
    split
    · exact h
    · exact ih (inv_washTrap (inv_modRegs (inv_modSvc h)))

theorem inv_washFlags {s : State} {k serial : Nat} {f : Flags} (h : Inv s) : Inv (s.washFlags k serial f) := by
  unfold State.washFlags
  split
  · exact h
  split
  · exact inv_ite (inv_raise h) (inv_modRun h)
  · exact inv_modRegs h

theorem inv_writeWash {s : State} {w : Wash} {res : List WashLane} (h : Inv s) : Inv (s.writeWash w res) := by
  unfold State.writeWash
  split
  · exact h
  · exact inv_modMem (setFulls_wf (localWrite_wf _ _ _ h))

theorem inv_finishWash {s : State} {w : Wash} (h : Inv s) : Inv (s.finishWash w) := by
  unfold State.finishWash
  split
  extract_lets mask low d s1 s2 s3
  have h3 : Inv s3 := inv_recordWashes (inv_modSvc (inv_washFlags (inv_ite (inv_writeWash h) h)))
  exact inv_ite h3 (inv_pushReply h3)

theorem inv_endWash {s : State} {n : Nat} {w : Wash} (h : Inv s) : Inv (s.endWash n w) := inv_ite h (inv_finishWash (inv_modSvc h))

theorem inv_washMemberRead {n j : Nat} {s : State} (h : Inv s) : Inv (washMemberRead n j s) := by
  unfold washMemberRead
  split
  · exact h
  split
  · exact inv_endWash h
  split
  · exact h
  extract_lets l w1 s1
  have h1 : Inv s1 := inv_modSvc (inv_portBeat h)
  exact inv_ite (inv_endWash h1) h1

theorem inv_issueWash {s : State} {w : Wash} {d : WashGroup} (h : Inv s) : Inv (s.issueWash w d) := by
  unfold State.issueWash
  extract_lets w1 n s1
  have h1 : Inv s1 := inv_modSvc (inv_strokeBeat h)
  exact inv_ite (inv_endWash h1) h1

theorem inv_wash {wide pt : Bool} {ty op : Nat} {x : Ctx} {g : Args} {s : State} (h : Inv s) : Inv (wash wide pt ty op x g s).state := by
  unfold wash
  extract_lets a b soff grp bytes
  split
  · exact h
  split
  · exact h
  split
  · exact h
  split
  · exact h
  split
  · exact h
  extract_lets s1
  have h1 : Inv s1 := inv_issueWash (inv_modRun h)
  split
  · exact inv_value h1
  · exact h1

theorem inv_issueLate {k : Nat} {s : State} (h : Inv s) : Inv (issueLate k s) := by
  unfold issueLate
  split
  · exact h
  split
  · exact h
  split
  · exact h
  · exact inv_issueWash (inv_modRun h)

theorem inv_pumpWashes {s : State} (h : Inv s) : Inv s.pumpWashes := inv_foldl (fun _ _ h1 => inv_ite h1 (inv_issueLate h1)) h

end Sys2Proof.Machine
end

section
/-! Machine/Choose.lean keeps the form of memory: what settles after a step. -/
namespace Sys2Proof.Machine

theorem inv_settle {s : State} {p : Pick} {f : Nat} (h : Inv s) : Inv (s.settle p f) :=
  inv_ite h (inv_record (inv_pumpLinks (inv_pumpWashes (inv_pumpMoves (inv_pumpActs (inv_latchWatchers h))))))

end Sys2Proof.Machine
end

section
/-! Machine/Dispatch.lean: each instruction, asked through `fire` or answered at once, and each event keeps the form. -/
namespace Sys2Proof.Machine

theorem inv_execSel {t v : BitVec 9} {s : State} (h : Inv s) : Answers (execSel t v s) := by
  unfold execSel
  refine inv_fire (fun _ _ _ h1 => ?_) h
  split <;> exact inv_result h1

theorem inv_execCtr {t v : BitVec 9} {a sp : BitVec 1} {s : State} (h : Inv s) : Answers (execCtr t v a sp s) := by
  unfold execCtr
  split
  · split
    · exact inv_rootCounter h
    · exact inv_fire (fun _ _ _ => inv_nestedCounter) h
  · exact h

theorem inv_execFence {t : BitVec 9} {p : BitVec 2} {a w : BitVec 1} {s : State} (h : Inv s) : Answers (execFence t p a w s) := by
  unfold execFence
  refine inv_fire (fun _ _ _ h1 => ?_) h
  split
  · exact h1
  · exact inv_value (inv_ite (inv_beginPhase h1) h1)

theorem inv_execAccz {t : BitVec 9} {p : BitVec 2} {s : State} (h : Inv s) : Answers (execAccz t p s) := by
  unfold execAccz
  refine inv_fire (fun _ _ _ h1 => ?_) h
  split
  · exact h1
  · exact inv_enqueue h1

theorem inv_execKld {t : BitVec 9} {k : BitVec 3} {p : BitVec 2} {s : State} (h : Inv s) : Answers (execKld t k p s) := by
  unfold execKld
  refine inv_fire (fun _ _ _ h1 => ?_) h
  extract_lets a
  split
  · exact h1
  split
  · exact h1
  · exact inv_enqueue h1

theorem inv_execRtset {t : BitVec 9} {r : BitVec 4} {p : BitVec 2} {s : State} (h : Inv s) : Answers (execRtset t r p s) := by
  unfold execRtset
  refine inv_fire (fun _ _ _ h1 => ?_) h
  split
  · exact h1
  · exact inv_value (inv_modMatrix h1)

theorem inv_execLwait {t : BitVec 9} {p : BitVec 2} {y : BitVec 1} {s : State} (h : Inv s) : Answers (execLwait t p y s) := by
  unfold execLwait
  refine inv_fire (fun _ _ _ h1 => ?_) h
  split
  · exact inv_value h1
  split
  · exact inv_result h1
  · exact h1

theorem inv_execSteer {t v : BitVec 9} {s : State} (h : Inv s) : Answers (execSteer t v s) := by
  unfold execSteer
  refine inv_fire (fun _ _ _ h1 => ?_) h
  split
  · exact inv_result h1
  · split <;> exact h1

theorem inv_execMerge {t v : BitVec 9} {s : State} (h : Inv s) : Answers (execMerge t v s) := by
  unfold execMerge
  refine inv_fire (fun _ _ _ h1 => ?_) h
  split <;> exact inv_result h1

theorem inv_execCarry {t v : BitVec 9} {s : State} (h : Inv s) : Answers (execCarry t v s) := by
  unfold execCarry
  extract_lets s1
  have h1 : Inv s1 := by
    unfold s1
    split
    · exact inv_dropFeedback h
    · exact h
  refine inv_fire (fun _ _ _ h2 => ?_) h1
  exact inv_result (inv_modSlot h2)

theorem inv_execChsend {t : BitVec 9} {p : BitVec 2} {s : State} (h : Inv s) : Answers (execChsend t p s) := by
  unfold execChsend
  refine inv_fire (fun _ _ _ h1 => ?_) h
  split
  · exact h1
  · exact inv_owed (inv_sendWord h1)

theorem inv_execSeqrd {t : BitVec 9} {p : BitVec 2} {s : State} (h : Inv s) : Answers (execSeqrd t p s) := by
  unfold execSeqrd
  refine inv_fire (fun _ _ _ h1 => ?_) h
  split
  · exact h1
  split
  · exact (inv_seqAt h1).bad ‹_›
  · exact inv_value ((inv_seqAt h1).ok ‹_›)

theorem inv_execSqchk {t : BitVec 9} {p r : BitVec 2} {s : BitVec 3} {s1 : State} (h : Inv s1) : Answers (execSqchk t p r s s1) := by
  unfold execSqchk
  refine inv_fire (fun _ _ _ h1 => ?_) h
  split
  · exact h1
  · exact inv_sqchk h1

theorem inv_execCandld {t : BitVec 9} {p : BitVec 2} {s : State} (h : Inv s) : Answers (execCandld t p s) := by
  unfold execCandld
  refine inv_fire (fun _ _ _ h1 => inv_atContext (fun _ _ h2 => ?_) h1) h
  split
  · exact inv_ctxTrap h2
  · exact inv_value h2

theorem inv_execCandst {t : BitVec 9} {p : BitVec 2} {s : State} (h : Inv s) : Answers (execCandst t p s) := by
  unfold execCandst
  refine inv_fire (fun _ _ _ h1 => inv_atContext (fun _ _ h2 => ?_) h1) h
  split
  · exact inv_ctxTrap h2
  · exact inv_value (inv_ctxPut h2)

theorem inv_execRngseed {t : BitVec 9} {p n : BitVec 2} {s : State} (h : Inv s) : Answers (execRngseed t p n s) := by
  unfold execRngseed
  refine inv_fire (fun _ _ _ h1 => inv_onContext (fun _ _ h2 => ?_) h1) h
  extract_lets q
  split
  · exact inv_ctxTrap h2
  · exact inv_value (inv_ctxPut (inv_modMem (commitWrite_wf _ _ h2)))

theorem inv_execRngnext {t : BitVec 9} {p n : BitVec 2} {s : State} (h : Inv s) : Answers (execRngnext t p n s) := by
  unfold execRngnext
  refine inv_fire (fun _ _ _ h1 => inv_onContext (fun _ _ h2 => ?_) h1) h
  extract_lets q
  split
  · exact inv_ctxTrap h2
  split
  · exact inv_value (inv_ctxPut (inv_ctxPut h2))
  · exact inv_value (inv_ctxPut h2)

theorem inv_execTlbprobe {t : BitVec 9} {p : BitVec 2} {h1 : BitVec 1} {s : State} (h : Inv s) : Answers (execTlbprobe t p h1 s) := by
  unfold execTlbprobe
  refine inv_fire (fun _ _ _ h2 => ?_) h
  split
  · exact h2
  · exact inv_probe h2

theorem inv_execModuleReset {boot : Option Boot} {version : BitVec 32} {s : State} : Answers (execModuleReset boot version s) := by
  unfold execModuleReset
  extract_lets src r r'
  have hr : Inv r := reset_mem_wf
  have hr' : Inv r' := by
    unfold r'
    split
    · exact inv_bringUp hr
    · exact hr
  exact answers_next (inv_csrPut hr')

theorem inv_execHostMemWrite {line off : Nat} {data : List Byte} {s : State} (h : Inv s) : Answers (execHostMemWrite line off data s) := by
  unfold execHostMemWrite
  split
  · exact inv_modMem (commitWrite_wf _ _ h)
  · exact h

theorem inv_execHostMemRead {line off n : Nat} {s : State} (h : Inv s) : Answers (execHostMemRead line off n s) := by
  unfold execHostMemRead
  split
  · exact inv_modPlat h
  · exact h

/-- Every instruction and every event keeps the form of memory: what fires does so through `inv_fire`, an event answers a next state. -/
theorem inv_exec {i : Instr} {s : State} (h : Inv s) : Answers (exec i s) := by
  cases i <;> dsimp only [exec]
  case get | movi | mov | movx | addi | andi | ori | xori | clz | popc | cmp | bfx | bfi | lea | fneg | fabs | fclass | rdflg | rngn |
      bperm | cparg | tagrd =>
    exact inv_fire (fun _ _ _ => inv_value) h
  case put => exact inv_fire (fun _ _ _ h1 => inv_send (inv_modSlot h1)) h
  case null | gate => exact inv_fire (fun _ _ _ => inv_result) h
  case recv => exact inv_fire (fun _ _ _ => inv_recv) h
  case sel => exact inv_execSel h
  case bra | bri | call | ret | exit | park => exact inv_fire (fun _ _ _ => inv_exitFires) h
  case ctr => exact inv_execCtr h
  case add | sub | mul | mulh | neg | min | max => exact inv_fire (fun _ _ _ => inv_intOp2) h
  case div | rem | adds | subs => exact inv_fire (fun _ _ _ => inv_intOpF) h
  case and | or | xor | andn | not => exact inv_fire (fun _ _ _ => inv_intOpB) h
  case shl | shr | asr | shli | shri | asri => exact inv_fire (fun _ _ _ => inv_intShift) h
  case fadd | fsub | fmul | ffma | fmin | fmax | pdot | rcp | rsq | exp2 | log2 | tanh => exact inv_fire (fun _ _ _ => inv_fpOut) h
  case fcmp | padd | pmul | pfma | cvt | srnd => exact inv_fire (fun _ _ _ => inv_flagged) h
  case clrflg => exact inv_fire (fun _ _ _ h1 => inv_value (inv_modInst h1)) h
  case ld => exact inv_fire (fun _ _ _ => inv_ld) h
  case st => exact inv_fire (fun _ _ _ => inv_st) h
  case ldv => exact inv_fire (fun _ _ _ => inv_ldv) h
  case stv => exact inv_fire (fun _ _ _ => inv_stv) h
  case feset => exact inv_fire (fun _ _ _ => inv_feset) h
  case cbinit => exact inv_fire (fun _ _ _ => inv_cbinit) h
  case cbwait | cbrsv => exact inv_fire (fun _ _ _ => inv_cbAwait) h
  case cbadv => exact inv_fire (fun _ _ _ => inv_cbadv) h
  case sbind => exact inv_fire (fun _ _ _ => inv_sbind) h
  case bset => exact inv_fire (fun _ _ _ h1 => inv_value (inv_modUnit h1)) h
  case aadd | amin | amax | aand | aor | axor | aswp | acas => exact inv_fire (fun _ _ _ => inv_scalarAtomic) h
  case aaddv | aminv | amaxv | aandv | aorv | axorv | aswpv => exact inv_fire (fun _ _ _ => inv_vectorAtomic) h
  case afadd => exact inv_fire (fun _ _ _ => inv_afadd) h
  case afinit => exact inv_fire (fun _ _ _ => inv_afinit) h
  case phase => exact inv_fire (fun _ _ _ => inv_phase) h
  case fence => exact inv_execFence h
  case publish => exact inv_fire (fun _ _ _ => inv_publish) h
  case mda | mdb => exact inv_fire (fun _ _ _ => inv_setDesc) h
  case mma => exact inv_fire (fun _ _ _ => inv_mma) h
  case accrd | accwr => exact inv_fire (fun _ _ _ => inv_accMove) h
  case accz => exact inv_execAccz h
  case kld => exact inv_execKld h
  case drain => exact inv_fire (fun _ _ _ => inv_drain) h
  case rtset => exact inv_execRtset h
  case mstat => exact inv_fire (fun _ _ _ h1 => inv_value (inv_ite (inv_modMatrix h1) h1)) h
  case lcfg => exact inv_fire (fun _ _ _ => inv_lcfg) h
  case lrun => exact inv_fire (fun _ _ _ => inv_lrun) h
  case lwait => exact inv_execLwait h
  case lstat => exact inv_fire (fun _ _ _ h1 => inv_value (inv_ite (inv_modUnit h1) h1)) h
  case steer => exact inv_execSteer h
  case merge => exact inv_execMerge h
  case carry => exact inv_execCarry h
  case invar | rrmerge => exact inv_fire (fun _ _ _ h1 => inv_result (inv_modSlot h1)) h
  case hset => exact inv_fire (fun _ _ _ => inv_hset) h
  case hmask => exact inv_fire (fun _ _ _ => inv_hmask) h
  case hclr => exact inv_fire (fun _ _ _ => inv_hclr) h
  case chsend => exact inv_execChsend h
  case chmcast => exact inv_fire (fun _ _ _ => inv_chmcast) h
  case inrd => exact inv_fire (fun _ _ _ => inv_inrd) h
  case bara | barw => exact inv_fire (fun _ _ _ => inv_arrive) h
  case chapp => exact inv_fire (fun _ _ _ => inv_chapp) h
  case seqwait => exact inv_fire (fun _ _ _ => inv_seqwait) h
  case seqrd => exact inv_execSeqrd h
  case wgrpDef => exact inv_fire (fun _ _ _ => inv_wgrpDef) h
  case wgrpPresent => exact inv_fire (fun _ _ _ => inv_wgrpPresent) h
  case wgrpRel => exact inv_fire (fun _ _ _ => inv_wgrpRel) h
  case wld | wlds => exact inv_fire (fun _ _ _ => inv_wash) h
  case wstat => exact inv_fire (fun _ _ _ h1 => inv_value (inv_ite (inv_modRegs h1) h1)) h
  case cpdef => exact inv_fire (fun _ _ _ => inv_cpdef) h
  case cpdefRel => exact inv_fire (fun _ _ _ => inv_cpdefRel) h
  case cpcall => exact inv_fire (fun _ _ _ => inv_cpcall) h
  case cpread => exact inv_fire (fun _ _ _ => inv_cpread) h
  case cpwait => exact inv_fire (fun _ _ _ => inv_cpwait) h
  case cptrim => exact inv_fire (fun _ _ _ => inv_cptrim) h
  case cpstat => exact inv_fire (fun _ _ _ => inv_cpstat) h
  case cpret => exact inv_fire (fun _ _ _ => inv_cpret) h
  case guess => exact inv_fire (fun _ _ _ => inv_guess) h
  case launch => exact inv_fire (fun _ _ _ => inv_launch) h
  case sqchk => exact inv_execSqchk h
  case sqregChan => exact inv_fire (fun _ _ _ => inv_sqregChan) h
  case sqregRows => exact inv_fire (fun _ _ _ => inv_sqregRows) h
  case sqregRel => exact inv_fire (fun _ _ _ => inv_sqregRel) h
  case kvwr => exact inv_fire (fun _ _ _ => inv_kvwr) h
  case topk => exact inv_fire (fun _ _ _ => inv_topk) h
  case candld => exact inv_execCandld h
  case candst => exact inv_execCandst h
  case rngseed => exact inv_execRngseed h
  case rngnext => exact inv_execRngnext h
  case draw => exact inv_fire (fun _ _ _ => inv_draw) h
  case pen => exact inv_fire (fun _ _ _ => inv_pen) h
  case jrnl => exact inv_fire (fun _ _ _ => inv_jrnl) h
  case jcommit => exact inv_fire (fun _ _ _ h1 => inv_onJournal (fun _ _ _ _ => inv_jcommit) h1) h
  case jdrop => exact inv_fire (fun _ _ _ h1 => inv_onJournal (fun _ _ _ _ h2 => inv_value (inv_keepEntries h2)) h1) h
  case gmask => exact inv_fire (fun _ _ _ => inv_gmask) h
  case gsnap | grest => exact inv_fire (fun _ _ _ h1 => inv_onNode (fun _ _ _ => inv_copyGrammar) h1) h
  case tmask | tdepth => exact inv_fire (fun _ _ _ => inv_onTree) h
  case tmload => exact inv_fire (fun _ _ _ => inv_tmload) h
  case trap => exact inv_fire (fun _ _ _ h1 => inv_trap (inv_modSlot h1)) h
  case rft => exact inv_fire (fun _ _ _ => inv_rft) h
  case csrr => exact inv_fire (fun _ _ _ => inv_csrr) h
  case csrw => exact inv_fire (fun _ _ _ => inv_csrw) h
  case freeze => exact inv_fire (fun _ _ _ => inv_freeze) h
  case thaw => exact inv_fire (fun _ _ _ => inv_thaw) h
  case ctxout | ctxoutDrop => exact inv_fire (fun _ _ _ => inv_ctxout) h
  case ctxin => exact inv_fire (fun _ _ _ => inv_ctxin) h
  case tlbinv => exact inv_fire (fun _ _ _ => inv_tlbinv) h
  case tlbprobe => exact inv_execTlbprobe h
  case cfginv => exact inv_fire (fun _ _ _ => inv_cfginv) h
  case halt => exact inv_fire (fun _ _ _ h1 => inv_send (inv_modInst h1)) h
  case memoryReply => exact answers_next (inv_memoryReply h)
  case copyRebuilt => exact answers_next (inv_copyRebuilt h)
  case configImageReloaded => exact answers_next (inv_configImageReloaded h)
  case gatewayRefill => exact answers_next (inv_modPlat h)
  case moduleReset => exact inv_execModuleReset
  case hostMemWrite => exact inv_execHostMemWrite h
  case hostMemRead => exact inv_execHostMemRead h
  case doorbellAddress => exact answers_next (inv_setDoorbell h)
  case doorbellAppend => exact answers_next (inv_doorbellAppend h)
  case uncorrectableError => exact answers_next (inv_uncorrectableError h)
  case blockFetch => exact answers_next (inv_blockFetch h)
  case blockCommit => exact answers_next (inv_blockCommit h)
  case nocommit => exact answers_next (inv_noCommit h)
  case selector => exact answers_next (inv_selector h)
  case handlerAging => exact answers_next (inv_handlerAging h)
  case forcedYield => exact answers_next (inv_forcedYield h)
  case channelWordArrival => exact answers_next (inv_ite h (inv_arriveWord h))
  case inboxRetry => exact answers_next (inv_ite (inv_arriveWord h) h)
  case updateWordAbsorb => exact answers_next (inv_absorbUpdate h)
  case pageArrivalAbsorb => exact answers_next (inv_pageArrivalAbsorb h)
  case mcastReplicate => exact answers_next (inv_mcastReplicate h)
  case streamReadAhead => exact answers_next (inv_streamReadAhead h)
  case streamOutStore => exact answers_next (inv_streamOutStore h)
  case taskDispatch => exact answers_next (inv_taskDispatch h)
  case chainAging => exact answers_next (inv_chainAging h)
  case taskComplete => exact answers_next (inv_taskComplete h)
  case completionWrite => exact answers_next (inv_completionWrite h)
  case chainEntryReread => exact answers_next (inv_modChain h)
  case copyEntry => exact answers_next (inv_copyEntry h)
  case swapOut => exact answers_next (inv_swapOut h)
  case swapIn => exact answers_next (inv_swapIn h)
  case barrierGenerationComplete => exact answers_next (inv_barrierComplete h)
  case roundMarkerIssue => exact answers_next (inv_roundMarkerIssue h)
  case regionRoundEdge => exact answers_next (inv_regionRoundEdge h)
  case laneRunStart => exact answers_next (inv_laneRunStart h)
  case laneRunComplete => exact answers_next (inv_laneRunComplete h)
  case matrixEntryExecute => exact answers_next (inv_matrixEntryExecute h)
  case matrixEntryComplete => exact answers_next (inv_matrixEntryComplete h)
  case tileDispatch => exact answers_next (inv_tileDispatch h)
  case tileSteal => exact answers_next (inv_tileSteal h)
  case tileTask => exact answers_next (inv_tileTask h)
  case tileTaskAged => exact answers_next (inv_modMatrix h)
  case atomicApply => exact answers_next (inv_atomicApply h)
  case afaddApply => exact answers_next (inv_afaddApply h)
  case afinitApply => exact answers_next (inv_afinitApply h)
  case scTokenVisit => exact answers_next (inv_scTokenVisit h)
  case phaseBoundaryComplete => exact answers_next (inv_phaseBoundaryComplete h)
  case phaseovf => exact answers_next (inv_phaseovf h)
  case washMemberRead => exact answers_next (inv_washMemberRead h)
  case copybookAppend => exact answers_next (inv_copybookAppend h)
  case scribeApply => exact answers_next (inv_scribeApply h)
  case squashAbsorb => exact answers_next (inv_squashAbsorb h)
  case pageRequest => exact answers_next (inv_pageRequest h)
  case enginePageRewalk => exact answers_next (inv_enginePageRewalk h)
  case seqWatcherWake => exact answers_next (inv_seqWatcherWake h)
  case seqOverflowScan => exact answers_next (inv_seqOverflowScan h)
  case roundWrite | ownrngWrite | wellshareWrite | smpctxAssign | smpctxUnassign | jobkill | prqWrite | nibpartWrite | keyslotLoad |
      keyslotErase | swqWrite | roletabWrite | replayWrite =>
    exact answers_next (inv_csrEvent h)
  case bandwidthRefill => exact answers_next (inv_ite (inv_bandwidthRefill h) h)
  case slewStep => exact answers_next (inv_ite (inv_slewStep h) h)
  case routerPowerGate | routerWake | wellRowRemap | attestNonce | clockChange | ucieLinkTraining =>
    exact answers_next (inv_ite (inv_modPlat h) h)
  case correctableError => exact answers_next (inv_correctableError h)
  case configStoreError => exact answers_next (inv_ite (inv_reportUncorrectable (inv_configStoreError h)) h)
  case dieLinkFlit => exact answers_next (inv_ite (inv_flit h) h)
  case wydalFlit => exact answers_next (inv_wydalFlit h)
  case peerWordArrival => exact answers_next (inv_peerWordArrival h)
  case linkLaneRetrain => exact answers_next (inv_ite (inv_foldl (fun _ _ => inv_setLink) h) h)
  case laneSpareRemap => exact answers_next (inv_ite (inv_modUnit h) h)
  case hostSnoop => exact answers_next (inv_ite (inv_modMem (commitWrite_wf _ _ h)) h)
  case doorbellResultRead | doorbellStatusRead => exact answers_next (inv_toHost h)
  case peerMemoryAccess => exact answers_next (inv_peerMemoryAccess h)

end Sys2Proof.Machine
end

section
/-! Every step keeps the form of memory: what is picked, what it does, and what settles after it. -/
namespace Sys2Proof.Machine

theorem answers_ite {c : Prop} [Decidable c] {x y : Host.Outcome State Fault Refusal} (hx : Answers x) (hy : Answers y) :
    Answers (if c then x else y) := by
  split <;> assumption

/-- A pick changes memory only by what it does: the state it is taken from is left as it was. -/
theorem nextPick_mem {s t : State} {p : Pick} (h : s.nextPick = some (p, t)) : t.mem = s.mem := by
  unfold State.nextPick at h
  split at h
  · cases h
    rfl
  · cases h
    rfl
  · obtain ⟨_, _, heq⟩ := Option.map_eq_some_iff.mp h
    cases heq
    rfl

theorem inv_nextPick {s t : State} {p : Pick} (h : Inv s) (hp : s.nextPick = some (p, t)) : Inv t := by
  unfold Inv
  rw [nextPick_mem hp]
  exact h

/-- The slot of a stroke fires the instruction it holds, in the state that says which slot is on. -/
theorem inv_performSlot {k n : Nat} {stale : Bool} {s : State} (h : Inv s) : Answers (perform (.slot k n stale) s) := by
  refine answers_ite h ?_
  split
  · exact inv_exec h
  · exact h

theorem inv_performEvent {i : Instr} {s : State} (h : Inv s) : Answers (perform (.event i) s) := by
  unfold perform
  split
  · exact inv_exec h
  · exact answers_ite h (inv_exec h)
  all_goals contradiction

theorem inv_perform {p : Pick} {s : State} (h : Inv s) : Answers (perform p s) := by
  cases p with
  | event i => exact inv_performEvent h
  | slot k n stale => exact inv_performSlot h
  | fix k key => exact answers_next (inv_ite h (inv_loadBytes h))
  | freeze n => exact answers_next (inv_ite h (inv_freezeDone h))
  | hdm d base => exact answers_next (inv_ite h (inv_setHdm h))
  | mailbox off n => exact answers_next (inv_ite h (inv_mailboxRead h))
  | newJob job part region prio => exact answers_next (inv_ite h (inv_newJob h))
  | newChain job kind slab engine chain region => exact answers_next (inv_ite h (inv_newChain h))
  | slew slab => exact answers_next (inv_ite h (inv_slewStep h))
  | message peer m => exact answers_next (inv_ite h (inv_peerMessage h))
  | evict n => exact answers_next (inv_ite h (inv_evictTlb h))
  | predecode k addr => exact answers_next (inv_ite h (inv_predecode h))

theorem inv_idle {s : State} (h : Inv s) : Inv s.idle := inv_ite h h

theorem answers_after {p : Pick} {f : Nat} {x : Host.Outcome State Fault Refusal} (h : Answers x) : Answers (State.after p f x) := by
  cases x with
  | next s => exact inv_settle h
  | _ => trivial

theorem answers_step {s : State} (h : Inv s) : Answers (step s) := by
  unfold step
  split
  · exact answers_after (inv_perform (inv_nextPick h ‹_›))
  · exact inv_idle h

end Sys2Proof.Machine
end

section
open Sys2Proof Sys2Proof.Machine

/-- Settles O3: each shared operation writes memory through the writes that keep its form (`localWrite_wf`, `commitWrite_wf`, `home_wf`), so
each instruction and event does, and each step. -/
theorem stepKeepsInv : Obligations.StepKeepsInv := by
  intro s t hs ht
  have h : Answers (step s) := answers_step hs
  rw [ht] at h
  exact h

end

section
/-! The links, errors, power and reset of the platform: the claim's terms for them are the model's operations, and each event of the
claim's table answers the state that the table gives (O58). -/
namespace Sys2Proof.Machine
open Sys2Proof.Claim

/-! ## Reports and counts of errors (R418–R421) -/

theorem bits_from_zero (x hi : Nat) : bits x hi 0 = x % 2 ^ (hi + 1) := by
  simp [bits]

theorem reported_eq (s : State) (ue : Bool) (kind slab unit : Nat) : reported s ue kind slab unit = s.reportError ue kind slab unit := rfl

theorem lost_eq (s : State) (kind slab unit loc : Nat) : lost s kind slab unit loc = s.reportUncorrectable kind slab unit loc := rfl

theorem corrected_eq (s : State) {kind slab : Nat} (unit : Nat) (hk : kind ≤ 10) (hs : slab ≤ 11) :
    corrected s kind slab unit = correctableError kind slab unit s := by
  have hr : (decide (kind > 10) || decide (slab > 11)) = false := by simp [hk, hs]
  simp only [corrected, correctableError, hr, bits_from_zero, reported_eq, beq_iff_eq, Bool.false_eq_true, if_false, Nat.reduceAdd]

theorem poisonFrom_eq_foldl (m : Memory) (key n : Nat) :
    m.poisonFrom key n = (List.range n).foldl (fun (m : Memory) i => { m with poison := tabPut m.poison (key / 4 + i) true }) m := by
  induction n generalizing m key with
  | zero => rfl
  | succ n ih =>
    have hk (i : Nat) : (key + 4) / 4 + i = key / 4 + (i + 1) := by omega
    simp only [Memory.poisonFrom, ih, List.range_succ_eq_map, List.foldl_cons, List.foldl_map, hk, Nat.add_zero]

theorem poisonedAt_eq (s : State) (key n : Nat) : poisonedAt s key n = s.poisonAt key n := by
  unfold State.poisonAt
  rw [funext fun m => poisonFrom_eq_foldl m (key / n * n) (n / 4)]
  rfl

theorem imageLost_eq (s : State) (u addr : Nat) : imageLost s u addr = configStoreError u addr s := by
  simp only [imageLost, configStoreError, List.foldl_map, Bool.not_eq_true', beq_iff_eq, State.modUnit_strokes]

theorem uncorrectableError_eq {kind slab : Nat} (unit loc : Nat) (s : State) (hk : kind ≤ 10) (hs : slab ≤ 11) :
    uncorrectableError kind slab unit loc s = lost (s.strike kind slab unit loc) kind slab unit loc := by
  have hr : ¬(decide (kind > 10) || decide (slab > 11)) = true := by simp [hk, hs]
  exact if_neg hr

/-- The image of a block, damaged or not, leaves the unit's config store before it is decoded again. -/
def State.dropImage (s : State) (u addr : Nat) : State :=
  s.modUnit u fun x => { x with images := x.images.filter (·.addr != addr), badImages := x.badImages.filter (· != addr) }

section
variable {u addr : Nat} {s : State} (hbad : (s.unit u).badImages.contains addr = true)
include hbad

theorem configImageReloaded_of_no_stroke (hnone : (s.strokes.filter fun e => unitOf e.1 == u && e.2.onBlock addr) = []) :
    configImageReloaded u addr s = s.dropImage u addr := by
  simp only [configImageReloaded, hbad, Bool.not_true, Bool.false_eq_true, if_false, State.modUnit_strokes, hnone, List.map_nil]
  rfl

theorem configImageReloaded_of_one_stroke {k : Nat} {x : Stroke} {new : Image} {t : State} {i : Instance}
    (hone : (s.strokes.filter fun e => unitOf e.1 == u && e.2.onBlock addr) = [(k, x)])
    (himage : (s.dropImage u addr).image k addr = (.ok new, t)) (hinst : t.inst k = some i) :
    configImageReloaded u addr s = t.afterReload k (Config.imageSignature (i.header :: i.words) == new.sig) := by
  unfold State.dropImage at himage
  simp only [configImageReloaded, hbad, Bool.not_true, Bool.false_eq_true, if_false, State.modUnit_strokes, hone, List.map_cons,
    List.map_nil, himage, List.foldl_cons, List.foldl_nil, hinst, Option.map_some]
  rfl

end

/-! ## Links (R411, R418, R422) -/

theorem withLink_eq (s : State) (key : Nat) (x : LinkEnd) : withLink s key x = s.setLink key x := rfl

theorem flitAt_eq (s : State) {kind slab : Nat} (key port seq : Nat) (ok : Bool) (hk : kind ≤ 10) (hs : slab ≤ 11) :
    flitAt s key kind slab port seq ok = (s.flit key kind slab port seq ok).1 := by
  cases ok with
  | true =>
    simp only [flitAt, State.flit, withLink_eq, State.link, beq_iff_eq, if_true, Bool.not_true, Bool.false_eq_true, if_false]
    split <;> rfl
  | false =>
    simp only [flitAt, State.flit, withLink_eq, lost_eq, corrected_eq _ _ hk hs, State.link, beq_iff_eq, Nat.reduceEqDiff,
      Bool.not_false, if_true, Bool.false_eq_true, if_false]

/-- A flit is not taken when its CRC fails, or when its number is not the one expected next. -/
theorem flit_refused_iff (s : State) (key kind slab port seq : Nat) (ok : Bool) :
    (s.flit key kind slab port seq ok).2 = false ↔ ok = false ∨ seq ≠ (s.link key).next := by
  cases ok with
  | true =>
    simp only [State.flit, Bool.not_true, Bool.false_eq_true, if_false, beq_iff_eq]
    split <;> simp [*]
  | false => exact iff_of_true rfl (Or.inl rfl)

theorem findIdx_eq_findIdx? {α : Type} (p : α → Bool) (l : List α) (n : Nat) : findIdx p l n = (l.findIdx? p).map (· + n) := by
  induction l generalizing n with
  | nil => rfl
  | cons x l ih =>
    simp only [findIdx, List.findIdx?_cons, ih]
    split
    · simp
    · simp only [Option.map_map]
      congr 1
      funext i
      simp only [Function.comp]
      omega

theorem arrivedFlits_eq (ack : Nat) (l : List (Nat × List LinkMsg)) : arrivedFlits ack l = ackFlits ack l := by
  unfold arrivedFlits ackFlits
  rw [findIdx_eq_findIdx?]
  cases l.findIdx? _ <;> rfl

theorem wydalSlab_eq : ∀ port < 16, [4, 8, 3, 7].getD (port / 4) 0 = wydalSlab port := by decide

theorem wydalSlab_le (port : Nat) : wydalSlab port ≤ 11 := by
  unfold wydalSlab
  split
  · decide
  split
  · decide
  split <;> decide

theorem neighbour_slab {slab port : Nat} (h : (neighbour slab port).isSome) : slab ≤ 11 := by
  unfold neighbour at h
  split at h
  · contradiction
  · omega

/-- Twelve slabs in three rows of four have 17 die links. -/
theorem linkKeys_die_of_ge {n : Nat} (h : 17 ≤ n) : linkKeys (.die n) = ([], 0) := by
  have hn : dieLinks[n]? = none := List.getElem?_eq_none h
  simp only [linkKeys, dieLinkEnds, hn, Option.bind_none]

theorem endsOf_die_of_ge {n : Nat} (h : 17 ≤ n) : endsOf (.die n) = ([], 0) := by
  unfold endsOf
  dsimp only
  split
  · rename_i hn
    obtain ⟨hlt, -⟩ := List.getElem?_eq_some_iff.mp hn
    exact absurd hlt (Nat.not_lt.mpr h)
  · rfl

theorem endsOf_die_of_lt : ∀ n < 17, endsOf (.die n) = linkKeys (.die n) := by decide

theorem endsOf_eq (link : LinkId) : endsOf link = linkKeys link := by
  cases link with
  | wydal port => rfl
  | die n =>
    rcases Nat.lt_or_ge n 17 with h | h
    · exact endsOf_die_of_lt n h
    · rw [endsOf_die_of_ge h, linkKeys_die_of_ge h]

/-! ## Budgets and power (R405, R406, R425, R426) -/

theorem shared_eq (a : Nat) (l : List Nat) (t : Table Nat) : shared a l t = shareOut a l.length l t := by
  simp only [shared, shareOut, Nat.min_comm 1024]

theorem rampStep_some (busy : Bool) (n : Nat) :
    rampStep busy (some n) =
      if busy then some (if n < 3 then n + 1 else 3) else if n ≤ 3 then some 4 else if n < 6 then some (n + 1) else none := by
  unfold rampStep
  cases busy <;> grind

theorem site_exists {slab site : Nat} (h : ¬(12 ≤ slab ∨ 192 ≤ site)) : (decide (slab < 12) && decide (site < sites)) = true := by
  obtain ⟨hslab, hsite⟩ := not_or.mp h
  rw [Bool.and_eq_true, decide_eq_true_eq, decide_eq_true_eq]
  exact ⟨Nat.lt_of_not_le hslab, Nat.lt_of_not_le hsite⟩

/-! ## Each event of the platform's table -/

theorem happens_bandwidthRefill {slab : Nat} {s t : State} (h : platformEvents (.bandwidthRefill slab) s = some t) :
    exec (.bandwidthRefill slab) s = .next t := by
  obtain ⟨hslab, h⟩ := Option.ite_none_left_eq_some.mp h
  simp only [shared_eq, List.sum_eq_foldl, List.foldl_map] at h
  cases h
  refine (congrArg Host.Outcome.next (if_pos (Nat.lt_of_not_le hslab))).trans ?_
  simp only [bandwidthRefill, bits_from_zero, Bool.not_eq_true', beq_iff_eq]
  rfl

theorem happens_gatewayRefill {s t : State} (h : platformEvents .gatewayRefill s = some t) : exec .gatewayRefill s = .next t := by
  cases h
  rfl

theorem happens_slewStep {slab : Nat} {s t : State} (h : platformEvents (.slewStep slab) s = some t) :
    exec (.slewStep slab) s = .next t := by
  obtain ⟨hslab, h⟩ := Option.ite_none_left_eq_some.mp h
  cases h
  refine (congrArg Host.Outcome.next (if_pos (Nat.lt_of_not_le hslab))).trans ?_
  simp only [slewStep, rampStep_some, SlewRelease.next, bits_from_zero, List.isEmpty_iff, beq_iff_eq, Bool.not_eq_true',
    List.isEmpty_eq_false_iff, ne_eq, ite_not]
  rfl

theorem happens_routerPowerGate {slab site : Nat} {s t : State} (h : platformEvents (.routerPowerGate slab site) s = some t) :
    exec (.routerPowerGate slab site) s = .next t := by
  obtain ⟨hin, h⟩ := Option.ite_none_left_eq_some.mp h
  change execRouterPowerGate slab site s = _
  simp only [execRouterPowerGate, site_exists hin, bits_from_zero, Bool.true_and, bne_iff_ne]
  split at h <;> cases h
  · rename_i hidle
    rw [if_neg (not_not_intro hidle)]
  · rename_i hidle
    rw [if_pos hidle]
    rfl

theorem happens_routerWake {slab site : Nat} {s t : State} (h : platformEvents (.routerWake slab site) s = some t) :
    exec (.routerWake slab site) s = .next t := by
  obtain ⟨hin, h⟩ := Option.ite_none_left_eq_some.mp h
  cases h
  exact congrArg Host.Outcome.next (if_pos (site_exists hin))

theorem happens_dieLinkFlit {link : Nat × Nat} {seq : Nat} {ok : Bool} {s t : State}
    (h : platformEvents (.dieLinkFlit link seq ok) s = some t) : exec (.dieLinkFlit link seq ok) s = .next t := by
  obtain ⟨hlink, h⟩ := Option.ite_none_right_eq_some.mp h
  cases h
  rw [flitAt_eq s _ _ _ _ (by decide) (neighbour_slab hlink)]
  exact congrArg Host.Outcome.next (if_pos hlink)

theorem happens_wydalFlit {port : Nat} {f : Flit} {crc : BitVec 64} {s t : State}
    (h : platformEvents (.wydalFlit port f crc) s = some t) : exec (.wydalFlit port f crc) s = .next t := by
  obtain ⟨hport, h⟩ := Option.ite_none_left_eq_some.mp h
  have hflit := flitAt_eq s (4096 + port) port f.seq.toNat (crc == Config.crc64 f) (kind := 9) (by decide) (wydalSlab_le port)
  have hrefused := flit_refused_iff s (4096 + port) 9 (wydalSlab port) port f.seq.toNat (crc == Config.crc64 f)
  rw [wydalSlab_eq port (Nat.lt_of_not_le hport)] at h
  dsimp only at h
  rw [hflit] at h
  refine (congrArg Host.Outcome.next (if_neg hport)).trans ?_
  dsimp only [wydalKey]
  generalize s.flit (4096 + port) 9 (wydalSlab port) port f.seq.toNat (crc == Config.crc64 f) = r at h hrefused ⊢
  split at h
  · rename_i hno
    cases h
    rw [hrefused.mpr hno]
    rfl
  · rename_i hyes
    rw [arrivedFlits_eq] at h
    cases h
    rw [eq_true_of_ne_false (mt hrefused.mp hyes)]
    rfl

theorem happens_linkLaneRetrain {link : LinkId} {s t : State} (h : platformEvents (.linkLaneRetrain link) s = some t) :
    exec (.linkLaneRetrain link) s = .next t := by
  dsimp only [platformEvents] at h
  rw [endsOf_eq, ← apply_ite] at h
  cases h
  rfl

theorem happens_laneSpareRemap {u lane : Nat} {s t : State} (h : platformEvents (.laneSpareRemap u lane) s = some t) :
    exec (.laneSpareRemap u lane) s = .next t := by
  obtain ⟨hidle, h⟩ := Option.ite_none_left_eq_some.mp h
  cases h
  have hc : (isNib u && decide (lane < 16) && (s.unit u).lane.queue.isEmpty && (s.unit u).lane.spareFor.isNone) = true := by
    simpa [not_or, and_assoc] using hidle
  exact congrArg Host.Outcome.next (if_pos hc)

theorem happens_wellRowRemap {slab well row : Nat} {s t : State} (h : platformEvents (.wellRowRemap slab well row) s = some t) :
    exec (.wellRowRemap slab well row) s = .next t := by
  obtain ⟨hfree, h⟩ := Option.ite_none_left_eq_some.mp h
  cases h
  have hc : (decide (slab < 12) && decide (well < 24) && (tabFind s.plat.wellRows (slab * 32 + well)).isNone) = true := by
    simpa [not_or, and_assoc] using hfree
  exact congrArg Host.Outcome.next (if_pos hc)

theorem happens_clockChange {mhz : Nat} {s t : State} (h : platformEvents (.clockChange mhz) s = some t) :
    exec (.clockChange mhz) s = .next t := by
  obtain ⟨hrange, h⟩ := Option.ite_none_right_eq_some.mp h
  cases h
  have hc : (decide (0 < mhz) && decide (mhz ≤ 2250)) = true := by
    rw [Bool.and_eq_true, decide_eq_true_eq, decide_eq_true_eq]
    exact hrange
  exact congrArg Host.Outcome.next (if_pos hc)

theorem happens_ucieLinkTraining {n : Nat} {s t : State} (h : platformEvents (.ucieLinkTraining n) s = some t) :
    exec (.ucieLinkTraining n) s = .next t := by
  obtain ⟨hn, h⟩ := Option.ite_none_right_eq_some.mp h
  cases h
  have hc : (n == 1 || n == 2 || n == 4) = true := by simpa [or_assoc] using hn
  exact congrArg Host.Outcome.next (if_pos hc)

theorem happens_correctableError {kind slab unit : Nat} {s t : State}
    (h : platformEvents (.correctableError kind slab unit) s = some t) : exec (.correctableError kind slab unit) s = .next t := by
  obtain ⟨hin, h⟩ := Option.ite_none_left_eq_some.mp h
  cases h
  rw [corrected_eq s unit (by omega) (by omega)]
  rfl

theorem happens_uncorrectableError {kind slab unit loc : Nat} {s t : State}
    (h : platformEvents (.uncorrectableError kind slab unit loc) s = some t) :
    exec (.uncorrectableError kind slab unit loc) s = .next t := by
  obtain ⟨hslab, h⟩ := Option.ite_none_left_eq_some.mp h
  obtain ⟨struck, hit, rfl⟩ := Option.map_eq_some_iff.mp h
  simp only [poisonedAt_eq, imageLost_eq] at hit
  suffices hs : kind ≤ 10 ∧ s.strike kind slab unit loc = struck by
    obtain ⟨hk, rfl⟩ := hs
    exact congrArg Host.Outcome.next (uncorrectableError_eq unit loc s hk (by omega))
  rcases Nat.lt_or_ge 10 kind with hk | hk
  · have hne (n : Nat) (hn : n ≤ 10) : kind ≠ n := by omega
    simp [hne] at hit
  · refine ⟨hk, ?_⟩
    have hkinds : kind = 0 ∨ kind = 1 ∨ kind = 2 ∨ kind = 3 ∨ kind = 4 ∨ kind = 5 ∨ kind = 6 ∨ kind = 7 ∨ kind = 8 ∨ kind = 9 ∨
        kind = 10 := by omega
    rcases hkinds with rfl | rfl | rfl | rfl | rfl | rfl | rfl | rfl | rfl | rfl | rfl
    all_goals exact Option.some.inj hit

theorem happens_configStoreError {u addr : Nat} {s t : State} (h : platformEvents (.configStoreError u addr) s = some t) :
    exec (.configStoreError u addr) s = .next t := by
  obtain ⟨hheld, h⟩ := Option.ite_none_left_eq_some.mp h
  cases h
  rw [imageLost_eq]
  exact congrArg Host.Outcome.next (if_pos (eq_true_of_ne_false hheld))

theorem happens_configImageReloaded {u addr : Nat} {s t : State} (h : platformEvents (.configImageReloaded u addr) s = some t) :
    exec (.configImageReloaded u addr) s = .next t := by
  obtain ⟨hbad, h⟩ := Option.ite_none_left_eq_some.mp h
  have hbad := eq_true_of_ne_false hbad
  refine congrArg Host.Outcome.next ?_
  dsimp only at h
  split at h
  · rename_i hnone
    cases h
    exact configImageReloaded_of_no_stroke hbad hnone
  · rename_i k x hone
    split at h
    · rename_i new t1 himage
      split at h
      · contradiction
      · rename_i i hinst
        cases h
        rw [configImageReloaded_of_one_stroke hbad hone himage hinst]
        simp only [State.afterReload, beq_iff_eq]
        rfl
    · contradiction
  · contradiction

theorem happens_moduleReset {boot : Option Boot} {version : BitVec 32} {s t : State}
    (h : platformEvents (.moduleReset boot version) s = some t) : exec (.moduleReset boot version) s = .next t := by
  cases boot <;> cases h <;> rfl

end Sys2Proof.Machine
end

section
open Sys2Proof Sys2Proof.Machine

/-- Settles O58, event by event: the claim's terms for links, errors and budgets are the model's operations, and where the table answers a
state, the guard under which the model acts is met. -/
theorem platformEventsHappen : Obligations.PlatformEventsHappen := by
  intro i s t h
  cases i
  case bandwidthRefill => exact happens_bandwidthRefill h
  case gatewayRefill => exact happens_gatewayRefill h
  case slewStep => exact happens_slewStep h
  case routerPowerGate => exact happens_routerPowerGate h
  case routerWake => exact happens_routerWake h
  case dieLinkFlit => exact happens_dieLinkFlit h
  case wydalFlit => exact happens_wydalFlit h
  case linkLaneRetrain => exact happens_linkLaneRetrain h
  case laneSpareRemap => exact happens_laneSpareRemap h
  case wellRowRemap => exact happens_wellRowRemap h
  case clockChange => exact happens_clockChange h
  case ucieLinkTraining => exact happens_ucieLinkTraining h
  case correctableError => exact happens_correctableError h
  case uncorrectableError => exact happens_uncorrectableError h
  case configStoreError => exact happens_configStoreError h
  case configImageReloaded => exact happens_configImageReloaded h
  case moduleReset => exact happens_moduleReset h
  all_goals contradiction

end

section
/-! Integer operands in bit vectors (R5, R92–R97): the model computes on natural numbers and integers and narrows at the end, and this is the
arithmetic of bit vectors of the width. -/
namespace Sys2Proof.Claim
open Sys2Proof.Machine

/-! ## Sign extension, views and extension of results (R5, R92) -/

theorem toSigned_eq_toInt (x n : Nat) : toSigned x n = (BitVec.ofNat n x).toInt := by
  cases n with
  | zero => simp [toSigned, Nat.mod_one, BitVec.toInt_zero_length]
  | succ n =>
    have hhalf : x % 2 ^ (n + 1) < 2 ^ n ↔ 2 * (x % 2 ^ (n + 1)) < 2 ^ (n + 1) := by rw [Nat.pow_succ]; omega
    simp only [toSigned, BitVec.toInt, BitVec.toNat_ofNat, Nat.add_sub_cancel, hhalf]

theorem ofNat_ofInt (n : Nat) (v : Int) : BitVec.ofNat n (ofInt v n) = BitVec.ofInt n v := by
  apply BitVec.eq_of_toNat_eq
  have hlt := (BitVec.ofInt n v).isLt
  rw [BitVec.toNat_ofInt] at hlt
  rw [BitVec.toNat_ofNat, BitVec.toNat_ofInt, ofInt, Nat.mod_eq_of_lt hlt]

theorem sext_eq_signExtend (x n : Nat) : sext x n = (BitVec.ofNat n x).signExtend 64 := by
  rw [sext, word, ofNat_ofInt, toSigned_eq_toInt, BitVec.signExtend]

theorem sext_toNat {n : Nat} (v : BitVec n) : sext v.toNat n = v.signExtend 64 := by
  rw [sext_eq_signExtend, BitVec.ofNat_toNat, BitVec.setWidth_eq]

theorem zext_eq_setWidth (x n : Nat) : zext x n = (BitVec.ofNat n x).setWidth 64 := by
  rw [zext, word, ← BitVec.toNat_ofNat, BitVec.ofNat_toNat]

theorem intView_eq_view (n : Nat) (u : BitVec 1) (a : Word) : intView n u a = view u (a.setWidth n) := by
  simp only [intView, view, beq_iff_eq, toSigned_eq_toInt, BitVec.ofNat_toNat, BitVec.toNat_setWidth]

theorem intExtend_eq_ret (n : Nat) (u : BitVec 1) (v : Int) : intExtend n u v = ret u (BitVec.ofInt n v) := by
  simp only [intExtend, ret, beq_iff_eq, zext_eq_setWidth, sext_eq_signExtend, ofNat_ofInt]

/-- Reading a view back gives the operand, whichever view it is. -/
@[simp] theorem ofInt_view {n : Nat} (u : BitVec 1) (v : BitVec n) : BitVec.ofInt n (view u v) = v := by
  unfold view
  split
  · rw [BitVec.ofInt_natCast, BitVec.ofNat_toNat, BitVec.setWidth_eq]
  · exact BitVec.ofInt_toInt

theorem intExtend_eq_narrow (w : BitVec 2) (u : BitVec 1) (v : Int) : intExtend (intWidth w) u v = narrow w u v := intExtend_eq_ret _ u v

theorem intWidth_le (w : BitVec 2) : intWidth w ≤ 64 := Nat.div_le_self _ _

/-! ## The shared operations in bit vectors (R92, R93) -/

theorem intOp2_eq (w : BitVec 2) (u : BitVec 1) (f : Int → Int → Int) (g : Args) (s : State) :
    intOp2 w u f g s = .value s (narrow w u (f (view u (low w g.av)) (view u (low w g.bv)))) := by
  simp only [intOp2, intView_eq_view, intExtend_eq_narrow]
  rfl

theorem intOpB_eq (w : BitVec 2) (u : BitVec 1) (f : Word → Word → Word) (g : Args) (s : State) :
    intOpB w u f g s = .value s (ret u (low w (f g.av g.bv))) := by
  simp only [intOpB, intBits, intExtend_eq_ret, BitVec.ofInt_natCast, low]
  rw [← BitVec.toNat_setWidth, BitVec.ofNat_toNat, BitVec.setWidth_eq]
  rfl

theorem ofInt_shiftLeft (n : Nat) (a b : Word) : BitVec.ofInt n (shiftLeft n a b) = a.setWidth n <<< shiftAmount b n := by
  apply BitVec.eq_of_toNat_eq
  rw [shiftLeft, BitVec.ofInt_natCast, BitVec.toNat_ofNat, BitVec.toNat_shiftLeft, BitVec.toNat_setWidth, Nat.shiftLeft_eq, Nat.mod_mul_mod]

theorem ofInt_shiftRight (n : Nat) (a b : Word) : BitVec.ofInt n (shiftRight n a b) = a.setWidth n >>> shiftAmount b n := by
  apply BitVec.eq_of_toNat_eq
  have hlt : a.toNat % 2 ^ n / 2 ^ shiftAmount b n < 2 ^ n :=
    Nat.lt_of_le_of_lt (Nat.div_le_self _ _) (Nat.mod_lt _ (Nat.two_pow_pos n))
  rw [shiftRight, BitVec.ofInt_natCast, BitVec.toNat_ofNat, BitVec.toNat_ushiftRight, BitVec.toNat_setWidth, Nat.shiftRight_eq_div_pow,
    Nat.mod_eq_of_lt hlt]

theorem ofInt_shiftArith (n : Nat) (a b : Word) :
    BitVec.ofInt n (shiftArith n a b) = (a.setWidth n).sshiftRight (shiftAmount b n) := by
  rw [shiftArith, toSigned_eq_toInt, BitVec.ofNat_toNat, BitVec.sshiftRight, Int.shiftRight_eq_div_pow]

theorem shiftAmount_word (n : BitVec 6) (w : Nat) : shiftAmount (word n.toNat) w = n.toNat % w := by
  have hn := n.isLt
  rw [shiftAmount, word, BitVec.toNat_ofNat, Nat.mod_eq_of_lt (by omega : n.toNat < 2 ^ 64), Nat.mod_eq_of_lt (by omega : n.toNat < 64)]

/-! ## Counting bits (R93) -/

theorem bit_toNat (a : Word) (n : Nat) : bit a.toNat n = a.getLsbD n := by
  rw [bit, BitVec.getLsbD, Nat.testBit_eq_decide_div_mod_eq, Bool.beq_eq_decide_eq]

/-- One more bit in front: a 1 leaves no leading zero, a 0 adds one. -/
theorem leadingZeros_succ (n : Nat) (a : Word) : leadingZeros (n + 1) a = if a.getLsbD n then 0 else leadingZeros n a + 1 := by
  have hlt : a.toNat % 2 ^ n < 2 ^ n := Nat.mod_lt _ (Nat.two_pow_pos n)
  have hmod : a.toNat % 2 ^ (n + 1) = a.toNat % 2 ^ n + 2 ^ n * (a.getLsbD n).toNat := by
    rw [Nat.mod_pow_succ, ← bit_toNat, bit]
    rcases Nat.mod_two_eq_zero_or_one (a.toNat / 2 ^ n) with h | h <;> simp [h]
  cases hb : a.getLsbD n with
  | true =>
    have hlog : (a.toNat % 2 ^ (n + 1)).log2 = n := by
      rw [hmod, hb, Nat.log2_eq_iff (by simp)]
      simp only [Bool.toNat_true, Nat.pow_succ]
      omega
    have hne : a.toNat % 2 ^ (n + 1) ≠ 0 := by simp [hmod, hb]
    simp [leadingZeros, hlog, hne]
  | false =>
    simp only [leadingZeros, hmod, hb, Bool.toNat_false, Nat.mul_zero, Nat.add_zero, beq_iff_eq, Bool.false_eq_true, if_false]
    split
    · rfl
    · rename_i hne
      have := (Nat.log2_lt hne).mpr hlt
      omega

theorem leadingZeros_eq_length (n : Nat) (a : Word) :
    leadingZeros n a = ((List.range n).reverse.takeWhile fun i => !a.getLsbD i).length := by
  induction n with
  | zero => simp [leadingZeros, Nat.mod_one]
  | succ n ih =>
    rw [leadingZeros_succ, ih, List.range_succ, List.reverse_concat, List.takeWhile_cons]
    cases a.getLsbD n <;> rfl

theorem onesIn_eq_length (n : Nat) (a : Word) : onesIn a.toNat n = ((List.range n).filter fun i => a.getLsbD i).length := by
  induction n with
  | zero => rfl
  | succ n ih =>
    rw [onesIn, bit_toNat, ih, List.range_succ, List.filter_append, List.length_append, Nat.add_comm]
    cases h : a.getLsbD n <;> simp [h]

/-! ## Comparison, fields and addresses (R93, R96, R97) -/

theorem intCond_iff (f : BitVec 2) (a b : Int) :
    intCond f a b = true ↔ (f = 0 ∧ a = b) ∨ (f = 1 ∧ a ≠ b) ∨ (f = 2 ∧ a < b) ∨ (f = 3 ∧ a ≥ b) := by
  obtain rfl | rfl | rfl | rfl : f = 0 ∨ f = 1 ∨ f = 2 ∨ f = 3 := by revert f; decide
  all_goals simp [intCond]

/-- LEN of BFX and BFI. -/
theorem bits_14_8 (x : Nat) : bits x 14 8 = x / 2 ^ 8 % 2 ^ 7 := rfl

/-- The field of BFX as a bit vector of its length; a field of length 0 is 0. -/
theorem bitField_eq (u : BitVec 1) (a b : Word) :
    bitField u a b = ret u ((a >>> (b.toNat % 64)).setWidth (min (b.toNat / 2 ^ 8 % 2 ^ 7) 64)) := by
  rw [bitField, bits_14_8]
  generalize min (b.toNat / 2 ^ 8 % 2 ^ 7) 64 = len
  have hfield : a.toNat / 2 ^ (b.toNat % 64) % 2 ^ len = ((a >>> (b.toNat % 64)).setWidth len).toNat := by
    rw [BitVec.toNat_setWidth, BitVec.toNat_ushiftRight, Nat.shiftRight_eq_div_pow]
  simp only [hfield, sext_toNat, beq_iff_eq, ret, word, BitVec.ofNat_toNat]
  split
  · rename_i hlen
    subst hlen
    simp [BitVec.of_length_zero]
  · rfl

theorem word_mul_two_pow (b : Word) (k : Nat) : word (b.toNat * 2 ^ k) = b <<< k := by
  apply BitVec.eq_of_toNat_eq
  rw [word, BitVec.toNat_ofNat, BitVec.toNat_shiftLeft, Nat.shiftLeft_eq]

/-- The mask of BFI. -/
theorem word_mask {len : Nat} (hlen : len ≤ 64) (k : Nat) :
    word ((2 ^ len - 1) * 2 ^ k) = (BitVec.allOnes len).setWidth 64 <<< k := by
  have hones : ((BitVec.allOnes len).setWidth 64).toNat = 2 ^ len - 1 := by
    rw [BitVec.toNat_setWidth_of_le hlen, BitVec.toNat_allOnes]
  rw [← word_mul_two_pow, hones]

theorem bitInsert_eq (a b c : Word) :
    bitInsert a b c =
      (a &&& ~~~((BitVec.allOnes (min (c.toNat / 2 ^ 8 % 2 ^ 7) 64)).setWidth 64 <<< (c.toNat % 64))) |||
        (b <<< (c.toNat % 64) &&& (BitVec.allOnes (min (c.toNat / 2 ^ 8 % 2 ^ 7) 64)).setWidth 64 <<< (c.toNat % 64)) := by
  simp only [bitInsert, bits_14_8, word_mul_two_pow, word_mask (Nat.min_le_right _ 64)]

theorem leaAddr_eq (x : BitVec 1) (k : BitVec 3) (a b : Word) :
    leaAddr x k a b = a + (if x = 1 then (b.setWidth 32).signExtend 64 else b) <<< k.toNat := by
  have hindex : BitVec.ofInt 64 (if x == 1 then toSigned b.toNat 32 else (b.toNat : Int)) =
      if x = 1 then (b.setWidth 32).signExtend 64 else b := by
    simp only [beq_iff_eq, toSigned_eq_toInt, BitVec.ofNat_toNat]
    split
    · rfl
    · simp
  have hpow : BitVec.ofNat 64 (2 ^ k.toNat) = BitVec.twoPow 64 k.toNat := by
    simpa [word, BitVec.twoPow_eq] using word_mul_two_pow 1 k.toNat
  rw [leaAddr, word, ofNat_ofInt, BitVec.ofInt_add, BitVec.ofInt_mul, hindex, BitVec.ofInt_natCast, BitVec.ofInt_natCast, hpow,
    BitVec.ofNat_toNat, BitVec.setWidth_eq, BitVec.shiftLeft_eq_mul_twoPow]

end Sys2Proof.Claim
end

section
/-! The integer instructions complete with the results of the tables (O16, O17). -/
namespace Sys2Proof.Claim
open Sys2Proof.Machine

/-- An instruction whose operation gives one word for both targets completes with it. -/
theorem completes_gives {i : Instr} {op : Ctx → Args → State → Fire} {f : Ctx → Args → Word} (hx : exec i = fire i op)
    (hop : ∀ x g s, op x g s = .value s (f x g)) : Completes i (gives f) := by
  refine completes_of_send hx fun x g s s' r1 r2 he => ?_
  cases he
  exact hop x g s

/-- An operation on the two views completes with its exact result narrowed to W (R92). -/
theorem completes_intOp2 {i : Instr} {w : BitVec 2} {u : BitVec 1} {f : Int → Int → Int} (hx : exec i = fire i fun _ g s => intOp2 w u f g s) :
    Completes i (gives fun _ g => narrow w u (f (view u (low w g.av)) (view u (low w g.bv)))) :=
  completes_gives hx fun _ g s => intOp2_eq w u f g s

/-- An operation on the two views that is, modulo 2^W, one of bit vectors. -/
theorem completes_modular {i : Instr} {w : BitVec 2} {u : BitVec 1} {f : Int → Int → Int}
    {h : BitVec (64 / 2 ^ w.toNat) → BitVec (64 / 2 ^ w.toNat) → BitVec (64 / 2 ^ w.toNat)}
    (hx : exec i = fire i fun _ g s => intOp2 w u f g s) (hf : ∀ a b, BitVec.ofInt _ (f (view u a) (view u b)) = h a b) :
    Completes i (gives fun _ g => ret u (h (low w g.av) (low w g.bv))) :=
  completes_gives hx fun _ g s => by rw [intOp2_eq, narrow, hf]

/-- A bitwise operation completes with that of the W low bits. -/
theorem completes_bitwise {i : Instr} {w : BitVec 2} {u : BitVec 1} {f : Word → Word → Word}
    {h : BitVec (64 / 2 ^ w.toNat) → BitVec (64 / 2 ^ w.toNat) → BitVec (64 / 2 ^ w.toNat)}
    (hx : exec i = fire i fun _ g s => intOpB w u f g s) (hf : ∀ a b, low w (f a b) = h (low w a) (low w b)) :
    Completes i (gives fun _ g => ret u (h (low w g.av) (low w g.bv))) :=
  completes_gives hx fun _ g s => by rw [intOpB_eq, hf]

/-- A shift by an amount of a word completes with that of the W low bits. -/
theorem completes_shift {i : Instr} {w : BitVec 2} {u : BitVec 1} {f : Nat → Word → Word → Int} {b : Args → Word}
    {h : ∀ n, BitVec n → Nat → BitVec n} (hx : exec i = fire i fun _ g s => intShift w u f g.av (b g) s)
    (hf : ∀ n a c, BitVec.ofInt n (f n a c) = h n (a.setWidth n) (shiftAmount c n)) :
    Completes i (gives fun _ g => ret u (h _ (low w g.av) (shiftAmount (b g) (64 / 2 ^ w.toNat)))) :=
  completes_gives hx fun _ g s => by
    rw [intShift, intExtend_eq_ret, hf]
    rfl

/-- A shift by the immediate N. -/
theorem completes_shift_imm {i : Instr} {w : BitVec 2} {u : BitVec 1} {f : Nat → Word → Word → Int} {n : BitVec 6}
    {h : ∀ n, BitVec n → Nat → BitVec n} (hx : exec i = fire i fun _ g s => intShift w u f g.av (word n.toNat) s)
    (hf : ∀ n a c, BitVec.ofInt n (f n a c) = h n (a.setWidth n) (shiftAmount c n)) :
    Completes i (gives fun _ g => ret u (h _ (low w g.av) (n.toNat % (64 / 2 ^ w.toNat)))) :=
  shiftAmount_word n (64 / 2 ^ w.toNat) ▸ completes_shift hx hf

/-- An immediate form completes with the sign-extended immediate as its second operand (R95). -/
theorem completes_imm {i : Instr} {imm : BitVec 14} {f : Word → Word → Word}
    (hx : exec i = fire i fun _ g s => .value s (f g.av (sext imm.toNat 14))) : Completes i (gives fun _ g => f g.av (imm.signExtend 64)) :=
  completes_gives hx fun _ _ _ => by rw [sext_toNat]

theorem integerArithmetic_completes : completes integerArithmeticResults := by
  intro i e h
  cases i
  case add => cases h; exact completes_modular rfl fun _ _ => by rw [BitVec.ofInt_add, ofInt_view, ofInt_view]
  case sub =>
    cases h
    exact completes_modular rfl fun _ _ => by
      rw [Int.sub_eq_add_neg, BitVec.ofInt_add, BitVec.ofInt_neg, ofInt_view, ofInt_view, BitVec.sub_eq_add_neg]
  case mul => cases h; exact completes_modular rfl fun _ _ => by rw [BitVec.ofInt_mul, ofInt_view, ofInt_view]
  case neg => cases h; exact completes_modular (h := fun a _ => -a) rfl fun _ _ => by rw [BitVec.ofInt_neg, ofInt_view]
  case mulh =>
    cases h
    exact completes_gives rfl fun _ g s => by rw [intOp2_eq, Int.natCast_pow, Int.cast_ofNat_Int, intWidth]
  case min => cases h; exact completes_intOp2 rfl
  case max => cases h; exact completes_intOp2 rfl
  case addi => cases h; exact completes_imm (f := (· + ·)) rfl
  all_goals contradiction

theorem integerLogic_completes : completes integerLogicResults := by
  intro i e h
  cases i
  case and => cases h; exact completes_bitwise rfl fun _ _ => BitVec.setWidth_and
  case or => cases h; exact completes_bitwise rfl fun _ _ => BitVec.setWidth_or
  case xor => cases h; exact completes_bitwise rfl fun _ _ => BitVec.setWidth_xor
  case andn t v p w u =>
    cases h
    exact completes_bitwise (h := fun a b => a &&& ~~~b) rfl fun a b =>
      BitVec.setWidth_and.trans (congrArg (low w a &&& ·) (BitVec.setWidth_not (intWidth_le w)))
  case not t v p w u => cases h; exact completes_bitwise (h := fun a _ => ~~~a) rfl fun _ _ => BitVec.setWidth_not (intWidth_le w)
  case andi => cases h; exact completes_imm (f := (· &&& ·)) rfl
  case ori => cases h; exact completes_imm (f := (· ||| ·)) rfl
  case xori => cases h; exact completes_imm (f := (· ^^^ ·)) rfl
  case shl => cases h; exact completes_shift (h := fun _ a k => a <<< k) rfl ofInt_shiftLeft
  case shr => cases h; exact completes_shift (h := fun _ a k => a >>> k) rfl ofInt_shiftRight
  case asr => cases h; exact completes_shift (h := fun _ a k => a.sshiftRight k) rfl ofInt_shiftArith
  case shli => cases h; exact completes_shift_imm (h := fun _ a k => a <<< k) rfl ofInt_shiftLeft
  case shri => cases h; exact completes_shift_imm (h := fun _ a k => a >>> k) rfl ofInt_shiftRight
  case asri => cases h; exact completes_shift_imm (h := fun _ a k => a.sshiftRight k) rfl ofInt_shiftArith
  all_goals contradiction

theorem integerField_completes : completes integerFieldResults := by
  intro i e h
  cases i
  case clz =>
    cases h
    exact completes_gives rfl fun _ g s => by rw [intExtend_eq_narrow, leadingZeros_eq_length, intWidth]
  case popc =>
    cases h
    exact completes_gives rfl fun _ g s => by rw [intExtend_eq_narrow, onesIn_eq_length, intWidth]
  case cmp t v p w u f =>
    cases h
    exact completes_gives rfl fun _ g s => by
      simp only [intView_eq_view, intCond_iff]
      rfl
  case bfx => cases h; exact completes_gives rfl fun _ g s => congrArg (Fire.value s) (bitField_eq _ _ _)
  case bfi => cases h; exact completes_gives rfl fun _ g s => congrArg (Fire.value s) (bitInsert_eq _ _ _)
  case lea => cases h; exact completes_gives rfl fun _ g s => congrArg (Fire.value s) (leaAddr_eq _ _ _ _)
  all_goals contradiction

end Sys2Proof.Claim
end

section
open Sys2Proof Sys2Proof.Machine Sys2Proof.Claim

/-- Settles O16: sums, differences, products and negations are modular in the width whichever the view; the rest is the exact result of the
views. -/
theorem integerArithmeticResults : Obligations.IntegerArithmeticResults := integerArithmetic_completes

/-- Settles O17: each result, computed on natural numbers and integers, is the operation of bit vectors that the table names. -/
theorem integerLogicResults : Obligations.IntegerLogicResults := ⟨integerLogic_completes, integerField_completes⟩

/-- Settles O6: the listed words are closed, and each decodes as its listing says. -/
theorem listedWords : Obligations.ListedWords := by
  unfold Obligations.ListedWords
  decide

end
